-- ==== Sys2Proof/Word.lean ====
section
/-! DEFINITION. The words of the machine and the sparse map in canonical form that holds every memory and
register array of the model. -/
namespace Sys2Proof

/-- A byte. -/
abbrev Byte := BitVec 8
/-- A 64-bit register or signal word (R168, R289). -/
abbrev W64 := BitVec 64
/-- A Conjunction instruction word (R217). -/
abbrev W32 := BitVec 32
/-- A Conjunction register number (R168). -/
abbrev Reg := BitVec 5

/-- A sparse map from natural numbers: keys strictly rising, no entry equal to the map's default. -/
abbrev NMap (α : Type) := List (Nat × α)

namespace NMap

/-- The value at key `k`, or the default `d`. -/
def get {α : Type} (d : α) : NMap α → Nat → α
  | [], _ => d
  | (j, v) :: m, k => if j = k then v else get d m k

/-- The value at key `k` where the map lists it. -/
def find {α : Type} : NMap α → Nat → Option α
  | [], _ => none
  | (j, v) :: m, k => if j = k then some v else find m k

/-- Removes key `k`. -/
def erase {α : Type} : NMap α → Nat → NMap α
  | [], _ => []
  | (j, v) :: m, k => if j = k then m else (j, v) :: erase m k

/-- Lists `v` at key `k`, keeping the keys rising. -/
def insert {α : Type} : NMap α → Nat → α → NMap α
  | [], k, v => [(k, v)]
  | (j, w) :: m, k, v =>
    if k < j then (k, v) :: (j, w) :: m
    else if k = j then (k, v) :: m
    else (j, w) :: insert m k v

/-- Writes `v` at key `k`; writing the default removes the entry, so that equal maps are equal data. -/
def set {α : Type} [DecidableEq α] (d : α) (m : NMap α) (k : Nat) (v : α) : NMap α :=
  if v = d then erase m k else insert m k v

/-- Applies `f` to the value at key `k`. -/
def upd {α : Type} [DecidableEq α] (d : α) (m : NMap α) (k : Nat) (f : α → α) : NMap α :=
  set d m k (f (get d m k))

/-- Applies `f` to every listed value; entries that become the default are dropped. -/
def mapVals {α : Type} [DecidableEq α] (d : α) (f : Nat → α → α) : NMap α → NMap α
  | [] => []
  | (j, v) :: m => let w := f j v; if w = d then mapVals d f m else (j, w) :: mapVals d f m

/-- Every listed key is above `lo`, the keys rise strictly, and no value is the default. -/
def wfFrom {α : Type} [DecidableEq α] (d : α) : Option Nat → NMap α → Bool
  | _, [] => true
  | lo, (j, v) :: m =>
    (match lo with | none => true | some l => decide (l < j)) && decide (v ≠ d) && wfFrom d (some j) m

/-- The canonical form. -/
def wf {α : Type} [DecidableEq α] (d : α) (m : NMap α) : Bool := wfFrom d none m

end NMap

/-- A memory of bytes: a map of (address, byte) pairs whose unlisted bytes read as zero (notes/assumptions/8). -/
abbrev Mem := NMap Byte

namespace Mem
/-- What a byte that nothing has written reads as: zero, by R247 and R492 for the memories of the grid, and a
DESIGN CHOICE of notes/assumptions/8 for HBM3E and LPDDR5X. -/
def unwritten : Byte := 0
/-- One byte. -/
def rd (m : Mem) (a : Nat) : Byte := NMap.get unwritten m a
/-- Writes one byte. -/
def wr (m : Mem) (a : Nat) (b : Byte) : Mem := NMap.set unwritten m a b
/-- `n` bytes from `a`, lowest address first. -/
def rdN (m : Mem) (a : Nat) : Nat → List Byte
  | 0 => []
  | n + 1 => rd m a :: rdN m (a + 1) n
/-- Writes bytes from `a` up. -/
def wrN (m : Mem) (a : Nat) : List Byte → Mem
  | [] => m
  | b :: bs => wrN (wr m a b) (a + 1) bs
/-- Writes those bytes of a line at `a` whose enable bit is set (R239). -/
def wrEn (m : Mem) (a : Nat) (i : Nat) (en : W64) : List Byte → Mem
  | [] => m
  | b :: bs => wrEn (if en.getLsbD i then wr m (a + i) b else m) a (i + 1) en bs
/-- Writes a whole 64-B line under byte enables. -/
def wrLine (m : Mem) (a : Nat) (line : List Byte) (en : W64) : Mem := wrEn m a 0 en (line.take 64)
/-- The canonical form. -/
def wf (m : Mem) : Bool := NMap.wf unwritten m
end Mem

end Sys2Proof
end

