-- ==== Sys2Proof/Syntax.lean ====
section
/-! DEFINITION. The commands of the device: one constructor of Instr per row of spec/opcode_table.json, with the
operands the environment supplies (what a flit, frame, datagram or pad carries, or what happened). What rides beside an event
(a check code's outcome, a domain, a sequence number, an address of the sender) stands last and defaults to the plain case. -/
namespace Sys2Proof

/-- A logical cell row.col (R10). -/
structure LCell where
  row : Nat
  col : Nat
  deriving DecidableEq, Repr, Inhabited

/-- A direction or Noun port, coded 0 N, 1 S, 2 E, 3 W (R66, R67). -/
inductive Dir where
  | n | s | e | w
  deriving DecidableEq, Repr, Inhabited

/-- The agent that a source ID names (R270); `ioDie` stands for the operations an I/O die issues itself (R533). -/
inductive Src where
  | cell (c : LCell)
  | frameMover (f m : Nat)
  | ioMover (d m : Nat)
  | store (f : Nat)
  | ioDie (d : Nat)
  deriving DecidableEq, Repr, Inhabited

/-- What a SECDED check finds on the word an event touches: an input of the event (R76, R255, R259, R293, R314). -/
inductive Ecc where
  | good | corrected | upset
  deriving DecidableEq, Repr, Inhabited

/-- The engine of a launch (R175, R271). -/
inductive Engine where
  | verb | vec | smm
  deriving DecidableEq, Repr, Inhabited

/-- The condition of a WAIT (R298). -/
inductive Cond where
  | ge | eq | any
  deriving DecidableEq, Repr, Inhabited

/-- Why a message was discarded (R277). -/
inductive ClosedCause where
  | closed | draining | stale
  deriving DecidableEq, Repr, Inhabited

/-- For whom a signal operation is made: a clause (R301), the host (R471), or another device's remote raise (R309). -/
inductive SigKind where
  | clause | host | remote
  deriving DecidableEq, Repr, Inhabited

/-- A signal operation flit as it reaches the store (R300): the sender, the word, the operand, the sender's clause
and its instruction or descriptor offset; and for whom it is made (MODEL's own). -/
structure SigReq where
  src    : Src
  frame  : Nat
  word   : Nat
  v      : W64
  clause : Nat
  off    : Nat
  kind   : SigKind := .clause
  deriving DecidableEq, Repr, Inhabited

/-- A Beluf datagram of the host (R429), with the port, MAC address, IP address and UDP port it came from. -/
structure Req where
  port    : Nat
  mac     : List Byte := []
  ip      : List Byte
  udp     : Nat
  session : Nat
  seq     : Nat
  index   : Nat
  sub     : Nat
  data    : List Byte
  /-- The address of the port to which it was sent; none where it was broadcast or sent to MCAST_GROUP (R373, R444). -/
  dst     : Option (List Byte) := none
  deriving DecidableEq, Repr, Inhabited

/-- The payload of a LINK_CTRL frame (R378). -/
structure LinkCtrl where
  ackSeq    : Nat
  lane      : Nat
  cred0     : Nat
  cred1     : Nat
  fabricId  : Nat
  port      : Nat
  caps      : Nat
  mode      : Nat
  spareLseq : Nat
  deriving DecidableEq, Repr, Inhabited

/-- The header of a fabric frame (R383), without the fields the receiver recomputes. -/
structure FabHdr where
  srcId  : Nat
  pos    : Nat
  route  : Nat
  lseq   : Nat
  result : Nat
  tag    : Nat
  target : Nat
  deriving DecidableEq, Repr, Inhabited

/-- What the sensors read at a beat edge (R524, R527): mean package power over the last 16, 256 and 1,024 beats in W,
and the hottest sensor of each of the six dies in units of 0.01 degrees. -/
structure Measure where
  power16   : Nat
  power256  : Nat
  power1024 : Nat
  temps     : List Nat
  deriving DecidableEq, Repr, Inhabited

/-- A part that a self-test slice or the start-up self-test found failed (R490): the part code 1-5, the physical cell
unit in the frame, and the detail (bank, 16 the spare bank; list of failed entries). -/
structure SliceFail where
  part    : Nat
  cell    : Nat
  bank    : Nat
  entries : List Nat
  deriving DecidableEq, Repr, Inhabited

/-- Where a configuration readback finds an error (R421, R422): a slot of a frame, or a frame's tables. -/
inductive ConfLoc where
  | slot (f k : Nat)
  | table (f : Nat)
  deriving DecidableEq, Repr, Inhabited

/-- The straps as the pads hold them at the rising edge of RESET_N (R517). -/
structure Straps where
  master   : Bool
  hostport : Bool
  id       : BitVec 6
  deriving DecidableEq, Repr, Inhabited

/-- A mover (R318, R320). -/
inductive MoverId where
  | frame (f m : Nat)
  | io (d m : Nat)
  deriving DecidableEq, Repr, Inhabited

/-- What the JTAG port shifts in (R508). -/
inductive JtagOp where
  | bypass | idcode | samplePreload
  | extest (outputs : List Bool)
  | internal
  deriving DecidableEq, Repr, Inhabited

/-- Why a host port discards a frame or packet (R369, R374): a flow-control frame, a frame over 9,216 B, one of another VLAN
(its VLAN ID, none untagged) or EtherType, a fragment, an extension header, a bad checksum, or another UDP port. -/
inductive HostDrop where
  | flowControl
  | oversize (bytes : Nat)
  | vlan (id : Option Nat)
  | etherType (t : Nat)
  | fragment | extension | checksum
  | udpPort (udp : Nat)
  deriving DecidableEq, Repr, Inhabited

/-- The commands, in the order of the table. -/
inductive Instr where
  /-- R220: register ALU group of cell `c`, sources `a` `b`, destination `d`. -/
  | add (c : LCell) (a b d : Reg)
  | sub (c : LCell) (a b d : Reg)
  | and (c : LCell) (a b d : Reg)
  | ior (c : LCell) (a b d : Reg)
  | xor (c : LCell) (a b d : Reg)
  | lsl (c : LCell) (a b d : Reg)
  | lsr (c : LCell) (a b d : Reg)
  | asr (c : LCell) (a b d : Reg)
  | lts (c : LCell) (a b d : Reg)
  | ltu (c : LCell) (a b d : Reg)
  | mins (c : LCell) (a b d : Reg)
  | maxs (c : LCell) (a b d : Reg)
  | minu (c : LCell) (a b d : Reg)
  | maxu (c : LCell) (a b d : Reg)
  | mullo (c : LCell) (a b d : Reg)
  | mulhs (c : LCell) (a b d : Reg)
  | mulhu (c : LCell) (a b d : Reg)
  /-- R221 -/
  | quos (c : LCell) (a b d : Reg)
  | quou (c : LCell) (a b d : Reg)
  | rmds (c : LCell) (a b d : Reg)
  | rmdu (c : LCell) (a b d : Reg)
  /-- R222: source `a`, destination `d`, constant. -/
  | addk (c : LCell) (a d : Reg) (imm : BitVec 16)
  | andk (c : LCell) (a d : Reg) (imm : BitVec 16)
  | iork (c : LCell) (a d : Reg) (imm : BitVec 16)
  | xork (c : LCell) (a d : Reg) (imm : BitVec 16)
  | ltsk (c : LCell) (a d : Reg) (imm : BitVec 16)
  | ltuk (c : LCell) (a d : Reg) (imm : BitVec 16)
  | lslk (c : LCell) (a d : Reg) (imm : BitVec 16)
  | lsrk (c : LCell) (a d : Reg) (imm : BitVec 16)
  | asrk (c : LCell) (a d : Reg) (imm : BitVec 16)
  | kld (c : LCell) (d : Reg) (imm : BitVec 21)
  | ksh (c : LCell) (a d : Reg) (imm : BitVec 16)
  /-- R223: loads to `d`, stores of `r`, at register `a` plus the constant. -/
  | ld8s (c : LCell) (a d : Reg) (imm : BitVec 16)
  | ld8u (c : LCell) (a d : Reg) (imm : BitVec 16)
  | ld16s (c : LCell) (a d : Reg) (imm : BitVec 16)
  | ld16u (c : LCell) (a d : Reg) (imm : BitVec 16)
  | ld32s (c : LCell) (a d : Reg) (imm : BitVec 16)
  | ld32u (c : LCell) (a d : Reg) (imm : BitVec 16)
  | ld64 (c : LCell) (a d : Reg) (imm : BitVec 16)
  | st8 (c : LCell) (a r : Reg) (imm : BitVec 16)
  | st16 (c : LCell) (a r : Reg) (imm : BitVec 16)
  | st32 (c : LCell) (a r : Reg) (imm : BitVec 16)
  | st64 (c : LCell) (a r : Reg) (imm : BitVec 16)
  /-- R224 -/
  | jeq (c : LCell) (a b : Reg) (off : BitVec 16)
  | jne (c : LCell) (a b : Reg) (off : BitVec 16)
  | jlts (c : LCell) (a b : Reg) (off : BitVec 16)
  | jges (c : LCell) (a b : Reg) (off : BitVec 16)
  | jltu (c : LCell) (a b : Reg) (off : BitVec 16)
  | jgeu (c : LCell) (a b : Reg) (off : BitVec 16)
  | call (c : LCell) (d : Reg) (imm : BitVec 21)
  | jmpr (c : LCell) (a d : Reg) (imm : BitVec 16)
  | jdnz (c : LCell) (a : Reg) (off : BitVec 16)
  /-- R219, R174: the word fetched has no defined encoding. -/
  | undefinedEncoding (c : LCell) (w : W32)
  /-- R226 -/
  | cstate (c : LCell) (d : Reg) (imm : BitVec 16)
  | beat (c : LCell) (d : Reg)
  | phaseRead (c : LCell) (d : Reg)
  | bwait (c : LCell) (a dl d : Reg)
  /-- R228: signal `a`, operand `b`, deadline `dl`, destination `d`. -/
  | sread (c : LCell) (a d : Reg)
  | sset (c : LCell) (a b : Reg)
  | sadd (c : LCell) (a b d : Reg)
  | swait (c : LCell) (a b dl d : Reg) (cond : Cond)
  /-- R231 -/
  | qopen (c : LCell) (a : Reg)
  | qclose (c : LCell) (a : Reg)
  | qreset (c : LCell) (a : Reg)
  | qsend (c : LCell) (a b : Reg) (strict : Bool)
  /-- QRECV: `e` is what the check code of an entry taken at issue shows (R259). -/
  | qrecv (c : LCell) (a b dl d : Reg) (e : Ecc := .good)
  /-- R234 -/
  | launch (c : LCell) (idx : BitVec 10) (t p0 p1 : Reg) (smm : Bool)
  | move (c : LCell) (idx : BitVec 10) (p0 p1 : Reg)
  /-- R235 -/
  | mbpop (c : LCell) (a dl d e : Reg)
  | mbtake (c : LCell) (a b dl d e : Reg)
  /-- R236, R237 -/
  | nop (c : LCell)
  | cend (c : LCell)
  | sync (c : LCell)
  | faultNotice (c : LCell) (a b : Reg)
  | faultFatal (c : LCell) (a b : Reg)
  /-- R227 -/
  | blockingWaitResume (c : LCell) (e : Ecc := .good)
  | waitDeadline (c : LCell) (e : Ecc := .good)
  /-- R300-R305: a reply of store `f` reaches `dst`. -/
  | signalReplyDone (dst : Src) (f : Nat) (v : W64)
  | signalReplyWake (dst : Src) (f : Nat) (v : W64)
  | signalReplyCancelled (dst : Src) (f : Nat)
  | signalReplyRefused (dst : Src) (f : Nat) (v : W64)
  | signalReplyAbsent (dst : Src) (f : Nat)
  /-- R298 -/
  | signalRead (r : SigReq) (e : Ecc)
  | signalSet (r : SigReq) (e : Ecc)
  | signalAdd (r : SigReq) (e : Ecc)
  | signalWait (r : SigReq) (cond : Cond) (e : Ecc)
  | signalCancel (r : SigReq) (e : Ecc := .good)
  /-- R248: the port `p` of Noun cell `c`, byte address, sender, and the clause and descriptor offset of the sender. -/
  | nounReadRequest (c : LCell) (p : Dir) (addr : Nat) (src : Src) (clause off : Nat)
  | nounWrite (c : LCell) (p : Dir) (addr : Nat) (src : Src) (clause off : Nat) (line : List Byte) (en : W64)
  | bankGrant (c : LCell) (bank : Nat) (e : Ecc)
  | nounReadData (dst : Src) (frm : LCell) (p : Dir) (addr : Nat) (refused : Bool) (line : List Byte)
  | nounWriteAck (dst : Src) (frm : LCell) (p : Dir) (addr : Nat) (refused : Bool)
  /-- R275: queue `q` of cell `c`. -/
  | queueMessage (c : LCell) (q gen : Nat) (strict : Bool) (src : Src) (pay : List Byte)
  | qctlQopen (c : LCell) (q : Nat) (src : Src)
  | qctlQclose (c : LCell) (q : Nat) (src : Src)
  | qctlQreset (c : LCell) (q : Nat) (src : Src)
  /-- R272: a completion of queue `q` of cell `c` reaches the sender `dst`. -/
  | qcompAccepted (dst : Src) (c : LCell) (q gen : Nat)
  | qcompClosed (dst : Src) (c : LCell) (q gen : Nat) (cause : ClosedCause)
  | qcompFull (dst : Src) (c : LCell) (q gen : Nat)
  | qcompResume (dst : Src) (c : LCell) (q gen : Nat)
  | qcompFenced (dst : Src) (c : LCell) (q gen : Nat)
  | fullResendTimeout (dst : Src) (c : LCell) (q : Nat)
  /-- R262: the input port with port code `port` (R266) of cell `c`. -/
  | queueEntryTaken (c : LCell) (port : Nat) (e : Ecc)
  /-- R284: queue `q`, and what the check codes of the contributions show, in declared order. -/
  | combineSlotDeliver (c : LCell) (q : Nat) (es : List Ecc := [])
  | sendStall (c : LCell)
  | mailboxSummary (c : LCell) (src : Src) (pay : List Byte)
  | launchArrival (c : LCell) (src : LCell) (idx : BitVec 10) (eng : Engine) (p0 p1 : W64)
  /-- R271: a flit of an undefined class at the router of physical cell `p`. -/
  | badFlit (p : Nat) (cls : Nat)
  /-- R78: the `n`-th flit in flight moves one hop. -/
  | routerForward (n : Nat) (e : Ecc)
  | tableChange
  /-- R194, R103-R108 -/
  | matmulStart (c : LCell)
  | matmulSegmentEnd (c : LCell)
  | verbBlockDrain (c : LCell)
  | verbOutputWrite (c : LCell)
  | matmulComplete (c : LCell)
  | stageStart (c : LCell)
  | stageComplete (c : LCell)
  | vectorStart (c : LCell)
  /-- R149: output `y` (0 Y0, 1 Y1). -/
  | adverbOutputWrite (c : LCell) (y : Nat)
  | summarySend (c : LCell)
  | vectorComplete (c : LCell)
  | smmStart (c : LCell)
  | smmComplete (c : LCell)
  /-- R320: the first request of frame `f`'s queue that may start. -/
  | moverRequestStart (f : Nat)
  /-- R319: the request of a mover with tag `tag` at the controller, and the reply to it, with the line that a write or read data
  carries. `l` is what a lookup of the ledger
  shows: one copy failed, or both (R355). -/
  | moverReadLine (id : MoverId) (tag : Nat) (e : Ecc) (l : Ecc := .good)
  | moverWriteLine (id : MoverId) (tag : Nat) (line : List Byte) (e l : Ecc)
  | copyBeforeWriteDone (granule : Nat)
  /-- R317: page `page` of HBM stack (`lp` false) or LPDDR5X device `dev`. -/
  | pageSpareCopyDone (lp : Bool) (dev page : Nat)
  | moverReadData (id : MoverId) (tag : Nat) (line : List Byte)
  | moverWriteAck (id : MoverId) (tag : Nat)
  | moverRefused (id : MoverId) (tag : Nat)
  | moverComplete (id : MoverId)
  /-- R336, R524 -/
  | beatEdge (m : Measure)
  /-- R340: a pulse of `width` ns, `dev` cycles after the expected edge. -/
  | beatInPulse (width : Nat) (dev : Int)
  | beatInMissing
  | beatInLost
  /-- R343: domain, origin timestamp `t1`, receive timestamp `t2`, in ns of PTP time. -/
  | ptpSync (seqId : Nat) (t1 t2 : Int) (twoStep : Bool) (dom : Nat := 0)
  | ptpDelayResp (seqId : Nat) (t4 : Int) (dom : Nat := 0)
  | ptpLost
  /-- R344, R385: the frame's LSEQ, receive timestamp `rx` in units of 2^-16 ns, EDGE_COUNT, TO_EDGE, PERIOD_NS, and the transmit
  timestamp of the frame sent on. -/
  | beatFrame (rx : Nat) (count toEdge period : Nat) (tx : Nat) (lseq : Nat := 0)
  | beatFrameSend (tx toEdge : Nat)
  | beatFrameLost
  | echoSend (t1 : Nat)
  | echoReq (p : Nat) (t1 t2 t3 : Nat) (lseq : Nat := 0)
  | echoRsp (t1 t2 t3 t4 : Nat) (lseq : Nat := 0)
  /-- R349: schedule entry `n` acts. -/
  | schedSwitch (n : Nat)
  | schedHold (n : Nat)
  | schedSentenceStart (n : Nat)
  | schedSentenceStop (n : Nat)
  | schedQopenSet (n : Nat)
  | schedQcloseSet (n : Nat)
  | schedRaise (n : Nat)
  | schedSelftest (n : Nat)
  | schedAbandon (n : Nat)
  | schedThrottle (n : Nat)
  /-- R59: the next step of sentence `sid`. -/
  | sentenceFill (sid : Nat)
  | sentenceSwitch (sid : Nat)
  | fillComplete (clause : Nat)
  /-- R55, R57: the `k`-th switch in progress. -/
  | switchCloseOut (k : Nat)
  | switchActivateIn (k : Nat)
  | switchStartIn (k : Nat)
  | switchLateRecheck (k : Nat)
  | switchGraceExpiry (k : Nat)
  | commitWindowOpen
  | commit
  | commitNowFlip
  | abandonComplete
  /-- R378-R381: fabric port `p`. -/
  | linkCtrlAck (p : Nat) (lc : LinkCtrl)
  | linkCtrlNak (p : Nat) (lc : LinkCtrl)
  | hello (p : Nat) (lc : LinkCtrl) (mac : List Byte := [])
  | spareReq (p : Nat) (lc : LinkCtrl)
  /-- LANE and SPARE_LSEQ, and the frame with its other fields (R378). -/
  | spareGo (p : Nat) (lane lseq : Nat) (lc : LinkCtrl := default)
  | linkCtrlSend (p : Nat)
  | helloSend (p : Nat)
  | replayTimeout (p : Nat)
  | laneFailure (p : Nat) (lane : Nat)
  | neighbourSilence (p : Nat)
  | pcsLockLoss (p : Nat)
  | resendLimit (p : Nat)
  /-- R384: fabric frames received on port `p`. -/
  | fabricWrite (p : Nat) (h : FabHdr) (firstEn lastEn : W64) (lines : List (List Byte))
  | fabricRaise (p : Nat) (h : FabHdr) (amount : W64)
  | fabricReadReq (p : Nat) (h : FabHdr) (len : Nat)
  | fabricReadData (p : Nat) (h : FabHdr) (data : List Byte)
  | fabricAck (p : Nat) (h : FabHdr)
  | fabricAckTimeout (id : MoverId)
  | pfcFrame (p : Nat) (prio : Nat) (pause : Bool)
  /-- R414: an IMAGE frame on port `p`: its LSEQ, OFFSET word and data. -/
  | imageFrame (p : Nat) (lseq : Nat) (off : W64) (data : List Byte)
  | linkNotice (p : Nat) (lseq : Nat) (notice : List Byte)
  /-- R373: host port `p`. -/
  | arpRequest (p : Nat) (mac : List Byte) (ip : List Byte) (target : List Byte)
  | neighbourSolicitation (p : Nat) (mac : List Byte) (ip : List Byte) (target : List Byte)
  | icmpEcho (p : Nat) (mac : List Byte) (ip : List Byte) (target : List Byte) (data : List Byte)
  /-- R373: address kind 0 IPv4, 1 link-local, 2 static IPv6. -/
  | duplicateAddressDetection (p : Nat) (kind : Nat) (other : Bool)
  | belufRead (r : Req)
  | belufWrite (r : Req)
  | bulkOpen (r : Req)
  /-- R441: a datagram at BULK_UDP of host port `p` with its source: stream ID, SEQ, data from the OFFSET word on. The memory
  lines that it writes meet the errors of their MOVER_WRITE_LINE (R314); `es`, here and in `bulkReadSend`, is not read. -/
  | bulkData (p : Nat) (ip : List Byte) (udp : Nat) (stream seq : Nat) (data : List Byte) (es : List Ecc := [])
  | bulkClose (r : Req)
  | bulkReadSend (stream : Nat) (es : List Ecc := [])
  | discover (r : Req)
  | belufDeferredReply (k : Nat)
  | sessionIdleTimeout (sid : Nat)
  | nonceExpiry (k : Nat)
  | load (r : Req)
  | imageEnd
  | imageIdleTimeout
  /-- R492: what the start-up self-test found, by frame. -/
  | startupSelftestDone (fails : List (Nat × SliceFail))
  | arm (r : Req)
  | disarm (r : Req)
  /-- R419: whether another member (or a missing pull-up) holds the line low. -/
  | cascDoneSample (otherLow : Bool)
  | startBeat
  /-- R421: a readback pass of frame `f` ends: its beats, and the slot or table whose CRC differs. -/
  | readbackPassEnd (f beats : Nat) (bad : Option ConfLoc)
  | configRewriteDone
  | reload (r : Req)
  | reloadClamp
  | reloadWrite
  | reloadReopen
  | reloadRestart
  | clampTimeout
  | hold (r : Req)
  | cellHoldStop (c : LCell)
  | holdComplete
  | nanWatchHold
  | release (r : Req)
  | releaseBeat
  | unload (r : Req)
  | sessionChallenge (r : Req)
  | sessionOpen (r : Req)
  | sessionClose (r : Req)
  | opAcknowledge (r : Req)
  | opSuspend (r : Req)
  | opResume (r : Req)
  | opCancel (r : Req)
  | sentenceRestart (r : Req)
  | sigRaise (r : Req)
  | sigValueWrite (r : Req)
  | nanRearm (r : Req)
  | counterReset (r : Req)
  | jigRun (r : Req)
  /-- R490: the slice of frame `f`'s Jig ends after `cycles`, with the parts that failed, and the lines of the restore whose read
  was refused (R489): address in the save area, physical Noun cell, line address there. -/
  | sliceEnd (f cycles : Nat) (fails : List SliceFail) (lost : List (Nat × Nat × Nat))
  | sliceOverrun (f : Nat)
  | retire (r : Req)
  | cellFence (r : Req)
  | cellUnfence (r : Req)
  | cellFenceDone (p : Nat)
  | epochAbandon (r : Req)
  | epochCommitNow (r : Req)
  | quote (r : Req)
  | debugChallenge (r : Req)
  | debugUnlock (r : Req)
  /-- R504: `otpOk` is whether the OTP write succeeds. -/
  | ownerInstall (r : Req) (otpOk : Bool)
  | ownerReplace (r : Req) (otpOk : Bool)
  | signKeyInstall (r : Req) (otpOk : Bool)
  | signKeyRevoke (r : Req) (otpOk : Bool)
  | beatPeriodNsWrite (r : Req)
  | schedEntryWrite (r : Req)
  | scientificEnableWrite (r : Req)
  | hbmInterleaveWrite (r : Req)
  | monSelectWrite (r : Req)
  | fabEnableWrite (r : Req)
  | routeTableWrite (r : Req)
  | hostEnableWrite (r : Req)
  | powerOnReset (st : Straps)
  | warmReset (st : Straps)
  | powerDown
  /-- R516: the PLL of frame 0-3 or I/O die 4-5. -/
  | pllLock (n : Nat)
  /-- R499: 0 valid, else the cause 1-3. -/
  | identityCheck (cause : Nat)
  | inertReady
  | domainSwitchDone (n : Nat)
  | railFault (rail mv : Nat)
  | clockFault (clk : Nat)
  | thermalTrip (die sensor reading : Nat)
  | hostLinkUp (p : Nat) (rate : Nat)
  | hostLinkDown (p : Nat)
  | hostPacketDiscarded (p : Nat) (why : HostDrop := .flowControl)
  /-- R430: the raw payload of a UDP datagram to BELUF_UDP. -/
  | belufMalformed (p : Nat) (ip : List Byte) (udp : Nat) (raw : List Byte) (mac : List Byte := []) (dst : Option (List Byte) := none)
  | fabricFrameRejected (p : Nat)
  /-- R383: the 32-byte header of the frame. -/
  | fabricFrameDiscarded (p : Nat) (hdr : List Byte := [])
  | ptpFollowUp (seqId : Nat) (t1 : Int) (dom : Nat := 0)
  | ptpDelayReqSend (seqId : Nat) (t3 : Int)
  | jtagInstruction (j : JtagOp)
  | configReadbackError (loc : ConfLoc) (double : Bool)
  deriving DecidableEq, Repr

end Sys2Proof
end

