-- ==== Sys2Proof/Decode.lean ====
section
/-! DEFINITION. The words of the opcode table. The table gives its rows no bits (the commands are flits, frames and events,
not words), so no word spells a command. The encodings that the spec does give, those of Conjunction instructions, stand in
Machine/ConjFetch.lean. -/
namespace Sys2Proof

/-- The command that a table word spells: none, since no row has bits. -/
def decodeTableWord (_nbits _w : Nat) : Option Instr := none

end Sys2Proof
end

