-- ==== Sys2Proof/Config.lean ====
section
/-! DEFINITION. What an implementation fixes and what the manual leaves open: opaque constants, so that no proof can
rest on a value of them, and the figures of the part. -/
namespace Sys2Proof.Config

/-- The random source of R498, drawn from in order: a nonce or a per-signature secret. A FREE VALUE (notes/assumptions/9). -/
opaque randomBits : Nat → BitVec 256

/-- The private scalar of the identity key, which the PUF holds and nothing reads (R499, R500). A FREE VALUE (notes/assumptions/9). -/
opaque identityScalar : BitVec 256

/-- A value the manual does not state, drawn by place and count. A FREE VALUE (notes/assumptions/11). -/
opaque unstated : Nat → Nat → BitVec 64

/-- The highest contract level the part provides (R40). -/
def contractLevel : Nat := 3
/-- Bytes of HBM3E (R27, R311). -/
def hbmBytes : Nat := 0xBE00000000
/-- Bytes of LPDDR5X on EVL-4896-A (R27, R311). -/
def lpBytes : Nat := 0x17C00000000
/-- First LPDDR5X address (R311). -/
def lpBase : Nat := 0x100000000000
/-- First address of the Noun window (R257). -/
def nounBase : Nat := 0x200000000000
/-- First address of the signal range (R292). -/
def sigBase : Nat := 0x300000000000
/-- First remote address (R311). -/
def remoteBase : Nat := 0x800000000000
/-- One HBM window of home-stack interleave (R315). -/
def hbmWindow : Nat := 0x2F80000000
/-- A granule of durable memory (R353). -/
def granuleBytes : Nat := 0x10000
/-- Entries of one copy of the retirement map in one-time-programmable memory (R494). -/
def retireMapEntries : Nat := 32768

end Sys2Proof.Config
end

