-- ==== Sys2Proof/Machine/State.lean ====
section
/-! DEFINITION. The state of the device as plain data, and the state after reset. Each field names the rule that gives
it; a field marked MODEL's own carries what the spec implies (a message in flight, a count between events). -/
namespace Sys2Proof.Machine

/-- A fault record, before its layout of R477 (`FaultRec.bytes` lays it out). -/
structure FaultRec where
  code     : Nat
  severity : Nat
  rflags   : Nat := 0
  lcell    : Nat := 0
  pcell    : Nat := 0
  clause   : Nat := 0
  off      : Nat := 0
  beat     : Nat := 0
  d0       : Nat := 0
  d1       : Nat := 0
  deriving DecidableEq, Repr, Inhabited

/-! ### One-time-programmable memory and fuses (R494, R500-R502, R519: it alone survives loss of power) -/

/-- The state of an image-signing slot (R502). -/
inductive KeyState where
  | empty | valid | revoked
  deriving DecidableEq, Repr, Inhabited

/-- An image-signing slot: its state and its 64-byte key (R502), and whether its check code holds (R519). -/
structure SignSlot where
  st  : KeyState := .empty
  key : List Byte := []
  sound : Bool := true
  deriving DecidableEq, Repr, Inhabited

/-- One-time-programmable memory and fuses. -/
structure Otp where
  /-- ORDERING_CODE 0 A, 1 H (R464). -/
  ordering   : Nat := 0
  /-- STEPPING (R464). -/
  stepping   : Nat := 0
  /-- UNIQUE_ID, 16 bytes (R464). -/
  uniqueId   : List Byte := List.replicate 16 0
  /-- MAC_BASE, 6 bytes (R371, R464). -/
  macBase    : List Byte := List.replicate 6 0
  /-- ID_CERT (R501). -/
  cert       : List Byte := []
  /-- Image-signing slots 0-7 (R502). -/
  slots      : List SignSlot := List.replicate 8 {}
  /-- OWNER_KEY, 64 bytes; empty = none installed (R465). -/
  ownerKey   : List Byte := []
  /-- OWNER_SLOTS_LEFT (R465, R505). -/
  ownerSlots : Nat := 4
  /-- The retirement map, oldest entry first (R494), and the places in it, from 0, of the entries whose check code fails (R519). -/
  retired    : List Nat := []
  broken     : List Nat := []
  /-- The check codes of OWNER_KEY and of ID_CERT hold (R519). -/
  ownerSound : Bool := true
  certSound  : Bool := true
  deriving DecidableEq, Repr, Inhabited

/-- An image-signing slot as the device takes it: an entry whose check code fails is ignored (R519). -/
def Otp.slot (o : Otp) (k : Nat) : SignSlot := let x := o.slots.getD k {}; if x.sound then x else {}
/-- The owner key as the device takes it (R519). -/
def Otp.owner (o : Otp) : List Byte := if o.ownerSound then o.ownerKey else []
/-- The certificate as the device takes it (R519). -/
def Otp.certificate (o : Otp) : List Byte := if o.certSound then o.cert else []

/-! ### The mesh (R74, R75, R269-R271) -/

/-- A queue-control operation (R271). -/
inductive QOp where
  | qopen | qclose | qreset
  deriving DecidableEq, Repr, Inhabited

/-- The result of a queue completion (R271). -/
inductive QRes where
  | accepted | closed (cause : ClosedCause) | full | resume | fenced
  deriving DecidableEq, Repr, Inhabited

/-- The operation of a signal flit (R300). -/
inductive SigOp where
  | read | set | add | wait (c : Cond) | cancel
  deriving DecidableEq, Repr, Inhabited

/-- The result of a signal reply (R300). -/
inductive SigRes where
  | done | wake | cancelled | refused | absent
  deriving DecidableEq, Repr, Inhabited

/-- What a flit carries, by class (R271). -/
inductive Body where
  | qmsg (q gen : Nat) (strict : Bool) (pay : List Byte)
  | qctl (q : Nat) (op : QOp)
  | qcomp (c : LCell) (q gen : Nat) (res : QRes)
  | nounRead (p : Dir) (addr clause off : Nat)
  | nounWrite (p : Dir) (addr clause off : Nat) (line : List Byte)
  /-- The second flit of a Noun write: its byte enables (R271). -/
  | nounEnables (en : W64)
  | nounData (frm : LCell) (p : Dir) (addr : Nat) (refused : Bool) (line : List Byte)
  | nounAck (frm : LCell) (p : Dir) (addr : Nat) (refused : Bool)
  | launch (idx : Nat) (eng : Engine) (p0 p1 : W64)
  | sigOp (op : SigOp) (r : SigReq)
  | sigReply (f : Nat) (res : SigRes) (v : W64)
  | summary (pay : List Byte)
  /-- Mover memory flits (R319): tag, rank, key, device address; the line of a write is its second flit. -/
  | memRead (tag rank key addr : Nat)
  | memWrite (tag rank key addr : Nat) (en : W64)
  | memLine (line : List Byte)
  | memData (tag : Nat) (line : List Byte)
  | memAck (tag : Nat)
  | memRefused (tag : Nat)
  deriving DecidableEq, Repr, Inhabited

/-- A detour in progress (R80): hops left sideways, then hops left in the blocked direction. -/
structure Detour where
  jog      : Dir
  jogLeft  : Nat
  pass     : Dir
  passLeft : Nat
  deriving DecidableEq, Repr, Inhabited

/-- A flit sent and not arrived: sender, receiver, content, mesh position of the router that holds it or that its sender
stands at, destination mesh position, virtual channel and detour (R69, R74, R269). -/
structure Flit where
  src  : Src
  dst  : Src
  body : Body
  my   : Nat := 0
  mx   : Nat := 0
  dmy  : Nat := 0
  dmx  : Nat := 0
  vc   : Nat := 0
  det  : Option Detour := none
  /-- It has been injected: it stands in a buffer of its router and no longer at its sender (R74, R84). -/
  inj  : Bool := false
  /-- The router's input port whose buffer holds it, or that it waits to enter by: 0 N, 1 S, 2 E, 3 W, 4 local (R74, R76). -/
  inp  : Nat := 4
  /-- When it entered that buffer or was sent, as a count of such events: the order of a buffer. MODEL's own. -/
  stamp : Nat := 0
  deriving DecidableEq, Repr, Inhabited

/-- A remap entry (R71): reset AVAIL 1, SHIM 0, the bench on its own place. -/
structure Remap where
  avail : Bool := true
  shim  : Bool := false
  deriving DecidableEq, Repr, Inhabited

/-- A detour entry (R79), all zero after reset. -/
structure DetEntry where
  blocked : Bool := false
  jog     : Dir := .n
  jogHops : Nat := 0
  pass    : Nat := 0
  deriving DecidableEq, Repr, Inhabited

/-- The mesh and its tables. -/
structure Mesh where
  /-- Flits sent and not arrived, in the order they were sent. -/
  flits   : List Flit := []
  /-- The next buffer stamp. MODEL's own. -/
  stamp   : Nat := 0
  /-- The input that each router output granted last, by `grantKey` of the router and the output, as its code plus 1 (R77). -/
  grants  : NMap Nat := []
  /-- Remap tables, by frame * 64 + entry (R71). -/
  remap   : NMap Remap := []
  /-- Detour tables, by (my * 72 + mx) * 4 + output direction (R79). -/
  detour  : NMap DetEntry := []
  /-- Tables to take effect at the next change (R84). -/
  next    : Option (NMap Remap × NMap DetEntry) := none
  /-- Nothing is injected: the flits injected under the old tables are being delivered (R84). -/
  drain   : Bool := false
  /-- Corrected single-bit flit errors (R76). -/
  corrected : Nat := 0
  deriving DecidableEq, Repr, Inhabited

/-! ### Queues and senders (R259-R288) -/

/-- A queue state (R275). -/
inductive QSt where
  | open | draining | closed
  deriving DecidableEq, Repr, Inhabited

/-- One accepted message: its sender and its 64 bytes, and at a combining queue the slot that it contributes to (R283). -/
structure QEntry where
  src : Src
  pay : List Byte
  slot : Nat := 0
  deriving DecidableEq, Repr, Inhabited

/-- A queue (R275, R283, R285): reset CLOSED, generation 0, empty. -/
structure Queue where
  st      : QSt := .closed
  gen     : Nat := 0
  clamped : Bool := false
  /-- CLAMP_TIMEOUT has passed: the clamped queue answers CLOSED (R426). -/
  clampDead : Bool := false
  entries : List QEntry := []
  /-- Results of a combining queue made available and not yet taken (R285). -/
  ready   : List (List Byte) := []
  /-- Messages that a combining queue has accepted since activation or the last QRESET, by source ID, and the slot that it
  delivers next (R283, R284). -/
  counts  : NMap Nat := []
  slot    : Nat := 0
  deriving DecidableEq, Repr, Inhabited

/-- Where a message of a sender stands (R272, R273). -/
inductive SentSt where
  | inFlight | full | held
  deriving DecidableEq, Repr, Inhabited

/-- A message or control that a sender has issued and whose completion has not freed its buffer. -/
structure Sent where
  dst    : LCell
  q      : Nat
  ctl    : Option QOp := none
  gen    : Nat := 0
  strict : Bool := false
  pay    : List Byte := []
  st     : SentSt := .inFlight
  off    : Nat := 0
  /-- It has received FULL and is not yet accepted or discarded (R273, R287). -/
  fulled : Bool := false
  /-- Buffer stamps of its issue and of the flit that carries it now. MODEL's own: the order of issue (R287), and which
  completion is whose (R273). -/
  born   : Nat := 0
  stamp  : Nat := 0
  deriving DecidableEq, Repr, Inhabited

/-! ### Cells -/

/-- A slot state (R50). -/
inductive SlotSt where
  | empty | filling | resident | active
  deriving DecidableEq, Repr, Inhabited

/-- The slot data of a cell: the sections of its cell record (R406) and its queue configuration (R263). -/
structure SlotData where
  secA : List Byte := []
  secB : List Byte := []
  secC : List Byte := []
  qcfg : List Byte := []
  deriving DecidableEq, Repr, Inhabited

/-- What the configuration engine writes into the engine area of a cell's record, besides the detour image: the router's image of its
frame's remap table, the clause's signal map, runs of frame, first word and length, and the origin's bench row and column (R296,
R406). -/
structure EngineArea where
  remap  : List Remap := []
  sigMap : List (Nat × Nat × Nat) := []
  origin : Nat × Nat := (0, 0)
  deriving DecidableEq, Repr, Inhabited

/-- A clause slot of a cell (R50) with the saved data store (R169). -/
structure Slot where
  st     : SlotSt := .empty
  clause : Nat := 0
  data   : SlotData := {}
  saved  : Option Mem := none
  /-- The slot's detour table image for the cell's router, its outputs in the order N, S, E, W (R49, R55, R406). -/
  tables : List DetEntry := []
  area   : EngineArea := {}
  deriving DecidableEq, Repr, Inhabited

/-- An access waiting at a Noun port or bank (R240, R254): a read, or a write with its line and enables. -/
structure NounReq where
  port   : Dir
  addr   : Nat
  src    : Src
  clause : Nat
  off    : Nat
  wr     : Option (List Byte × W64)
  /-- It waits at its port, not yet checked, while its cell is under reload (R425). -/
  waits  : Bool := false
  deriving DecidableEq, Repr, Inhabited

/-- A Noun cell (R238-R256). -/
structure Noun where
  mem      : Mem := []
  reqs     : List NounReq := []
  /-- Port pointer of each bank, coded N S E W (R254). -/
  ptr      : NMap Nat := []
  /-- Merge buffer of each SharedRead bank: the last lines read, newest first (R253). -/
  merge    : NMap (List Nat) := []
  /-- The BANK_OWNERSHIP record of this activation has been written (R249). -/
  refusedOnce : Bool := false
  /-- Byte addresses of the lines that hold an uncorrectable error (R255). -/
  bad      : List Nat := []
  /-- Banks that have failed a slice; the first is replaced by the spare (R256). -/
  failedBanks : List Nat := []
  deriving DecidableEq, Repr, Inhabited

/-- A launch as the target keeps it (R192). -/
structure Launch where
  idx : Nat
  eng : Engine
  p0  : W64
  p1  : W64
  src : LCell
  /-- The offset of the LAUNCH, and the buffer stamp of its issue. MODEL's own: for its sender's records (R234, R287). -/
  off  : Nat := 0
  born : Nat := 0
  deriving DecidableEq, Repr, Inhabited

/-- A line an engine has asked for and not received: its input port code (R266), the Noun cell and byte address, or
none for a queue-fed port, and the K step or lane group that it is read for. -/
structure Need where
  port : Nat
  frm  : Option LCell
  addr : Nat
  step : Nat := 0
  deriving DecidableEq, Repr, Inhabited

/-- A line an engine has received: port code, byte address it stands for, bytes, and the K step or lane group. -/
structure Got where
  port : Nat
  addr : Nat
  line : List Byte
  step : Nat := 0
  deriving DecidableEq, Repr, Inhabited

/-- What an input port has still to ask for (R98): the K step or lane group whose lines it asks for, and those of its lines
that it has not asked for. -/
structure Ask where
  step : Nat := 0
  left : List Nat := []
  deriving DecidableEq, Repr, Inhabited

/-- A block of a MATMUL (R201): first row, rows, first column, columns, row block, column block, index. -/
structure Blk where
  m0 : Nat
  rows : Nat
  n0 : Nat
  cols : Nat
  rb : Nat
  cb : Nat
  q : Nat
  deriving DecidableEq, Repr, Inhabited

/-- An output line waiting to leave: destination byte address, bytes, enables, and the coordinates of its NaN elements for
NaN watch. -/
structure OutLine where
  addr : Nat
  line : List Byte
  en   : W64
  nans : List (List Nat)
  deriving DecidableEq, Repr, Inhabited

/-- A drained block on its way out (R105): the drain buffers it holds, as operand-file lines, and the lines still to
write. -/
structure OutBlk where
  bufs  : List Nat
  lines : List OutLine
  deriving DecidableEq, Repr, Inhabited

/-- A block whose K steps have all run and that is not drained: its accumulators and compensation (R92, R105). In the
narrow modes these stand in the drain latches; in the wide modes the latches widen the accumulators. -/
structure DoneBlk where
  blk  : Blk
  acc  : List W64
  comp : List W64
  deriving DecidableEq, Repr, Inhabited

/-- A running MATMUL of a Verb cell: the descriptor with its parameters applied, the blocks to run, the K step, the
accumulators of the in-extent elements (row by row) and the compensation (R92, R112, R114), lines awaited and received, what
the ports A, B0 and B1 have still to ask for, the segment (R106), the finished block, the blocks on their way out, their
destination (a cell, with a queue or 64 for a Noun port) and the addresses of the lines not yet acknowledged. -/
structure MatRun where
  off    : Nat
  raw    : List Byte
  blocks : List Blk
  k      : Nat := 0
  acc    : List W64 := []
  comp   : List W64 := []
  need   : List Need := []
  got    : List Got := []
  asks   : List Ask := []
  /-- The next segment has not begun its fill: the cell stands at a segment boundary. -/
  fresh  : Bool := true
  /-- K steps run in the segment, and cycles since its fill or preload began. -/
  seg    : Nat := 0
  age    : Nat := 0
  latch  : Option DoneBlk := none
  outs   : List OutBlk := []
  dest   : LCell × Nat
  acks   : List Nat := []
  deriving DecidableEq, Repr, Inhabited

/-- The running STAGE (R207): lines asked for or awaited, source addresses not yet asked for, lines landed. -/
structure StageRun where
  off  : Nat
  raw  : List Byte
  need : List Need
  left : List Nat := []
  landed : Nat := 0
  deriving DecidableEq, Repr, Inhabited

/-- The partial reduction of a REDUCE stage over the run at hand (R159): the chunks combined so far, in the accumulation type
(a COUNT as a number), and the values of the chunk that is not complete, in the stage's type. -/
structure RedAcc where
  acc  : Option W64 := none
  part : List W64 := []
  deriving DecidableEq, Repr, Inhabited

/-- What a chain's outputs have come to for its summary (R161, R162): run results combined by stage, in the accumulation
type, NaN counts by stage, gather misses, and whether an output held a NaN or an infinity. -/
structure SumAcc where
  acc    : List (Option W64) := []
  nanc   : List Nat := []
  miss   : Nat := 0
  anyNan : Bool := false
  anyInf : Bool := false
  deriving DecidableEq, Repr, Inhabited

/-- The output of a VECTOR that leaves the cell: the lines not yet full, of elements and of scale bytes, the lines that wait
to leave, their destination, and the addresses of the lines not yet acknowledged. -/
structure VecOut where
  elems  : Option OutLine := none
  scales : Option OutLine := none
  lines  : List OutLine := []
  dest   : LCell × Nat
  acks   : List Nat := []
  deriving DecidableEq, Repr, Inhabited

/-- A running VECTOR descriptor (R148): the lane group at which its iteration stands (R145, R166), lines awaited and received,
what the ports X0-X3 have still to ask for, the reductions of the run at hand and of the runs before it, the outputs that
leave the cell, the summary with its NaN words (word, stage, format), and the cell whose acceptance of it is awaited. -/
structure VecRun where
  off  : Nat
  raw  : List Byte
  pos  : Nat := 0
  need : List Need := []
  got  : List Got := []
  asks : List Ask := []
  red  : List RedAcc := []
  tot  : SumAcc := {}
  y0   : VecOut
  y1   : VecOut
  summary : Option (LCell × List Byte) := none
  sumNans : List (Nat × Nat × Nat) := []
  sumWait : Option LCell := none
  deriving DecidableEq, Repr, Inhabited

/-- The running SMM descriptor: the block at which it stands, its K step, and the accumulators of the block's in-extent
elements, row by row (R164). -/
structure SmmRun where
  off : Nat
  raw : List Byte
  blk : Nat := 0
  k   : Nat := 0
  acc : List W64 := []
  deriving DecidableEq, Repr, Inhabited

/-- What a Conjunction core waits for (R226, R228, R231, R235). -/
inductive Wait where
  | beat (count : W64)
  /-- CANCEL has been sent; the wait was abandoned at a hold; a WAKE has come that the cell acts on when it resumes. -/
  | signal (f w : Nat) (v : W64) (cond : Cond) (cancelled abandoned woken : Bool)
  | queue (q : Nat) (a : W64)
  | mbox (a : W64) (d e : Reg)
  | mboxTag (a : W64) (tag : Nat) (d e : Reg)
  | sync
  deriving DecidableEq, Repr, Inhabited

/-- What a Conjunction core is doing (R168, R181, R186). -/
inductive Core where
  | off | running
  | waiting (w : Wait) (dl : W64) (res : Reg)
  | ended
  deriving DecidableEq, Repr, Inhabited

/-- A signal operation sent and not acknowledged: the store, the word, and the register its reply writes (R171, R218). -/
structure SigOut where
  f   : Nat
  w   : Nat
  reg : Option Reg
  deriving DecidableEq, Repr, Inhabited

/-- A mover request (R178, R320). -/
structure MReq where
  cell   : LCell
  clause : Nat
  slot   : Nat
  idx    : Nat
  p0     : W64
  p1     : W64
  /-- Waiting in a commit window (R358). -/
  windowed : Bool := false
  deriving DecidableEq, Repr, Inhabited

/-- A Conjunction core (R168). -/
structure Conj where
  regs   : NMap W64 := []
  pc     : Nat := 0
  st     : Core := .off
  dmem   : Mem := []
  /-- Mailbox M, oldest first (R183). -/
  mbox   : List (List Byte) := []
  sigs   : List SigOut := []
  /-- Stores whose next CANCELLED reply the cell ignores: the wait that it answers ended by a WAKE (R305). -/
  ignore : List Nat := []
  /-- The launch buffer (R176). -/
  launch : Option (LCell × Launch) := none
  /-- Mover requests waiting in the cell (R320). -/
  mreqs  : List MReq := []
  /-- The instruction at pc stalls at issue on a full buffer or path: its destination cell and queue number (R176, R178, R232). -/
  stall  : Option (LCell × Nat) := none
  deriving DecidableEq, Repr, Inhabited

/-- The five numeric counters (R139). -/
structure Ctr where
  satConv  : Nat := 0
  satInt   : Nat := 0
  flushIn  : Nat := 0
  flushOut : Nat := 0
  nanInt   : Nat := 0
  deriving DecidableEq, Repr, Inhabited

/-- The per-cell window counters 0x06-0x0C (R475). -/
structure CellCtr where
  mboxDiscarded  : Nat := 0
  bankRefused    : Nat := 0
  nounCorrected  : Nat := 0
  queueDropped   : Nat := 0
  queueDiscarded : Nat := 0
  queueCorrected : Nat := 0
  badFlits       : Nat := 0
  deriving DecidableEq, Repr, Inhabited

/-- How a cell is fenced: by CELL_FENCE, by a slice, or because its bench is retired (R88, R476, R488, R489). -/
inductive Fence where
  | none | byCommand | byJig | retired
  deriving DecidableEq, Repr, Inhabited

/-- A physical cell position. -/
structure Cell where
  slots    : NMap Slot := []
  fence    : Fence := .none
  /-- The clock of a fenced cell has stopped (R88). -/
  clockOff : Bool := false
  /-- Stopped at a hold boundary (R107, R166, R188). -/
  stopped  : Bool := false
  queues   : NMap Queue := []
  /-- Waiter places: queue and source, oldest first (R272). -/
  waiters  : List (Nat × Src) := []
  /-- Rotation member of each select group (R281). -/
  rot      : NMap Nat := []
  /-- Failed queue entries (R260), and those known when the slot was activated. -/
  badEntries : List Nat := []
  sends    : List Sent := []
  /-- Generation cache, oldest first (R278). -/
  gens     : List (LCell × Nat × Nat) := []
  /-- Stall duration in beats and whether this stall has been recorded (R287). -/
  stall    : Nat := 0
  stallRec : Bool := false
  ctr      : Ctr := {}
  /-- The counters as of phase 0 of the latest beat (R140). -/
  ctrBeat  : Ctr := {}
  /-- The clause whose counts they are: the last to become ACTIVE here (R139, R140; DESIGN CHOICE, notes/assumptions/86). -/
  ctrOf    : Nat := 0
  win      : CellCtr := {}
  noun     : Noun := {}
  /-- The operand file of a Verb or Adverb cell, 256 KiB (R93, R141). -/
  opfile   : Mem := []
  /-- Pending places of the Verb arrays or the vector engine, and of the small matrix unit (R103, R165). -/
  pend     : List Launch := []
  pendS    : List Launch := []
  /-- Launches that wait for a place in their senders' buffers, in arrival order (R176). -/
  waitL    : List Launch := []
  /-- Running MATMUL or VECTOR descriptors, oldest first: the last takes operands, those before it only send (R206, R216). -/
  mats     : List MatRun := []
  stage    : Option StageRun := none
  vecs     : List VecRun := []
  smm      : Option SmmRun := none
  conj     : Conj := {}
  deriving DecidableEq, Repr, Inhabited

/-! ### Signal stores (R289-R310) -/

/-- A signal word with its control word and ceiling (R294, R295). -/
structure SigWord where
  value      : W64 := 0
  alloc      : Bool := false
  ceilEn     : Bool := false
  remote     : Bool := false
  resetOnAct : Bool := false
  failed     : Bool := false
  owner      : Nat := 0
  refused    : Nat := 0
  ceiling    : W64 := 0
  init       : W64 := 0
  deriving DecidableEq, Repr, Inhabited

/-- A monitor place (R304). -/
structure Monitor where
  src  : Src
  f    : Nat
  w    : Nat
  v    : W64
  cond : Cond
  deriving DecidableEq, Repr, Inhabited

/-- For what an agent that is no cell has sent a signal operation: of its own, to deliver a remote raise (R308), or for a request
of the host with its Beluf opcode (R471). -/
inductive SigFor where
  | own | deliv
  | host (op : Nat) (r : Req)
  deriving DecidableEq, Repr, Inhabited

/-- A signal operation of an agent that is no cell, not yet answered: its sender and store. -/
structure SigSent where
  src : Src
  f   : Nat
  why : SigFor
  deriving DecidableEq, Repr, Inhabited

/-- The four signal stores. -/
structure Signals where
  /-- Words, by frame * 4096 + word. -/
  words    : NMap SigWord := []
  monitors : List Monitor := []
  /-- Spare words by frame * 128 + spare (R293): the word whose place one has taken plus 1, 0 for none; and those that have
  themselves failed. -/
  spares     : NMap Nat := []
  sparesBad  : NMap Bool := []
  /-- Corrected single-bit errors, by frame (R293). -/
  corrected  : NMap Nat := []
  /-- Operations of movers and I/O dies that await their reply, in the order sent. MODEL's own. -/
  sent     : List SigSent := []
  deriving DecidableEq, Repr, Inhabited

/-! ### Clauses, sentences, switches and the schedule -/

/-- A durable region of a clause (R353) with its first granule in the ledger (R355). -/
structure Durable where
  index : Nat
  len   : Nat
  copy0 : Nat
  copy1 : Nat
  g0    : Nat
  deriving DecidableEq, Repr, Inhabited

/-- The NaN watch latch (R137, R472). -/
structure NanLatch where
  armed  : Bool := false
  full   : Bool := false
  cell   : Nat := 0
  off    : Nat := 0
  coords : List Nat := List.replicate 6 0
  output : Nat := 0
  stage  : Nat := 0
  format : Nat := 0
  later  : Nat := 0
  beat   : Nat := 0
  deriving DecidableEq, Repr, Inhabited

/-- A BEAT relocation of a data image (R411): cell index, offset in section B, field, image offset and index of the record. -/
structure BeatRel where
  cell  : Nat
  off   : Nat
  lsb   : Nat
  width : Nat
  ioff  : Nat
  idx   : Nat
  deriving DecidableEq, Repr, Inhabited

/-- A loaded clause. -/
structure Clause where
  id       : Nat
  /-- The contract record, 64 bytes (R38). -/
  contract : List Byte
  /-- Region origin bench (R35) and slot number (R49). -/
  orow     : Nat
  ocol     : Nat
  slot     : Nat
  hbmBase  : Nat
  lpBase   : Nat
  /-- Held by a HOLD or a record until it is released (R447, R480). -/
  held     : Bool := false
  /-- The activation generation of its slot (R275). -/
  actGen   : Nat := 0
  /-- Activated since the last fill (R169, R275). -/
  activated : Bool := false
  /-- Signal runs: frame, first word, length (R296). -/
  runs     : List (Nat × Nat × Nat) := []
  durable  : List Durable := []
  /-- Relocated cell records of the image copy, in row-major order (R405, R411). -/
  recs     : List (List Byte) := []
  /-- The signal table (R295). -/
  sigTab   : List Byte := []
  /-- BEAT relocations of data images (R411). -/
  beatRel  : List BeatRel := []
  /-- Monitor selection in force and the one that takes effect at the next beat (R135). -/
  mon      : Nat := 0
  monNext  : Option Nat := none
  nan      : NanLatch := {}
  /-- The latch is emptied and re-armed at the next beat (R472). -/
  rearm    : Bool := false
  /-- A counter reset takes effect at the next beat (R472). -/
  ctrReset : Bool := false
  /-- SIGNAL_CEILING has been recorded in this activation (R303). -/
  ceilRec  : Bool := false
  /-- Its slots are FILLING (R50, R51). -/
  filling  : Bool := false
  /-- Image offset and length of its configuration in the image copy (R405, R424). -/
  cfg      : Nat × Nat := (0, 0)
  /-- Cells of the region whose slot was ACTIVE until the retirement of their bench made it EMPTY (R52): a reload gives them an
  ACTIVE slot again. MODEL's own. -/
  gone     : List LCell := []
  deriving DecidableEq, Repr, Inhabited

/-- A step of a sentence (R58). -/
structure Step where
  offset : Nat
  kind   : Nat
  grace  : Nat
  outId  : Nat
  inId   : Nat
  outId2 : Nat
  inId2  : Nat
  deriving DecidableEq, Repr, Inhabited

/-- A loaded sentence (R58, R467). -/
structure Sentence where
  id      : Nat
  p       : Nat
  repeats : Nat
  steps   : List Step
  running : Bool := false
  start   : Nat := 0
  rep     : Nat := 0
  next    : Nat := 0
  /-- Stopped by a SWITCH_LATE whose grace ran out, or by HELD, until a restart (R57, R61). -/
  held    : Bool := false
  deriving DecidableEq, Repr, Inhabited

/-- Who asked for a switch: a schedule entry, or a step of a sentence (R57). -/
inductive SwSrc where
  | entry (n : Nat)
  | step (sid idx : Nat)
  deriving DecidableEq, Repr, Inhabited

/-- How far a switch has come (R55, R57). -/
inductive SwStage where
  | go | late | closed | active
  deriving DecidableEq, Repr, Inhabited

/-- A switch in progress: outgoing and incoming clauses, the beat B, the beat it was first due, and its grace. -/
structure Switch where
  outs  : List Nat
  ins   : List Nat
  src   : SwSrc
  beat  : Nat
  first : Nat
  grace : Nat
  stage : SwStage
  deriving DecidableEq, Repr, Inhabited

/-- A schedule entry (R348), all zero after reset. -/
structure SchedEntry where
  beat   : Nat := 0
  period : Nat := 0
  phase  : Nat := 0
  action : Nat := 0
  fired  : Bool := false
  valid  : Bool := false
  arg0   : Nat := 0
  arg1   : Nat := 0
  deriving DecidableEq, Repr, Inhabited

/-- A preset that the device applies at the start beat (R350, R411, R420): a schedule entry, or a value with a BEAT
relocation of field `lsb`, `width`; its clause and its image offset. -/
structure StartPreset where
  index  : Nat
  sub    : Nat
  clause : Nat
  value  : List Byte
  field  : Option (Nat × Nat)
  ioff   : Nat
  idx    : Nat
  deriving DecidableEq, Repr, Inhabited

/-- Clauses, sentences, switches, schedule. -/
structure Plan where
  clauses   : List Clause := []
  sentences : List Sentence := []
  switches  : List Switch := []
  /-- The schedule table 0x4010 (R348). -/
  sched     : NMap SchedEntry := []
  /-- Accepted writes that take effect at the next edge (R350). -/
  schedNext : List (Nat × SchedEntry) := []
  /-- Presets that act at the start beat (R350, R411, R420). -/
  startPresets : List StartPreset := []
  /-- SCIENTIFIC_ENABLE 0x4020 (R469). -/
  sci       : Bool := false
  deriving DecidableEq, Repr, Inhabited

/-! ### Device memory, ledger and epochs -/

/-- A mover's line access at a memory controller (R319): the agent that asked, its tag, the device address, and a write's
line and enables; where it waits at its controller, the error that it is to meet there (R317); and whether it reads the committed
copy (R365). -/
structure MemReq where
  src  : Src
  tag  : Nat
  addr : Nat
  wr   : Option (List Byte × W64)
  ecc  : Ecc := .good
  com  : Bool := false
  deriving DecidableEq, Repr, Inhabited

/-- The first write of an epoch to a granule in progress (R356): a copy, or a mover run that writes all of it, with the
mover and the lines that it has still to write; and the writes that wait. -/
structure Cow where
  granule : Nat
  whole   : Option (Nat × List Nat)
  waiting : List MemReq
  deriving DecidableEq, Repr, Inhabited

/-- HBM3E and LPDDR5X with their spares (R314-R317). Devices are numbered 0-7 HBM stacks, 8-23 LP devices; their bytes are
keyed by device * 2^37 + offset within it (R315). -/
structure Tiers where
  mem        : Mem := []
  /-- Poisoned lines, by the same key (R317). -/
  poison     : List Nat := []
  /-- Corrected errors in each page in this epoch, by that key div 4096 (R317). -/
  pageCorr   : NMap Nat := []
  /-- Corrected errors, by device (R466). -/
  corrected  : NMap Nat := []
  /-- Spare pages used, by device (R466). -/
  sparesUsed : NMap Nat := []
  /-- Pages being copied into a spare (R317): device, page. -/
  copying    : List (Nat × Nat) := []
  /-- Mover accesses waiting for a page copy. -/
  waiting    : List MemReq := []
  /-- Spare pages in place of pages, by device * 2^25 + page of the address map: the physical page. -/
  pages      : NMap (Option Nat) := []
  /-- Devices whose PAGE_SPARES_LOW has been recorded since reset (R317). -/
  lowRec     : List Nat := []
  /-- HBM_INTERLEAVE 0x3001 (R315). -/
  interleave : Nat := 0
  /-- Address and length of the image copy and of the four save areas (R313). -/
  copyBase   : Nat := 0
  copyLen    : Nat := 0
  reserved   : List (Nat × Nat) := []
  deriving DecidableEq, Repr, Inhabited

/-- A remote write held at its I/O die mover in a commit window (R358, R387). -/
structure HeldWrite where
  port : Nat
  h    : FabHdr
  first : W64
  last : W64
  lines : List (List Byte)
  deriving DecidableEq, Repr, Inhabited

/-- Epochs and the ledger (R353-R366). -/
structure Epoch where
  enable    : Bool := false
  beats     : Nat := 0x00100000
  origin    : Int := 0
  window    : Nat := 256
  /-- EPOCH_STATE 0 OPEN, 1 WINDOW, 2 MISSED, 3 ABANDONED. -/
  state     : Nat := 0
  committed : Nat := 0
  committedBeat : Nat := 0
  cow       : Nat := 0
  /-- C and W bits, by granule (R355). -/
  c         : NMap Bool := []
  w         : NMap Bool := []
  cows      : List Cow := []
  /-- COMMIT_WINDOW_WRITE has been recorded in this epoch (R358). -/
  winRec    : Bool := false
  heldWrites : List HeldWrite := []
  /-- EPOCH_COMMIT_NOW has been accepted and not yet completed: its operation slot (R362). -/
  commitNow : Option Nat := none
  /-- An abandon is under way (R363): the operation slots of the commands that asked for it, the first RUNNING. -/
  abandoning : Bool := false
  abandonOps : List Nat := []
  deriving DecidableEq, Repr, Inhabited

/-! ### Movers (R318-R335) -/

/-- A fabric request of a mover that awaits its answer (R387): tag, port, type 1 WRITE 2 RAISE 3 READ_REQ, target, beat sent. -/
structure FabOut where
  tag    : Nat
  port   : Nat
  ty     : Nat
  target : Nat
  addr   : Nat
  beat   : Nat
  deriving DecidableEq, Repr, Inhabited

/-- One write of a mover: destination line address, the first enabled byte and the number of enabled bytes, and the number
in copy order of the first byte. With a queue destination, `addr` is the number of the message. -/
structure MWrite where
  addr : Nat
  lo   : Nat
  n    : Nat
  t    : Nat
  deriving DecidableEq, Repr, Inhabited

/-- A running mover request: the descriptor with parameters applied, lines to read, reads and writes awaited, lines
read, writes to make, queue messages and fabric frames awaited. -/
structure MoverRun where
  req     : MReq
  off     : Nat
  raw     : List Byte
  reads   : List Nat
  /-- Reads and writes that await their reply: request tag (R319) and address. -/
  readsOut : List (Nat × Nat)
  /-- Source lines read, by line number. -/
  buf     : NMap (Option (List Byte)) := []
  writes  : List MWrite
  writesOut : List (Nat × Nat)
  /-- Core cycles since the stream started, not counting HELD, and bytes granted to it (R333). -/
  age     : Nat := 0
  granted : Nat := 0
  /-- The epoch number in which it started, where epochs are enabled (R359, R362). -/
  epoch   : Option Nat := none
  sends   : List Sent := []
  gens    : List (LCell × Nat × Nat) := []
  fab     : List FabOut := []
  /-- Refused, stopped or abandoned: it issues nothing further and raises nothing (R249, R363, R389). -/
  stopped : Bool := false
  /-- The raise has been made and the handle sent (R326, R331). -/
  done    : Bool := false
  /-- Writes a durable region, started in the epoch in progress before its window (R359). -/
  durable : Bool := false
  deriving DecidableEq, Repr, Inhabited

/-- Movers and request queues. -/
structure Movers where
  /-- Requests and replies between a mover and the controllers that it is wired to (R318), each with its flits. -/
  wires   : List (MoverId × List Body) := []
  /-- Running requests: frame mover f * 16 + m, I/O die mover 64 + d * 8 + m. -/
  run     : NMap (Option MoverRun) := []
  /-- Request queue of each frame, at most 64 (R320). -/
  queue   : NMap (List MReq) := []
  /-- Next fabric tag. MODEL's own. -/
  tag     : Nat := 0
  deriving DecidableEq, Repr, Inhabited

/-! ### Beat (R336-R347, R366) -/

/-- Beat count, phase, period and sources. -/
structure BeatUnit where
  count   : Nat := 0
  /-- Core cycles since the edge: MODEL's own; BEAT_PHASE is computed from it (R336). -/
  cyc     : Nat := 0
  period  : Nat := 1000
  periodNext : Option Nat := none
  srcEn   : Nat := 0x08
  srcUsed : Nat := 0x08
  ptpPort : Nat := 0
  ptpDomain : Nat := 0
  originNs : Nat := 0
  /-- BEAT_IN (R341, R342): locked, bits of the code being received (newest first), the count and beats of the last
  valid code, consecutive missing pulses, invalid codes, pulses missing since the code. -/
  biLocked : Bool := false
  biBits   : Option (List Bool) := none
  biZeros  : Nat := 0
  biCode   : Option Nat := none
  biSince  : Nat := 0
  biMiss   : Nat := 0
  biInvalid : Nat := 0
  /-- PTP (R343): locked, consecutive good Syncs, the waiting two-step Sync with the beat count and cycle at which it came, the
  Sync pair, delay, offset. -/
  ptpLocked : Bool := false
  ptpGood  : Nat := 0
  ptpWait  : Option (Nat × Int × Nat × Nat) := none
  ptpT1    : Int := 0
  ptpT2    : Int := 0
  ptpT3    : Option (Nat × Int) := none
  ptpDelay : Int := 0
  ptpOffset : Int := 0
  ptpSeq   : Nat := 0
  /-- Beat frames (R344, R385): locked, consistent frames, last count and edge time, link delay, echo in progress. -/
  bfLocked : Bool := false
  bfGood   : Nat := 0
  bfCount  : Nat := 0
  bfEdge   : Int := 0
  bfDelay  : Int := 0
  echoT1   : Option Nat := none
  /-- Distance in cycles from the device's edges to those of BEAT_IN, PTP and beat frames, as last measured. MODEL's own. -/
  biDist   : Int := 0
  /-- The distance of the latest BEAT_IN pulse, from which the next is expected: none before the first (R342). -/
  biPrev   : Option Int := none
  ptpDist  : Int := 0
  bfDist   : Int := 0
  /-- Distance to the new source's edges still to be slewed, in cycles (R346). -/
  slew     : Int := 0
  /-- Cycles by which the slew lengthens the beat in progress (R346). -/
  shift    : Int := 0
  deriving DecidableEq, Repr, Inhabited

/-! ### Ethernet ports (R367-R399) -/

/-- A fabric frame held or sent: type, header, payload (R383, R384). -/
structure FFrame where
  ty  : Nat
  h   : FabHdr
  pay : List Byte
  deriving DecidableEq, Repr, Inhabited

/-- FAB_STATE (R399). -/
inductive FabSt where
  | down | training | up | lost
  deriving DecidableEq, Repr, Inhabited

/-- A fabric port. -/
structure FabPort where
  enable  : Bool := false
  mode    : Nat := 0
  st      : FabSt := .down
  peerId  : Nat := 0
  peerPort : Nat := 0
  peerCaps : Nat := 0
  peerMode : Nat := 0
  /-- The peer's port MAC, learnt from its hello (R377). -/
  peerMac : List Byte := List.replicate 6 0
  /-- Lane that the spare lane replaces (R381), a SPARE_GO in progress, and a lane to be spared at the next training (R496). -/
  spared  : Option Nat := none
  spareGo : Option (Nat × Nat) := none
  spareNext : Option Nat := none
  nbMac   : List Byte := List.replicate 6 0
  vlan    : Nat := 0
  /-- Next LSEQ to send and next expected (R380). -/
  txSeq   : Nat := 0
  rxSeq   : Nat := 0
  /-- Replay buffer, oldest first (R380), and how often each of its frames has been resent, in the same order (R395); 0 where
  the list is shorter. -/
  replay  : List FFrame := []
  resent  : List Nat := []
  /-- The peer of which a second lane failed: it cannot bring the link up again (R381, R398). -/
  lanesOut : Option Nat := none
  /-- Frames waiting for credit, replay room or PFC (R379, R380, R382). -/
  waiting : List FFrame := []
  /-- Credit units used and regained, and units freed here, by class (R379). -/
  used0   : Nat := 0
  used1   : Nat := 0
  cred0   : Nat := 0
  cred1   : Nat := 0
  freed0  : Nat := 0
  freed1  : Nat := 0
  /-- PFC pauses of priorities 3 and 4 (R382), and the XOFFs for them that this port has sent. -/
  pause3  : Bool := false
  pause4  : Bool := false
  xoff3   : Bool := false
  xoff4   : Bool := false
  /-- Frames received since the last LINK_CTRL sent for them (R378). -/
  rxCount : Nat := 0
  /-- Frames discarded (R380, R383, R384, R396). -/
  discarded : Nat := 0
  deriving DecidableEq, Repr, Inhabited

/-- What an I/O die mover delivers for a fabric port (R387, R394): line writes and line reads with the grant's Noun window port,
a remote raise, or a frame passed on to a port of the other die; and for a memory stream of the host, named by the handle of its
operation (R320): line writes, and line reads, of the committed copies where `com` (R365). -/
inductive Job where
  | write (grant : Dir) (lines : List (Nat × List Byte × W64))
  | read (grant : Dir) (addrs : List Nat)
  | raise (amount : W64)
  | pass (e : Nat) (f : FFrame)
  | hostWrite (handle : Nat) (lines : List (Nat × List Byte × W64))
  | hostRead (handle : Nat) (com : Bool) (addrs : List Nat)
  deriving DecidableEq, Repr, Inhabited

/-- A delivery (R387, R394): the die and port on which its frame came, the frame's header, the mover of the die once it has
begun, whether the frame came from the port's receive buffer and not from the commit window's hold (R358), its accesses not yet
answered (tag, address), the lines read, and whether an access was refused. For a host's stream the port is 6 plus the host
port, and the header's originator the handle. -/
structure Deliv where
  die   : Nat
  port  : Nat
  h     : FabHdr
  job   : Job
  mover : Option Nat := none
  buffered : Bool := true
  out   : List (Nat × Nat) := []
  got   : NMap (Option (List Byte)) := []
  refused : Bool := false
  deriving DecidableEq, Repr, Inhabited

/-- A host port. -/
structure HostPort where
  enable : Bool := false
  /-- HOST_LINK 0 down, 1-3. -/
  link   : Nat := 0
  ipv4   : List Byte := []
  prefix4 : Nat := 16
  ipv6   : List Byte := []
  vlan   : Nat := 0
  /-- Addresses in use after duplicate address detection: IPv4, link-local, static (R373). -/
  use4   : Bool := false
  useLl  : Bool := false
  use6   : Bool := false
  discarded : Nat := 0
  deriving DecidableEq, Repr, Inhabited

/-- The Ethernet ports and their objects. -/
structure Ports where
  hosts   : List HostPort := [{}, {}]
  belufUdp : Nat := 52410
  bulkUdp : Nat := 52411
  mcast   : List Byte := List.replicate 16 0
  fab     : List FabPort := List.replicate 6 {}
  fabricId : Nat := 0
  ackTimeout : Nat := 64
  /-- ROUTE_TABLE entries written, by 4 * PORT + HOP; unlisted entries hold the default of R391. -/
  routes  : NMap (Option Nat) := []
  passEn  : Nat := 0x0000000420108042
  grants  : NMap (List Byte) := []
  notices : List (List Byte) := []
  /-- Deliveries of fabric frames, in arrival order (R387, R394). -/
  deliv   : List Deliv := []
  /-- Beat of the last PASS_REFUSED record (R392). -/
  passRec : Option Nat := none
  deriving DecidableEq, Repr, Inhabited

/-! ### Beluf (R429-R457) -/

/-- The selector objects of a session (R460). -/
structure Sels where
  clause   : Nat := 0
  sentence : Nat := 0
  queue    : Nat := 0
  sig      : Nat := 0
  page     : Nat := 0
  cell     : Nat := 0
  deriving DecidableEq, Repr, Inhabited

/-- A session (R437-R439), or a place of session 0. -/
structure Session where
  id      : Nat
  udp     : Nat
  mac     : List Byte := []
  ip      : List Byte
  port    : Nat
  lastSeq : Option Nat := none
  reply   : List Byte := []
  notSeq  : Nat := 0
  beat    : Nat := 0
  sels    : Sels := {}
  deriving DecidableEq, Repr, Inhabited

/-- A long operation (R450): serial, state 0-5, command object, progress, result. -/
structure Op where
  serial : Nat := 0
  used   : Bool := false
  state  : Nat := 0
  index  : Nat := 0
  sub    : Nat := 0
  progress : Nat := 0
  result : Nat := 0
  /-- The operation had started when it was suspended (R451). -/
  started : Bool := false
  /-- Order in which it became terminal, for the reuse of slots (R451). MODEL's own. -/
  stamp  : Nat := 0
  deriving DecidableEq, Repr, Inhabited

/-- An open bulk stream (R440). -/
structure Stream where
  id      : Nat
  session : Nat
  op      : Nat
  kind    : Nat
  mcast   : Bool
  clause  : Nat
  addr    : Nat
  len     : Nat
  rate    : Nat
  got     : NMap (Option Byte) := []
  next    : Nat := 0
  seq     : Nat := 0
  /-- Of a read stream's next frame: the lines read, by line number, whether one was refused, and the COMMITTED_EPOCH under
  which they are read (R365). -/
  lines   : NMap (Option (List Byte)) := []
  lost    : Bool := false
  epoch   : Nat := 0
  deriving DecidableEq, Repr, Inhabited

/-- A request that has been handed off, or waits behind one (R433, R461): its opcode, the session's selectors as the device fixed
them (R460), and whether the OTP write of a key command succeeds (R504). -/
structure Handed where
  op    : Nat
  req   : Req
  sels  : Sels := {}
  otpOk : Bool := true
  deriving DecidableEq, Repr, Inhabited

/-- Beluf. -/
structure Beluf where
  drops    : Nat := 0
  /-- Cycles of work that the engine has still to do for the requests in its queue (R433). -/
  busy     : Nat := 0
  sessions : List Session := []
  /-- Session 0, one place per source address and port. -/
  zero     : List Session := []
  /-- Unused nonces with the beat of issue, oldest first (R438). -/
  nonces   : List (List Byte × Nat) := []
  ops      : NMap Op := []
  streams  : List Stream := []
  /-- The selectors of session 0, which presets alone write (R437, R460). -/
  zeroSels : Sels := {}
  /-- Requests handed off or waiting behind one, in arrival order (R433, R461). -/
  deferred : List Handed := []
  idle     : Nat := 0x04000000
  /-- Stamp for terminal operations. MODEL's own. -/
  stamp    : Nat := 0
  deriving DecidableEq, Repr, Inhabited

/-! ### Image loading, reload, cascade (R400-R428) -/

/-- An image on its way in (R408, R415). -/
structure Loading where
  source  : Nat
  op      : Nat
  bytes   : NMap (Option Byte) := []
  last    : Nat := 0
  /-- Checks passed: header, table, segment; the kept segment's index. -/
  hdr     : Bool := false
  tab     : Bool := false
  seg     : Bool := false
  kept    : Option Nat := none
  /-- First failure: code, detail words. -/
  fail    : Option (Nat × Nat × Nat) := none
  /-- The end frame or the stream's close has come; the offset at which the image then ends short, where it does. -/
  ended   : Option (Option Nat) := none
  /-- The position taken from the first frame of the chain (R413). -/
  chain   : Option Nat := none
  /-- Data of the master not yet re-framed: the segment boundaries are not known (R414). -/
  unsent  : List (Nat × List Byte) := []
  deriving DecidableEq, Repr, Inhabited

/-- The stages of a reload (R425). -/
inductive RlStage where
  | queued | clamped | written | reopened
  deriving DecidableEq, Repr, Inhabited

/-- A partial reload (R423, R425). One that the device starts on its own account has no operation slot (R495). -/
structure Reload where
  op     : Option Nat
  clause : Nat
  mode   : Nat
  rect   : Nat × Nat × Nat × Nat
  at_    : Nat
  stage  : RlStage := .queued
  /-- Beat P at which it began, and beat E. -/
  p      : Nat := 0
  e      : Nat := 0
  /-- The clause was ACTIVE when the reload began: its held set is clamped (R425, R427). -/
  live   : Bool := false
  /-- MODE 1: the partial image being received; once accepted, the clause that its configuration makes, with its presets
  (image offset and raw record), and the kept segment's index and image offset. -/
  img    : Option Loading := none
  fresh  : Option Clause := none
  presets : List (Nat × List Byte) := []
  seg    : Nat × Nat := (0, 0)
  /-- The place a MODE 2 reload moves from. -/
  old    : Option (Nat × Nat × Nat) := none
  /-- CLAMP_TIMEOUT has been recorded (R426). -/
  timedOut : Bool := false
  /-- Started by the retirement flow: cells start only on RELEASE (R495). -/
  auto   : Bool := false
  deriving DecidableEq, Repr, Inhabited

/-- Images and cascade. -/
structure Config where
  loading : Option Loading := none
  reloads : List Reload := []
  serial  : Nat := 0
  segment : Nat := 0xFFFF
  /-- The bytes that the image copy holds, by image offset (R313, R417): the header, the segment table and the kept segment. -/
  copy    : NMap (Option Byte) := []
  armBeat : Nat := 0
  startBeat : Nat := 0
  corrected : Nat := 0
  /-- READBACK_PASS of each frame (R421). -/
  pass    : NMap Nat := []
  /-- Slots and tables awaiting a rewrite from the image copy (R422). -/
  rewrite : List ConfLoc := []
  /-- By frame * 4 + slot: the physical cells that hold slot data there, and their CRC-32, as of the last fill (R421). -/
  seals   : NMap (Option (List Nat × Nat)) := []
  position : Nat := 0
  size    : Nat := 1
  clampTimeout : Nat := 64
  /-- The pad is driven low; the level at the last sample, and the beat of that sample (R418-R420). -/
  driveLow : Bool := true
  level   : Bool := false
  sampleBeat : Nat := 0
  /-- The start-up self-test is running (R417). -/
  selftest : Bool := false
  /-- Objects that this load's presets have written, with the values before, newest first (R408, R417): index, subindex,
  clause, value. -/
  undo     : List (Nat × Nat × Nat × List Byte) := []
  deriving DecidableEq, Repr, Inhabited

/-! ### Faults, self-test, retirement (R477-R497) -/

/-- A slice in progress (R486): kind, unit, start beat, reserved beats, operation slot of a JIG_RUN. -/
structure Slice where
  kind  : Nat
  unit_ : Nat
  beat  : Nat
  r     : Nat
  op    : Option Nat
  overrun : Bool := false
  deriving DecidableEq, Repr, Inhabited

/-- One frame's Jig. -/
structure Jig where
  /-- Rotation pointers of cell and bench slices (R486). -/
  rotCell  : Nat := 0
  rotBench : Nat := 0
  running  : Option Slice := none
  result   : List Byte := List.replicate 24 0
  deferred : Nat := 0
  passed   : Nat := 0
  failed   : Nat := 0
  /-- JIG_RUN requests queued: kind, unit, operation slot (R496). -/
  queue    : List (Nat × Nat × Nat) := []
  deriving DecidableEq, Repr, Inhabited

/-- Faults, self-test, spares. -/
structure Health where
  total   : Nat := 0
  /-- The fault log ring of 1,024 records (R478). -/
  ring    : NMap (Option FaultRec) := []
  last    : Option FaultRec := none
  jigs    : List Jig := List.replicate 4 {}
  /-- Retirement entries that found the OTP full (R494), and whether that was recorded. -/
  extra   : List Nat := []
  fullRec : Bool := false
  deriving DecidableEq, Repr, Inhabited

/-! ### Security (R498-R508) -/

/-- Identity, measurements, debug. -/
structure Security where
  /-- The outcome of the identity check: none before it, 0 valid, else the cause (R499). -/
  identity : Option Nat := none
  /-- Measurement registers 0-15 of 32 bytes (R506). -/
  measure  : NMap (List Byte) := []
  debug    : Bool := false
  /-- Draws taken from the random source and of unstated values. MODEL's own: the counter that the free values of Config
  are applied to (notes/assumptions/9, 11). -/
  draws    : Nat := 0
  /-- JTAG: the instruction in the register, and the pad values that EXTEST drives (R508). -/
  jtag     : JtagOp := .bypass
  deriving DecidableEq, Repr, Inhabited

/-! ### Power, clocks, reset (R509-R527) -/

/-- A power domain (R474): 0 off, 1 on, 2 switching. -/
inductive DomSt where
  | off | on | switchingOn | switchingOff
  deriving DecidableEq, Repr, Inhabited

/-- How far a reset has come (R518): power absent or RESET_N low, released, identity judged, ready. -/
inductive Boot where
  | down | released | ready
  deriving DecidableEq, Repr, Inhabited

/-- Power, clocks, reset. -/
structure Power where
  boot     : Boot := .released
  straps   : Straps := { master := true, hostport := false, id := 0 }
  cause    : Nat := 0
  limit    : Nat := 3800
  /-- Schedule, power and thermal steps, the step in force and the one decided for the next beat (R524). -/
  schedStep : Nat := 0
  powerStep : Nat := 0
  thermStep : Nat := 0
  step     : Nat := 0
  stepNext : Nat := 0
  powerBeat : Nat := 0
  thermBeat : Nat := 0
  coolBeats : Nat := 0
  /-- Measured values at the last edge (R474). -/
  powerW   : Nat := 0
  temps    : List Nat := List.replicate 6 0
  /-- THERMAL_TARGET as an FP32 word (R474). -/
  target   : W32 := 0x42C80000
  domains  : NMap DomSt := []
  /-- PLL_LOCK of frames 0-3 and I/O dies 4-5; SERDES_REFCLK_OK (R516). -/
  pll      : NMap Bool := []
  serdes   : NMap Bool := []
  /-- A device-fatal fault of this chapter was detected in INERT (R520). -/
  fatalInert : Bool := false
  deriving DecidableEq, Repr, Inhabited

/-! ### The device -/

/-- DEVICE_STATE (R445). -/
inductive DevSt where
  | inert | loading | loaded | armed | running | held | faulted
  deriving DecidableEq, Repr, Inhabited

/-- The Ethernet header of a frame sent (R369, R374, R377): the destination address, and the 16 bits of an IEEE 802.1Q tag. The
source address is the port's own (R371). -/
structure Ether where
  dst : List Byte
  tag : Option Nat := none
  deriving DecidableEq, Repr, Inhabited

/-- What the device has sent out of its ports. MODEL's own: the wires, newest first. -/
inductive Tx where
  /-- A UDP datagram of host port `port` to an address and UDP port, from the device's UDP port `src`: a Beluf frame (R430). -/
  | host (port : Nat) (ip : List Byte) (udp : Nat) (bytes : List Byte) (eth : Ether) (src : Nat)
  /-- An ARP, neighbour, or echo answer, a probe or a group report of a host port (R373). -/
  | net (port : Nat) (ip : List Byte) (kind : Nat) (data : List Byte) (eth : Ether)
  | fabric (port : Nat) (f : FFrame) (eth : Ether)
  | link (port : Nat) (kind : Nat) (lc : LinkCtrl) (eth : Ether)
  /-- A PFC frame of a fabric port: priority, XOFF or XON (R382). -/
  | pfc (port prio : Nat) (off : Bool)
  | ptpDelayReq (port seq : Nat) (eth : Ether)
  | jtag (bits : Nat) (width : Nat)
  deriving DecidableEq, Repr, Inhabited

/-- A device-wide hold under way, or a clause hold (R453): the clause (0xFFFF the device), its operation, the cause. -/
structure HoldReq where
  clause : Nat
  op     : Option Nat
  cause  : Nat
  deriving DecidableEq, Repr, Inhabited

/-- Device states and holds. -/
structure Ctl where
  state     : DevSt := .inert
  heldCause : Nat := 0
  stateBeat : Nat := 0
  holds     : List HoldReq := []
  /-- Releases that wait for their beat: clause or 0xFFFF, beat (R447). -/
  releases  : List (Nat × Nat) := []
  /-- Clauses whose first NaN asks for a hold, with the beat it was recorded in (R138). -/
  nanHold   : List (Nat × Nat) := []
  deriving DecidableEq, Repr, Inhabited

/-- Everything but one-time-programmable memory and the queue of commands. -/
structure Dev where
  ctl    : Ctl := {}
  beat   : BeatUnit := {}
  mesh   : Mesh := {}
  /-- Cells, by physical index frame * 1152 + prow * 36 + pcol (R12). -/
  cells  : NMap Cell := []
  sig    : Signals := {}
  plan   : Plan := {}
  tiers  : Tiers := {}
  epoch  : Epoch := {}
  movers : Movers := {}
  ports  : Ports := {}
  beluf  : Beluf := {}
  config : Config := {}
  health : Health := {}
  sec    : Security := {}
  power  : Power := {}
  tx     : List Tx := []
  deriving DecidableEq, Repr, Inhabited

/-- The state of the block: the device, its one-time-programmable memory, and the commands that wait. -/
structure State where
  pending : List Instr := []
  otp     : Otp := {}
  dev     : Dev := {}
  deriving DecidableEq, Repr, Inhabited

/-- Why the machine stops with a fault. No meaning of the table ends in one on a value of the operands: every fault of
the manual is a record in State (R477). The one constructor names an access that R508 leaves to internal scan. -/
inductive Fault where
  /-- Raised by JTAG_INSTRUCTION on internal scan chains and cell memories once debug is unlocked (R508): the manual says
  that they are reached and not what a scan does there. Safe: the machine stops where the hardware goes on. -/
  | debugScan
  deriving DecidableEq, Repr

/-- Why a command is refused. -/
inductive Refusal where
  /-- Raised by an arm of exec whose command has no meaning yet. Safe. -/
  | notModelled (mnemonic : String)
  deriving DecidableEq, Repr

/-- HOST_IPV4 default 169.254.P.S (R372). -/
def defaultIpv4 (n : Nat) (id : Nat) : List Byte := [169, 254, BitVec.ofNat 8 (n + 1), BitVec.ofNat 8 (id + 1)]

/-- HOST_IPV6 default fd00:0:0:P::S (R372). -/
def defaultIpv6 (n : Nat) (id : Nat) : List Byte :=
  [0xfd, 0, 0, 0, 0, 0, 0, BitVec.ofNat 8 (n + 1), 0, 0, 0, 0, 0, 0, 0, BitVec.ofNat 8 (id + 1)]

/-- The ports after reset with straps `st` (R372, R399, R517). -/
def resetPorts (st : Straps) : Ports :=
  { hosts := [{ enable := !st.hostport, ipv4 := defaultIpv4 0 st.id.toNat, ipv6 := defaultIpv6 0 st.id.toNat },
              { enable := st.hostport, ipv4 := defaultIpv4 1 st.id.toNat, ipv6 := defaultIpv6 1 st.id.toNat }]
    fabricId := st.id.toNat }

/-- The device as RESET_N rises with straps `st`: every object at its default (R459), the always-on domain and the
selected host port powered (R510), SERDES reference clocks and PLLs not yet reported (R474). -/
def Dev.reset (st : Straps) : Dev :=
  { ports := resetPorts st
    config := { position := st.id.toNat }
    power := { straps := st, domains := [(86 + (if st.hostport then 1 else 0), .on), (94, .on)] } }

/-- The state after reset of the model's device alone in its cascade (notes/assumptions/5, 6, 7). -/
def State.reset : State := { dev := Dev.reset { master := true, hostport := false, id := 0 } }

end Sys2Proof.Machine
end

