-- ==== Sys2Proof/Machine/Ops.lean ====
section
/-! DEFINITION. The shared operations: byte layouts, coordinates and the remap table, cells and clauses, notifications,
device states, fault records, long operations and the sending of flits. -/
namespace Sys2Proof.Machine

/-- The outcome type of the machine. -/
abbrev Out := Host.Outcome State Fault Refusal

/-- A command whose whole effect lies in the device. -/
def onDev (f : Dev → Dev) (s : State) : Out := .next { s with dev := f s.dev }

/-- A command that also reads one-time-programmable memory. -/
def onDevO (f : Otp → Dev → Dev) (s : State) : Out := .next { s with dev := f s.otp s.dev }

/-- A command that also writes one-time-programmable memory. -/
def onBoth (f : Otp → Dev → Otp × Dev) (s : State) : Out :=
  .next { s with otp := (f s.otp s.dev).1, dev := (f s.otp s.dev).2 }

/-! ### Byte layouts (R6) -/

/-- Bits `hi` to `lo` of `v` (R5). -/
def bits (v hi lo : Nat) : Nat := v / 2 ^ lo % 2 ^ (hi + 1 - lo)
/-- Bit `i` of `v`. -/
def bit (v i : Nat) : Bool := v / 2 ^ i % 2 == 1
/-- The number that bytes spell, least significant first. -/
def leNat : List Byte → Nat
  | [] => 0
  | b :: bs => b.toNat + 256 * leNat bs
/-- The number that bytes spell, most significant first. -/
def beNat (bs : List Byte) : Nat := leNat bs.reverse
/-- `v` in `n` bytes, least significant first. -/
def leBytes : Nat → Nat → List Byte
  | 0, _ => []
  | n + 1, v => BitVec.ofNat 8 v :: leBytes n (v / 256)
/-- `v` in `n` bytes, most significant first. -/
def beBytes (n v : Nat) : List Byte := (leBytes n v).reverse
/-- The bytes `off` to `off + n - 1`. -/
def slice (bs : List Byte) (off n : Nat) : List Byte := (bs.drop off).take n
/-- A little-endian field. -/
def fld (bs : List Byte) (off n : Nat) : Nat := leNat (slice bs off n)
/-- A field most significant byte first. -/
def fldBE (bs : List Byte) (off n : Nat) : Nat := beNat (slice bs off n)
/-- Bytes `bs` with the `n` bytes at `off` replaced by `v`, little-endian. -/
def setFld (bs : List Byte) (off n v : Nat) : List Byte := bs.take off ++ leBytes n v ++ bs.drop (off + n)
/-- An `n`-bit two's complement value. -/
def sgn (n v : Nat) : Int := if v % 2 ^ n < 2 ^ (n - 1) then (v % 2 ^ n : Nat) else ((v % 2 ^ n : Nat) : Int) - (2 ^ n : Nat)
/-- A signed little-endian field. -/
def fldS (bs : List Byte) (off n : Nat) : Int := sgn (8 * n) (fld bs off n)
/-- An integer modulo 2^n. -/
def wrapN (n : Nat) (v : Int) : Nat := (v % ((2 ^ n : Nat) : Int)).toNat
/-- Bytes padded with zeros to `n`. -/
def padTo (n : Nat) (bs : List Byte) : List Byte := bs ++ List.replicate (n - bs.length) 0
/-- `v` rounded up to a multiple of `n`. -/
def upTo (n v : Nat) : Nat := (v + n - 1) / n * n
/-- A saturating count of `w` bits. -/
def satAdd (w v n : Nat) : Nat := min (2 ^ w - 1) (v + n)
/-- The one-byte Boolean of R434. -/
def boolByte (b : Bool) : List Byte := [if b then 1 else 0]
/-- The first index whose element satisfies `p`. -/
def firstIdx {α : Type} (p : α → Bool) (l : List α) : Option Nat := l.findIdx? p
/-- Removes the first element that satisfies `p`. -/
def eraseFirst {α : Type} (p : α → Bool) : List α → List α
  | [] => []
  | x :: xs => if p x then xs else x :: eraseFirst p xs
/-- Applies `f` to the first element that satisfies `p`. -/
def mapFirst {α : Type} (p : α → Bool) (f : α → α) : List α → List α
  | [] => []
  | x :: xs => if p x then f x :: xs else x :: mapFirst p f xs
/-- Applies `f` to element `n`. -/
def mapAt {α : Type} (n : Nat) (f : α → α) : List α → List α
  | [] => []
  | x :: xs => match n with
    | 0 => f x :: xs
    | n + 1 => x :: mapAt n f xs
/-- The entries of a map from key `a` on, `n` keys in order, absent ones none; the map lists no key below `a`. -/
def fillFrom : NMap (Option Byte) → Nat → Nat → List (Option Byte)
  | _, _, 0 => []
  | [], a, n + 1 => none :: fillFrom [] (a + 1) n
  | (k, v) :: m, a, n + 1 => if k = a then v :: fillFrom m (a + 1) n else none :: fillFrom ((k, v) :: m) (a + 1) n
/-- Sparse bytes from `a` on: absent bytes are none. -/
def someBytes (m : NMap (Option Byte)) (a n : Nat) : List (Option Byte) :=
  fillFrom (m.filter fun e => decide (a ≤ e.1) && decide (e.1 < a + n)) a n
/-- Lists bytes at `a`. -/
def putBytes (m : NMap (Option Byte)) (a : Nat) (bs : List Byte) : NMap (Option Byte) :=
  let n := a + bs.length
  m.filter (fun e => decide (e.1 < a)) ++ bs.zipIdx.map (fun b => (a + b.2, some b.1)) ++ m.filter (fun e => decide (n ≤ e.1))
/-- Bytes read back, absent ones as zero. -/
def getBytes (m : NMap (Option Byte)) (a n : Nat) : List Byte := (someBytes m a n).map fun o => o.getD 0

/-! ### Coordinates (R10-R12, R64-R73) -/

/-- What a position holds (R64). -/
inductive Kind where
  | noun | verb | adverb | conj
  deriving DecidableEq, Repr

/-- The kind of a position (row mod 4, col mod 4) (R64). -/
def kindAt (row col : Nat) : Kind :=
  if (row + col) % 2 == 0 then .noun
  else match row % 4, col % 4 with
    | 1, 0 => .adverb
    | 3, 2 => .adverb
    | 1, 2 => .conj
    | _, _ => .verb

/-- CELL_KIND of R406 and KIND of R475. -/
def Kind.code : Kind → Nat
  | .noun => 0
  | .verb => 1
  | .adverb => 2
  | .conj => 3

/-- The frame of a logical cell (R10). -/
def frameOf (c : LCell) : Nat := c.row / 32 * 2 + c.col / 32
/-- The index in its frame's remap table of a cell's bench (R71). -/
def benchEntry (c : LCell) : Nat := c.row % 32 / 4 * 8 + c.col % 32 / 4
/-- A cell of the device (R10). -/
def cellOk (c : LCell) : Bool := decide (c.row < 64) && decide (c.col < 64)
/-- The cell at a logical coordinate pair of R477's LCELL. -/
def lcellCode (c : LCell) : Nat := c.row * 256 + c.col

/-- A physical index frame * 1152 + prow * 36 + pcol (R12). -/
def physIx (f prow pcol : Nat) : Nat := f * 1152 + prow * 36 + pcol
/-- Frame of a physical index. -/
def physFrame (p : Nat) : Nat := p / 1152
/-- prow of a physical index. -/
def physRow (p : Nat) : Nat := p % 1152 / 36
/-- pcol of a physical index. -/
def physCol (p : Nat) : Nat := p % 36
/-- The CELL_SEL layout of R475 with bit 15 set. -/
def physCode (p : Nat) : Nat := 0x8000 + physFrame p * 0x2000 + physRow p * 256 + physCol p
/-- The kind of a physical position: a shim bench has the layout of a regular bench (R68). -/
def physKind (p : Nat) : Kind := kindAt (physRow p) (physCol p)

/-- The remap entry of a logical cell's bench (R71). -/
def remapOf (d : Dev) (c : LCell) : Remap := NMap.get {} d.mesh.remap (frameOf c * 64 + benchEntry c)
/-- Whether the logical bench of `c` is mapped to a working physical bench (R71). -/
def availOf (d : Dev) (c : LCell) : Bool := (remapOf d c).avail
/-- The physical cell behind a logical one (R71-R73); where its bench is not available, its last place (DEDUCED,
notes/assumptions/14). -/
def phys (d : Dev) (c : LCell) : Nat :=
  let r := remapOf d c
  let pb := if r.shim then 8 else c.col % 32 / 4
  physIx (frameOf c) (c.row % 32) (pb * 4 + c.col % 4)
/-- The logical cell that a physical cell stands behind, where one is mapped (R72). -/
def logicalOf (d : Dev) (p : Nat) : Option LCell :=
  let f := physFrame p
  let r := physRow p
  let k := physCol p
  let find (b : Nat) : LCell := { row := f / 2 * 32 + r, col := f % 2 * 32 + b * 4 + k % 4 }
  if k < 32 then
    let m := NMap.get ({} : Remap) d.mesh.remap (f * 64 + r / 4 * 8 + k / 4)
    if m.avail && !m.shim then some (find (k / 4)) else none
  else
    ((List.range 8).find? fun b =>
      let m := NMap.get ({} : Remap) d.mesh.remap (f * 64 + r / 4 * 8 + b)
      m.avail && m.shim).map find

/-- The mesh position of a physical cell (R69). -/
def meshPos (p : Nat) : Nat × Nat :=
  let f := physFrame p
  let k := physCol p
  (physRow p + f / 2 * 32, if f % 2 == 0 then (if k < 32 then k + 4 else k - 32) else k + 36)

/-- A neighbour's logical coordinates, where they lie in the grid (R66). -/
def neighbour (c : LCell) : Dir → Option LCell
  | .n => if c.row = 0 then none else some { c with row := c.row - 1 }
  | .s => if c.row < 63 then some { c with row := c.row + 1 } else none
  | .e => if c.col < 63 then some { c with col := c.col + 1 } else none
  | .w => if c.col = 0 then none else some { c with col := c.col - 1 }
/-- The direction seen from the neighbour. -/
def dirOpp : Dir → Dir
  | .n => .s
  | .s => .n
  | .e => .w
  | .w => .e
/-- Direction code 0 N, 1 S, 2 E, 3 W (R67). -/
def dirCode : Dir → Nat
  | .n => 0
  | .s => 1
  | .e => 2
  | .w => 3
/-- The direction of a code, modulo 4. -/
def dirOf (n : Nat) : Dir :=
  match n % 4 with
  | 0 => .n
  | 1 => .s
  | 2 => .e
  | _ => .w

/-! ### Cells, slots and clauses -/

/-- The state of a physical cell. -/
def cellP (d : Dev) (p : Nat) : Cell := NMap.get {} d.cells p
/-- The state of a logical cell. -/
def cellAt (d : Dev) (c : LCell) : Cell := cellP d (phys d c)
/-- Changes a physical cell. -/
def updP (p : Nat) (f : Cell → Cell) (d : Dev) : Dev := { d with cells := NMap.upd {} d.cells p f }
/-- Changes a logical cell. -/
def updCell (c : LCell) (f : Cell → Cell) (d : Dev) : Dev := updP (phys d c) f d
/-- Changes the Conjunction core of a cell. -/
def updConj (c : LCell) (f : Conj → Conj) (d : Dev) : Dev := updCell c (fun x => { x with conj := f x.conj }) d

/-- Slot `k` of a cell. -/
def slotOf (x : Cell) (k : Nat) : Slot := NMap.get {} x.slots k
/-- Changes slot `k`. -/
def updSlot (k : Nat) (f : Slot → Slot) (x : Cell) : Cell := { x with slots := NMap.upd {} x.slots k f }
/-- The ACTIVE slot of a cell (R50). -/
def activeSlot (x : Cell) : Option Nat := (List.range 4).find? fun k => (slotOf x k).st == .active
/-- The slot data of the ACTIVE slot. -/
def activeData (x : Cell) : SlotData :=
  match activeSlot x with
  | some k => (slotOf x k).data
  | none => {}
/-- CLAUSE_ID of the ACTIVE slot, 0 where none (R475). -/
def activeId (x : Cell) : Nat :=
  match activeSlot x with
  | some k => (slotOf x k).clause
  | none => 0
/-- The slot, in any state, that holds clause `id` in a cell. -/
def slotOfClause (x : Cell) (id : Nat) : Option Nat :=
  (List.range 4).find? fun k => (slotOf x k).st != .empty && (slotOf x k).clause == id

/-- A loaded clause. -/
def clauseOf (d : Dev) (id : Nat) : Option Clause := d.plan.clauses.find? fun c => c.id == id
/-- Changes a loaded clause. -/
def updClause (id : Nat) (f : Clause → Clause) (d : Dev) : Dev :=
  { d with plan := { d.plan with clauses := mapFirst (fun c => c.id == id) f d.plan.clauses } }
/-- BENCH_ROWS (R38). -/
def Clause.benchRows (c : Clause) : Nat := fld c.contract 4 1
/-- BENCH_COLS (R38). -/
def Clause.benchCols (c : Clause) : Nat := fld c.contract 5 1
/-- SIGNALS (R38). -/
def Clause.signals (c : Clause) : Nat := fld c.contract 0x0A 2
/-- Rows of cells. -/
def Clause.rows (c : Clause) : Nat := 4 * c.benchRows
/-- Columns of cells. -/
def Clause.cols (c : Clause) : Nat := 4 * c.benchCols
/-- First row of the region (R35). -/
def Clause.row0 (c : Clause) : Nat := 4 * c.orow
/-- First column of the region (R35). -/
def Clause.col0 (c : Clause) : Nat := 4 * c.ocol
/-- A cell of the region (R35). -/
def Clause.has (c : Clause) (x : LCell) : Bool :=
  decide (c.row0 ≤ x.row) && decide (x.row < c.row0 + c.rows) && decide (c.col0 ≤ x.col) && decide (x.col < c.col0 + c.cols)
/-- The cells of a rectangle of benches, row by row. -/
def rectCells (orow ocol rows cols : Nat) : List LCell :=
  (List.range (4 * rows)).flatMap fun r => (List.range (4 * cols)).map fun k => { row := 4 * orow + r, col := 4 * ocol + k }
/-- The cells of the region in clause-relative row-major order (R405). -/
def Clause.cells (c : Clause) : List LCell := rectCells c.orow c.ocol c.benchRows c.benchCols
/-- The logical cell of a clause-relative one (R172). -/
def Clause.absolute (c : Clause) (row col : Nat) : LCell := { row := c.row0 + row, col := c.col0 + col }

/-- The clause of a cell's ACTIVE slot. -/
def activeClause (d : Dev) (c : LCell) : Option Clause := clauseOf d (activeId (cellAt d c))
/-- A clause is ACTIVE where its slot is ACTIVE in a cell of its region (R50), or was until the retirement of the cell's bench
(DESIGN CHOICE, notes/assumptions/16). -/
def clauseActive (d : Dev) (c : Clause) : Bool :=
  !c.gone.isEmpty || c.cells.any fun x => let k := cellAt d x; (slotOf k c.slot).st == .active && (slotOf k c.slot).clause == c.id

/-! ### Source IDs and mesh positions of agents (R270, R318, R533) -/

/-- The source ID of a sender (R270); an operation of an I/O die itself is 0x2000 with the die in [8] (DEDUCED,
notes/assumptions/15). -/
def srcCode : Src → Nat
  | .cell c => c.row * 64 + c.col
  | .frameMover f m => 0x1000 + f * 256 + m
  | .ioMover d m => 0x2000 + d * 256 + m
  | .store f => 0x3000 + f * 256
  | .ioDie d => 0x2000 + d * 256
/-- The logical cell of a source, where it is a cell. -/
def srcCell : Src → Option LCell
  | .cell c => some c
  | _ => none

/-- The physical cell whose router a signal store attaches to (R290): primary or alternate. -/
def attachPlace (f : Nat) (alt : Bool) : Nat :=
  let row := if (f / 2 == 0) == alt then 16 else 15
  physIx f row (if f % 2 == 0 then 9 else 22)
/-- Whether a router is dead: an output that leads into it is BLOCKED (R79, R89), seen from its north or south neighbour. -/
def routerDead (m : Mesh) (p : Nat) : Bool :=
  let (y, x) := meshPos p
  if y = 0 then (NMap.get {} m.detour (((y + 1) * 72 + x) * 4 + 0)).blocked
  else (NMap.get {} m.detour (((y - 1) * 72 + x) * 4 + 1)).blocked
/-- The attachment of frame `f`'s store (R290). -/
def attachment (d : Dev) (f : Nat) : Nat :=
  if routerDead d.mesh (attachPlace f false) then attachPlace f true else attachPlace f false
/-- Whether frame `f`'s store can be reached (R291). -/
def storeReachable (d : Dev) (f : Nat) : Bool :=
  !(routerDead d.mesh (attachPlace f false) && routerDead d.mesh (attachPlace f true))

/-- The place of an agent before the choice of a link: its cell, its store's attachment, its mover's upper row, or its
I/O die's edge (R69, R290, R318). -/
def basePos (d : Dev) : Src → Nat × Nat
  | .cell c => meshPos (phys d c)
  | .frameMover f m => (f / 2 * 32 + 2 * m, if f % 2 == 0 then 0 else 71)
  | .ioMover i _ => (if i == 0 then 0 else 63, 4)
  | .ioDie i => (if i == 0 then 0 else 63, 4)
  | .store f => meshPos (attachment d f)

/-- Where a flit between the agent `a` and its peer enters or leaves the mesh (R318, R533). DESIGN CHOICE
(notes/assumptions/54): an I/O die uses the column of its peer where that is one of mx 4-67, else the nearest of these; a
frame mover uses the link of row 2m to a signal store, and to another peer that of row 2m or 2m + 1 as the peer's mesh
row is even or odd. -/
def agentPos (d : Dev) (a peer : Src) : Nat × Nat :=
  let p := basePos d a
  let q := basePos d peer
  match a with
  | .frameMover _ _ => (match peer with
    | .store _ => p.1
    | _ => p.1 + q.1 % 2, p.2)
  | .ioMover _ _ | .ioDie _ => (p.1, max 4 (min 67 q.2))
  | _ => p

/-- The input port by which an agent's flits enter its router, coded 0 N, 1 S, 2 E, 3 W, 4 local (R74, R76, R318). -/
def entryPort : Src → Nat
  | .frameMover f _ => if f % 2 == 0 then 3 else 2
  | .ioMover i _ => if i == 0 then 0 else 1
  | .ioDie i => if i == 0 then 0 else 1
  | _ => 4

/-- A flit as its sender holds it, to be injected (R74, R269). -/
def newFlit (src dst : Src) (body : Body) (d : Dev) : Flit :=
  let p := agentPos d src dst
  let q := agentPos d dst src
  { src, dst, body, my := p.1, mx := p.2, dmy := q.1, dmx := q.2, inp := entryPort src, stamp := d.mesh.stamp }

/-- An agent sends a flit: it waits at the sender's port until ROUTER_FORWARD injects it. -/
def sendFlit (src dst : Src) (body : Body) (d : Dev) : Dev :=
  { d with mesh := { d.mesh with flits := d.mesh.flits ++ [newFlit src dst body d], stamp := d.mesh.stamp + 1 } }
/-- Sends a line and the flit that follows it (R271, R319). -/
def sendTwo (src dst : Src) (a b : Body) (d : Dev) : Dev := sendFlit src dst b (sendFlit src dst a d)

/-- Two flits share a buffer: an injected one its input port and virtual channel, a waiting one its sender's port (R74). -/
def sameBuffer (f g : Flit) : Bool :=
  f.my == g.my && f.mx == g.mx && f.inp == g.inp && f.inj == g.inj && (!f.inj || f.vc == g.vc)
/-- A flit at the head of its buffer (R77). -/
def bufferHead (fs : List Flit) (f : Flit) : Bool := fs.all fun g => !sameBuffer f g || decide (f.stamp ≤ g.stamp)
/-- A flit that waits at its destination's router to be ejected (R78, R80). -/
def ejectable (fs : List Flit) (f : Flit) : Bool :=
  f.inj && f.my == f.dmy && f.mx == f.dmx && f.det.isNone && bufferHead fs f

/-- The key of a router output in `Mesh.grants`: 0 N, 1 S, 2 E, 3 W, an edge output among them where it leads out of the mesh,
and 4 local. -/
def grantKey (my mx port : Nat) : Nat := if port < 4 then (my * 72 + mx) * 4 + port else 18432 + my * 72 + mx
/-- How far input `i` stands behind the input granted last, in the rotation N, S, E, W, local. -/
def turn (last i : Nat) : Nat := (i + 9 - last) % 5
/-- Whether the rotation of output `port` of its router grants a flit next: of the flits there that satisfy `waits`, no other
stands nearer in the rotation, nor on the same input with an earlier stamp (R77; the order of the two channels of an input and
the rotation's start are of notes/assumptions/55). -/
def rotationGrants (m : Mesh) (port : Nat) (waits : Flit → Bool) (f : Flit) : Bool :=
  let last := NMap.get 0 m.grants (grantKey f.my f.mx port)
  let key (g : Flit) : Nat := turn (if last = 0 then 4 else last - 1) g.inp
  m.flits.all fun g =>
    !(g.my == f.my && g.mx == f.mx && waits g) || decide (key f < key g) || (key f == key g && decide (f.stamp ≤ g.stamp))
/-- Records that an output has granted the input of a flit. -/
def grantTo (m : Mesh) (port : Nat) (f : Flit) : NMap Nat := NMap.set 0 m.grants (grantKey f.my f.mx port) (f.inp + 1)

/-- The flits of one sender to one receiver. -/
def between (src dst : Src) (f : Flit) : Bool := decide (f.src = src) && decide (f.dst = dst)
/-- A sender's oldest flit to a receiver is ejected, where it carries `body` and has come to its destination: flits of one
source to one destination arrive in the order they were injected (R77). -/
def landOne (src dst : Src) (body : Body) (fs : List Flit) : Option (List Flit) :=
  match fs.find? (between src dst) with
  | none => none
  | some f => if decide (f.body = body) && ejectable fs f then some (eraseFirst (between src dst) fs) else none
/-- The flits of one message are ejected one after the other (R271, R319), under the grant of the first (DESIGN CHOICE,
notes/assumptions/55). -/
def landFlits (src dst : Src) : List Body → List Flit → Option (List Flit)
  | [], fs => some fs
  | b :: bs, fs => (landOne src dst b fs).bind (landFlits src dst bs)
/-- The output to a receiver, local or out of the mesh, grants a sender's oldest flit to it next (R77). -/
def exitGranted (m : Mesh) (src dst : Src) : Bool :=
  match m.flits.find? (between src dst) with
  | none => false
  | some f => rotationGrants m (entryPort dst) (fun g => ejectable m.flits g && entryPort g.dst == entryPort dst) f
/-- The grants once the output to a receiver has granted a sender's oldest flit to it. -/
def exitGrants (m : Mesh) (src dst : Src) : NMap Nat :=
  match m.flits.find? (between src dst) with
  | none => m.grants
  | some f => grantTo m (entryPort dst) f
/-- The physical index at a mesh position (R69). -/
def physAt (my mx : Nat) : Nat :=
  let f := my / 32 * 2 + (if mx < 36 then 0 else 1)
  physIx f (my % 32) (if mx < 36 then (if mx < 4 then mx + 32 else mx - 4) else mx - 36)

/-- The power domain of a physical cell's router: the inner or outer half of its bench row (R87, R509). -/
def halfDomain (p : Nat) : Nat :=
  let f := physFrame p
  let b := physCol p / 4
  let outer := if f % 2 == 0 then decide (b < 4) || b == 8 else decide (3 < b)
  16 * f + 2 * (physRow p / 4) + (if outer then 1 else 0)
/-- The half domain of a physical cell and its router is on (R87, R511). -/
def halfOn (d : Dev) (p : Nat) : Bool := NMap.get DomSt.off d.power.domains (halfDomain p) == .on
/-- The receiver of a sender's oldest flit takes flits: the router where they leave the mesh has power (R511), and a receiving cell's
clock runs, which it does not in FAULTED (R510). -/
def exitOpen (d : Dev) (src dst : Src) : Bool :=
  (match d.mesh.flits.find? (between src dst) with
   | some f => halfOn d (physAt f.my f.mx)
   | none => false) &&
  (match dst with
   | .cell _ => d.ctl.state != .faulted
   | _ => true)
/-- The message `bs` of a sender stands ejectable at its receiver, which takes flits and whose output grants it next. -/
def arrived (d : Dev) (src dst : Src) (bs : List Body) : Bool :=
  (landFlits src dst bs d.mesh.flits).isSome && exitGranted d.mesh src dst && exitOpen d src dst
/-- The device with an arrived message taken off the mesh. -/
def landed (d : Dev) (src dst : Src) (bs : List Body) : Dev :=
  { d with mesh := { d.mesh with flits := (landFlits src dst bs d.mesh.flits).getD d.mesh.flits, grants := exitGrants d.mesh src dst } }
/-- An arrival: `f` acts on the device without the message's flits; where they have not arrived nothing happens
(notes/assumptions/2). -/
def arrive (src dst : Src) (bs : List Body) (f : Dev → Dev) (d : Dev) : Dev :=
  if arrived d src dst bs then f (landed d src dst bs) else d
/-- An arrival whose effect reads or writes one-time-programmable memory. -/
def arriveO (src dst : Src) (bs : List Body) (f : Otp → Dev → Otp × Dev) (o : Otp) (d : Dev) : Otp × Dev :=
  if arrived d src dst bs then f o (landed d src dst bs) else (o, d)

/-! ### Beluf frames and notifications (R429, R443) -/

/-- A Beluf frame of R429 from the device. -/
def belufFrame (op seq session index sub status flags : Nat) (data : List Byte) : List Byte :=
  beBytes 1 1 ++ beBytes 1 op ++ beBytes 2 seq ++ beBytes 2 session ++ beBytes 2 index ++ beBytes 1 sub ++
  beBytes 1 status ++ beBytes 2 data.length ++ beBytes 1 flags ++ [0, 0, 0] ++ data

/-- The Ethernet header of a frame of host port `p` to a MAC address: the tag of HOST_VLAN where that is not 0 (R369, R374). -/
def hostEther (d : Dev) (p : Nat) (mac : List Byte) : Ether :=
  let v := (d.ports.hosts.getD p {}).vlan
  { dst := mac, tag := if v = 0 then none else some v }
/-- Sends a notification to every open session (R443): kind, 7 reserved bytes, the beat count, the body. -/
def notify (kind index sub : Nat) (body : List Byte) (d : Dev) : Dev :=
  let data := beBytes 1 kind ++ List.replicate 7 0 ++ beBytes 8 d.beat.count ++ body
  { d with
    tx := (d.beluf.sessions.map fun s => Tx.host s.port s.ip s.udp (belufFrame 7 s.notSeq s.id index sub 0 0 data) (hostEther d s.port s.mac) d.ports.belufUdp).reverse ++ d.tx
    beluf := { d.beluf with sessions := d.beluf.sessions.map fun s => { s with notSeq := (s.notSeq + 1) % 0x10000 } } }

/-! ### Long operations (R450-R452) -/

/-- An operation slot. -/
def opOf (d : Dev) (k : Nat) : Op := NMap.get {} d.beluf.ops k
/-- Changes an operation slot. -/
def updOp (k : Nat) (f : Op → Op) (d : Dev) : Dev :=
  { d with beluf := { d.beluf with ops := NMap.upd {} d.beluf.ops k f } }
/-- The handle of a slot (R450). -/
def opHandle (d : Dev) (k : Nat) : Nat := (opOf d k).serial % 1024 * 64 + k
/-- OP_STATUS of a slot (R450). -/
def opStatus (d : Dev) (k : Nat) : List Byte :=
  let o := opOf d k
  leBytes 2 (opHandle d k) ++ leBytes 1 o.state ++ [0] ++ leBytes 2 o.index ++ leBytes 1 o.sub ++ [0] ++
  leBytes 4 o.progress ++ leBytes 2 o.result ++ [0, 0]
/-- A terminal state of an operation (R450). -/
def opTerminal (o : Op) : Bool := decide (3 ≤ o.state)
/-- Ends an operation in state 3 DONE, 4 CANCELLED or 5 FAILED and notifies it (R443, R451); one that has ended stays. -/
def opEnd (k st result : Nat) (d : Dev) : Dev :=
  if opTerminal (opOf d k) then d else
  let d := updOp k (fun o => { o with state := st, result := result, stamp := d.beluf.stamp + 1 })
    { d with beluf := { d.beluf with stamp := d.beluf.stamp + 1 } }
  notify 3 0x1120 k (opStatus d k) d
/-- Ends an operation where there is one. -/
def opEnd? (k : Option Nat) (st result : Nat) (d : Dev) : Dev :=
  match k with
  | some k => opEnd k st result d
  | none => d
/-- The slot that a new operation takes: a free one, else that of the oldest terminal operation, else none (R451). -/
def opSlot (d : Dev) : Option Nat :=
  match (List.range 64).find? fun k => !(opOf d k).used with
  | some k => some k
  | none =>
    let ts := (List.range 64).filter fun k => opTerminal (opOf d k)
    ts.foldl (fun best k => match best with
      | none => some k
      | some b => if (opOf d k).stamp < (opOf d b).stamp then some k else some b) none
/-- Starts an operation in slot `k` with state 0 QUEUED or 1 RUNNING; the serial advances where the slot is reused (R450). -/
def opStart (k index sub st : Nat) (d : Dev) : Dev :=
  updOp k (fun o => { o with serial := if o.stamp = 0 && !o.used then o.serial else (o.serial + 1) % 1024,
                             used := true, state := st, index := index, sub := sub, progress := 0, result := 0,
                             started := st == 1 }) d

/-! ### Device states (R445, R449) -/

/-- DEVICE_STATE (R457). -/
def DevSt.code : DevSt → Nat
  | .inert => 0
  | .loading => 1
  | .loaded => 2
  | .armed => 3
  | .running => 4
  | .held => 5
  | .faulted => 6

/-- A state transition: STATE_BEAT is set and KIND 1 is sent (R445). -/
def setState (st : DevSt) (d : Dev) : Dev :=
  let old := d.ctl.state
  notify 1 0x1100 0 (beBytes 1 old.code ++ beBytes 1 st.code ++ beBytes 1 d.ctl.heldCause)
    { d with ctl := { d.ctl with state := st, stateBeat := d.beat.count } }
/-- Entering HELD with its cause (R445). A NaN watch's request for the beat at hand is spent (R138). -/
def enterHeld (cause : Nat) (d : Dev) : Dev :=
  if d.ctl.state == .running then
    setState .held { d with ctl := { d.ctl with heldCause := cause, nanHold := d.ctl.nanHold.filter fun n => decide (d.beat.count < n.2 + 1) } }
  else d
/-- Entering FAULTED on a device-fatal record: every operation that is not terminal becomes FAILED with the record's code, and
the bulk streams are gone (R445, R449, R452). CASC_DONE is driven low from the next phase 0 on (R418). -/
def enterFaulted (code : Nat) (d : Dev) : Dev :=
  if d.ctl.state == .inert || d.ctl.state == .faulted then d
  else
    let d := setState .faulted d
    (List.range 64).foldl (fun d k => if (opOf d k).used then opEnd k 5 code d else d) { d with beluf := { d.beluf with streams := [] } }

/-! ### Fault records (R477-R480) -/

/-- The 32 bytes of a record (R477). -/
def FaultRec.bytes (r : FaultRec) : List Byte :=
  leBytes 2 r.code ++ leBytes 1 r.severity ++ leBytes 1 r.rflags ++ leBytes 2 r.lcell ++ leBytes 2 r.pcell ++
  leBytes 2 r.clause ++ [0, 0] ++ leBytes 4 r.off ++ leBytes 8 r.beat ++ leBytes 4 r.d0 ++ leBytes 4 r.d1

/-- Writes a record at the beat count into the log and acts on its severity (R478-R480). -/
def record (r : FaultRec) (d : Dev) : Dev :=
  let r := { r with beat := d.beat.count, d0 := r.d0 % 2 ^ 32, d1 := r.d1 % 2 ^ 32 }
  let h := d.health
  let d := { d with health := { h with
    ring := NMap.set none h.ring (h.total % 1024) (some r)
    total := h.total + 1
    last := if r.severity = 2 then some r else h.last } }
  let d := notify 2 0x6000 0 r.bytes d
  if r.severity = 1 then updClause r.clause (fun c => { c with held := true }) d
  else if r.severity = 2 then enterFaulted r.code d
  else d

/-- A record without a cell. -/
def recPlain (code sev clause d0 d1 : Nat) (d : Dev) : Dev :=
  record { code := code, severity := sev, clause := clause, d0 := d0, d1 := d1 } d
/-- A record of a logical cell, with or without an offset. -/
def recCell (code sev : Nat) (c : LCell) (clause : Nat) (off : Option Nat) (d0 d1 : Nat) (d : Dev) : Dev :=
  record { code := code, severity := sev, rflags := if off.isSome then 7 else 3, lcell := lcellCode c,
           pcell := physCode (phys d c), clause := clause, off := off.getD 0, d0 := d0, d1 := d1 } d
/-- A record of a physical cell; LCELL is valid where a logical cell is mapped. -/
def recPhys (code sev p clause d0 d1 : Nat) (d : Dev) : Dev :=
  match logicalOf d p with
  | some c => record { code := code, severity := sev, rflags := 3, lcell := lcellCode c, pcell := physCode p, clause := clause, d0 := d0, d1 := d1 } d
  | none => record { code := code, severity := sev, rflags := 2, pcell := physCode p, clause := clause, d0 := d0, d1 := d1 } d

/-! ### Signal names (R172, R292-R296) -/

/-- A signal word by frame and index. -/
def sigKey (f w : Nat) : Nat := f * 4096 + w
/-- A signal word. -/
def sigWord (d : Dev) (f w : Nat) : SigWord := NMap.get {} d.sig.words (sigKey f w)
/-- Changes a signal word. -/
def updSig (f w : Nat) (g : SigWord → SigWord) (d : Dev) : Dev :=
  { d with sig := { d.sig with words := NMap.upd {} d.sig.words (sigKey f w) g } }
/-- The layout of R293: [13:12] frame, [11:0] word. -/
def sigCode (f w : Nat) : Nat := f * 4096 + w
/-- An agent that is no cell sends a signal operation to the store of its word (R533); `why` is what its reply is for. -/
def sigIssue (op : SigOp) (r : SigReq) (why : SigFor) (d : Dev) : Dev :=
  sendFlit r.src (.store r.frame) (.sigOp op r) { d with sig := { d.sig with sent := d.sig.sent ++ [{ src := r.src, f := r.frame, why := why }] } }
/-- Clause-relative index `i` in a list of runs: the first run whose cumulative length exceeds it (R296). -/
def runAt : List (Nat × Nat × Nat) → Nat → Option (Nat × Nat)
  | [], _ => none
  | (f, w, n) :: rs, i => if i < n then some (f, w + i) else runAt rs (i - n)

end Sys2Proof.Machine
end

