-- ==== Sys2Proof/Machine/NumFmt.lean ====
section
/-! DEFINITION. Number formats and numeric behaviour (R115-R134): exact dyadic values, decoding, rounding, conversions with
their counters, MX quantisation and the combining addition of R284. -/
namespace Sys2Proof.Machine

/-- A floating-point value: the default NaN, an infinity, or (-1)^neg * m * 2^e with signed zeros (R116, R129). -/
inductive Num where
  | nan
  | inf (neg : Bool)
  | fin (neg : Bool) (m : Nat) (e : Int)
  deriving DecidableEq, Repr, Inhabited

/-- Layout of a format (R116): exponent and fraction bits, and its special encodings (R117): 0 IEEE, 1 E4M3 (NaN only),
2 none. -/
structure FFmt where
  eb : Nat
  fb : Nat
  special : Nat := 0
  deriving DecidableEq, Repr

/-- FP64. -/
def fp64 : FFmt := { eb := 11, fb := 52 }
/-- FP32. -/
def fp32 : FFmt := { eb := 8, fb := 23 }
/-- FP19. -/
def fp19 : FFmt := { eb := 8, fb := 10 }
/-- FP16. -/
def fp16 : FFmt := { eb := 5, fb := 10 }
/-- BF16. -/
def bf16 : FFmt := { eb := 8, fb := 7 }
/-- FP8 E5M2. -/
def e5m2 : FFmt := { eb := 5, fb := 2 }
/-- FP8 E4M3. -/
def e4m3 : FFmt := { eb := 4, fb := 3, special := 1 }
/-- FP6 E3M2. -/
def e3m2 : FFmt := { eb := 3, fb := 2, special := 2 }
/-- FP6 E2M3. -/
def e2m3 : FFmt := { eb := 2, fb := 3, special := 2 }
/-- FP4 E2M1. -/
def e2m1 : FFmt := { eb := 2, fb := 1, special := 2 }

/-- The exponent bias (R116). -/
def FFmt.bias (f : FFmt) : Int := ((2 ^ (f.eb - 1) : Nat) : Int) - 1
/-- The exponent of the smallest normal number. -/
def FFmt.emin (f : FFmt) : Int := 1 - f.bias
/-- The largest finite value m * 2^e (R117). -/
def FFmt.maxM (f : FFmt) : Nat := if f.special = 1 then 2 ^ (f.fb + 1) - 2 else 2 ^ (f.fb + 1) - 1
/-- Its exponent. -/
def FFmt.maxE (f : FFmt) : Int := ((2 ^ f.eb : Nat) : Int) - (if f.special = 0 then 2 else 1) - f.bias - f.fb
/-- The largest finite value with a sign. -/
def FFmt.maxNum (f : FFmt) (neg : Bool) : Num := .fin neg f.maxM f.maxE

/-- Zero. -/
def Num.zero : Num := .fin false 0 0
/-- m * 2^a compared with n * 2^b. -/
def dyLt (m : Nat) (a : Int) (n : Nat) (b : Int) : Bool :=
  if a ≤ b then decide (m < n * 2 ^ (b - a).toNat) else decide (m * 2 ^ (a - b).toNat < n)

/-- The value of an encoding (R116, R117). -/
def FFmt.decode (f : FFmt) (w : Nat) : Num :=
  let s := bit w (f.eb + f.fb)
  let e := w / 2 ^ f.fb % 2 ^ f.eb
  let fr := w % 2 ^ f.fb
  if f.special = 0 && decide (e = 2 ^ f.eb - 1) then (if fr = 0 then .inf s else .nan)
  else if f.special = 1 && decide (e = 2 ^ f.eb - 1) && decide (fr = 2 ^ f.fb - 1) then .nan
  else if e = 0 then .fin s fr (f.emin - f.fb)
  else .fin s (2 ^ f.fb + fr) ((e : Int) - f.bias - f.fb)
/-- A subnormal encoding. -/
def FFmt.isSub (f : FFmt) (w : Nat) : Bool := decide (w / 2 ^ f.fb % 2 ^ f.eb = 0) && decide (w % 2 ^ f.fb ≠ 0)

/-- The encoding of a value that the format holds; every NaN is the default NaN (R117). -/
def FFmt.encode (f : FFmt) : Num → Nat
  | .nan => if f.special = 1 then 2 ^ (f.eb + f.fb) - 1 else (2 ^ f.eb - 1) * 2 ^ f.fb + 2 ^ (f.fb - 1)
  | .inf s => (if s then 2 ^ (f.eb + f.fb) else 0) + (2 ^ f.eb - 1) * 2 ^ f.fb
  | .fin s m e =>
    let sg := if s then 2 ^ (f.eb + f.fb) else 0
    if m = 0 then sg
    else
      let top : Int := (Nat.log2 m : Int) + e
      if top < f.emin then sg + (if e ≥ f.emin - f.fb then m * 2 ^ (e - (f.emin - f.fb)).toNat else m / 2 ^ (f.emin - f.fb - e).toNat)
      else
        let fr := if Nat.log2 m ≤ f.fb then m * 2 ^ (f.fb - Nat.log2 m) else m / 2 ^ (Nat.log2 m - f.fb)
        sg + (top + f.bias).toNat * 2 ^ f.fb + (fr - 2 ^ f.fb)

/-- m / 2^s rounded in a mode of R132: 0 nearest even, 1 toward zero, 2 toward minus, 3 toward plus infinity. -/
def rndShift (mode : Nat) (neg : Bool) (m s : Nat) : Nat :=
  let q := m / 2 ^ s
  let r := m % 2 ^ s
  match mode with
  | 0 => if 2 * r > 2 ^ s || (decide (2 * r = 2 ^ s) && decide (q % 2 = 1)) then q + 1 else q
  | 2 => if neg && decide (r > 0) then q + 1 else q
  | 3 => if !neg && decide (r > 0) then q + 1 else q
  | _ => q

/-- A finite value on the format's grid: (n, q) for n * 2^q, exponent unbounded above. -/
def FFmt.grid (f : FFmt) (mode : Nat) (neg : Bool) (m : Nat) (e : Int) : Nat × Int :=
  if m = 0 then (0, 0)
  else
    let q := max ((Nat.log2 m : Int) + e - f.fb) (f.emin - f.fb)
    if e ≥ q then (m * 2 ^ (e - q).toNat, q) else (rndShift mode neg m (q - e).toNat, q)
/-- Whether n * 2^q lies beyond the largest finite value. -/
def FFmt.beyond (f : FFmt) (n : Nat) (q : Int) : Bool := dyLt f.maxM f.maxE n q

/-- An exact result rounded as arithmetic rounds: to nearest even, overflow to infinity (R128). -/
def FFmt.arith (f : FFmt) : Num → Num
  | .fin s m e => let g := f.grid 0 s m e; if f.beyond g.1 g.2 then .inf s else .fin s g.1 g.2
  | x => x

/-! ### Exact arithmetic (R128-R130) -/

/-- The negation. -/
def Num.neg : Num → Num
  | .nan => .nan
  | .inf s => .inf (!s)
  | .fin s m e => .fin (!s) m e
/-- The absolute value. -/
def Num.abs : Num → Num
  | .nan => .nan
  | .inf _ => .inf false
  | .fin _ m e => .fin false m e
/-- A signed integer times 2^e. -/
def Num.ofInt (z : Int) (e : Int) : Num := .fin (decide (z < 0)) z.natAbs e
/-- The signed significand. -/
def sigInt (s : Bool) (m : Nat) : Int := if s then -(m : Int) else m
/-- The exact sum. -/
def Num.add : Num → Num → Num
  | .nan, _ => .nan
  | _, .nan => .nan
  | .inf s, .inf t => if s = t then .inf s else .nan
  | .inf s, _ => .inf s
  | _, .inf t => .inf t
  | .fin s m a, .fin t n b =>
    let e := min a b
    let z := sigInt s m * 2 ^ (a - e).toNat + sigInt t n * 2 ^ (b - e).toNat
    if z = 0 then .fin (s && t) 0 0 else Num.ofInt z e
/-- The exact product. -/
def Num.mul : Num → Num → Num
  | .nan, _ => .nan
  | _, .nan => .nan
  | .inf s, .inf t => .inf (s != t)
  | .inf s, .fin t m _ => if m = 0 then .nan else .inf (s != t)
  | .fin s m _, .inf t => if m = 0 then .nan else .inf (s != t)
  | .fin s m a, .fin t n b => .fin (s != t) (m * n) (a + b)
/-- Zero of either sign. -/
def Num.isZero : Num → Bool
  | .fin _ m _ => m == 0
  | _ => false
/-- NaN. -/
def Num.isNan : Num → Bool
  | .nan => true
  | _ => false
/-- Finite. -/
def Num.isFin : Num → Bool
  | .fin .. => true
  | _ => false
/-- The sign. -/
def Num.sign : Num → Bool
  | .nan => false
  | .inf s => s
  | .fin s _ _ => s
/-- Less than, as ordered values; false where either is NaN, zeros equal. -/
def Num.lt : Num → Num → Bool
  | .nan, _ => false
  | _, .nan => false
  | .inf s, .inf t => s && !t
  | .inf s, _ => s
  | _, .inf t => !t
  | .fin s m a, .fin t n b =>
    let e := min a b
    decide (sigInt s m * 2 ^ (a - e).toNat < sigInt t n * 2 ^ (b - e).toNat)
/-- Equal as values. -/
def Num.eqv (x y : Num) : Bool := !x.isNan && !y.isNan && !x.lt y && !y.lt x
/-- The maximum of R130: -0 lies below +0. -/
def Num.max (x y : Num) : Num :=
  if x.isNan || y.isNan then .nan
  else if x.lt y then y else if y.lt x then x else if x.sign then y else x
/-- The minimum of R130. -/
def Num.min (x y : Num) : Num :=
  if x.isNan || y.isNan then .nan
  else if x.lt y then x else if y.lt x then y else if x.sign then x else y

/-! ### Counters (R139) -/

/-- The sum of two counts. -/
def Ctr.plus (a b : Ctr) : Ctr :=
  { satConv := a.satConv + b.satConv, satInt := a.satInt + b.satInt, flushIn := a.flushIn + b.flushIn,
    flushOut := a.flushOut + b.flushOut, nanInt := a.nanInt + b.nanInt }
/-- Saturating at 32 bits (R139). -/
def Ctr.sat (a : Ctr) : Ctr :=
  { satConv := min a.satConv 0xFFFFFFFF, satInt := min a.satInt 0xFFFFFFFF, flushIn := min a.flushIn 0xFFFFFFFF,
    flushOut := min a.flushOut 0xFFFFFFFF, nanInt := min a.nanInt 0xFFFFFFFF }
/-- One saturating conversion. -/
def ctrSatConv : Ctr := { satConv := 1 }
/-- One saturating integer operation. -/
def ctrSatInt : Ctr := { satInt := 1 }
/-- One flushed input. -/
def ctrFlushIn : Ctr := { flushIn := 1 }
/-- One flushed output. -/
def ctrFlushOut : Ctr := { flushOut := 1 }
/-- One NaN converted to an integer. -/
def ctrNanInt : Ctr := { nanInt := 1 }

/-! ### Conversions (R131, R132) -/

/-- Formats whose subnormals are flushed (R133). -/
def FFmt.flushes (f : FFmt) : Bool := decide (f.eb + f.fb < 8)

/-- A conversion into a floating-point format (R131). -/
def FFmt.convert (f : FFmt) (mode : Nat) (x : Num) : Num × Ctr :=
  match x with
  | .nan => (.nan, {})
  | .inf s => if f.special = 0 then (.inf s, {}) else (f.maxNum s, ctrSatConv)
  | .fin s m e =>
    let g := f.grid mode s m e
    if f.beyond g.1 g.2 then (f.maxNum s, ctrSatConv)
    else if f.flushes && dyLt g.1 g.2 1 f.emin then (.fin s 0 0, if m = 0 then {} else ctrFlushOut)
    else (.fin s g.1 g.2, {})

/-- A finite value rounded to an integer in a mode. -/
def roundInt (mode : Nat) (s : Bool) (m : Nat) (e : Int) : Int :=
  sigInt s (if e ≥ 0 then m * 2 ^ e.toNat else rndShift mode s m (-e).toNat)
/-- The limits of an n-bit two's complement type. -/
def clampInt (n : Nat) (z : Int) : Int × Bool :=
  let hi : Int := ((2 ^ (n - 1) : Nat) : Int) - 1
  let lo : Int := -((2 ^ (n - 1) : Nat) : Int)
  if z > hi then (hi, true) else if z < lo then (lo, true) else (z, false)
/-- A conversion into an n-bit integer (R131). -/
def convertInt (n mode : Nat) (x : Num) : Int × Ctr :=
  match x with
  | .nan => (0, ctrNanInt)
  | .inf s => ((clampInt n (if s then -((2 ^ n : Nat) : Int) else ((2 ^ n : Nat) : Int))).1, ctrSatConv)
  | .fin s m e => let r := clampInt n (roundInt mode s m e); (r.1, if r.2 then ctrSatConv else {})
/-- A conversion into E8M0 (R131): the scale byte. -/
def convertE8M0 (mode : Nat) (x : Num) : Nat × Ctr :=
  match x with
  | .fin false m e =>
    if m = 0 then (0xFF, {})
    else
      -- on the powers of two: between 2^k and 2^(k+1) the tie at 1.5 * 2^k goes to the even encoding
      let k : Int := (Nat.log2 m : Int) + e
      let low := 2 ^ Nat.log2 m
      let up : Bool := if m = low then false else match mode with
        | 0 => if 2 * m > 3 * low then true else if 2 * m < 3 * low then false else decide ((k + 127) % 2 ≠ 0)
        | 3 => true
        | _ => false
      let k := if up then k + 1 else k
      if k > 127 then (0xFE, ctrSatConv) else if k < -127 then (0x00, ctrSatConv) else ((k + 127).toNat, {})
  | _ => (0xFF, {})
/-- The value of a scale byte (R119). -/
def scaleVal (s : Nat) : Num := if s = 0xFF then .nan else .fin false 1 ((s : Int) - 127)

/-! ### Element formats (R115, R120, R121) -/

/-- A format code that R115 lists, other than none. -/
def fmtKnown (k : Nat) : Bool := decide (1 ≤ k) && decide (k ≤ 0x13)
/-- Bits of one element in memory. -/
def fmtBits (k : Nat) : Nat :=
  match k with
  | 0x01 => 64
  | 0x02 => 32
  | 0x03 => 32
  | 0x04 => 32
  | 0x05 => 16
  | 0x06 => 16
  | 0x0D => 4
  | 0x0F => 16
  | 0x10 => 32
  | 0x11 => 4
  | 0x12 => 32
  | _ => 8
/-- An MX format. -/
def fmtMx (k : Nat) : Bool := decide (9 ≤ k) && decide (k ≤ 0x0D)
/-- An integer format. -/
def fmtInt (k : Nat) : Bool := decide (0x0E ≤ k) && decide (k ≤ 0x11)
/-- The floating-point layout of a code's elements; the codes that R118 narrows or splits read as FP32. -/
def fmtF (k : Nat) : FFmt :=
  match k with
  | 0x01 => fp64
  | 0x05 => fp16
  | 0x06 => bf16
  | 0x07 => e4m3
  | 0x08 => e5m2
  | 0x09 => e4m3
  | 0x0A => e5m2
  | 0x0B => e2m3
  | 0x0C => e3m2
  | 0x0D => e2m1
  | _ => fp32
/-- A floating-point element, subnormals of FP8 and MX elements read as zero (R133). -/
def decodeF (k w : Nat) : Num × Ctr :=
  let f := fmtF k
  let w := w % 2 ^ (1 + f.eb + f.fb)
  if f.flushes && f.isSub w then (.fin (bit w (f.eb + f.fb)) 0 0, ctrFlushIn) else (f.decode w, {})
/-- An element of an MX block with scale `s` (R121). A subnormal encoding counts in FLUSH_IN though the scale 0xFF makes the
element a NaN (DESIGN CHOICE, notes/assumptions/82). -/
def decodeMx (k w s : Nat) : Num × Ctr :=
  let r := decodeF k w
  (if s = 0xFF then .nan else r.1.mul (scaleVal s), r.2)
/-- An integer element. -/
def decodeI (k w : Nat) : Int := sgn (fmtBits k) w

/-- A narrowing of an FP32 operand to FP19 (R124): code 3 truncates, code 4 rounds to nearest even. -/
def narrow19 (k : Nat) (x : Num) : Num × Ctr :=
  match x with
  | .fin s m e =>
    let g := fp19.grid (if k = 3 then 1 else 0) s m e
    if fp19.beyond g.1 g.2 then (fp19.maxNum s, ctrSatConv) else (.fin s g.1 g.2, {})
  | x => (x, {})

/-- The paired split of an FP32 operand into two BF16 values (R125). -/
def splitPair (x : Num) : Num × Num × Ctr :=
  match x with
  | .fin _ _ _ =>
    let h := bf16.convert 0 x
    (h.1, (bf16.convert 0 (x.add h.1.neg)).1, h.2)
  | x => (x, Num.zero, {})

/-- A value of an FP64 stage on its way into an MX block (R122): FP32 under R131, to nearest even. -/
def toFp32 (x : Num) : Num × Ctr := fp32.convert 0 x

/-- MX quantisation of a block (R122): the scale byte and the element encodings; `none` stands for an element out of
extent. -/
def mxQuantise (k : Nat) (vs : List (Option Num)) : Nat × List Nat × Ctr :=
  let f := fmtF k
  let fins := vs.filterMap id
  let special := fins.any fun x => !x.isFin
  if special then (0xFF, vs.map fun _ => 0, {})
  else
    let amax := fins.foldl (fun a x => if a.lt x.abs then x.abs else a) Num.zero
    let emax : Int := (Nat.log2 f.maxM : Int) + f.maxE
    let e : Int := match amax with
      | .fin _ m x => if m = 0 then -127 else max (-127) ((Nat.log2 m : Int) + x - emax)
      | _ => -127
    let ps := vs.map fun v => match v with
      | none => (0, ({} : Ctr))
      | some x =>
        let r := f.convert 0 (x.mul (.fin false 1 (-e)))
        (f.encode r.1, r.2)
    ((e + 127).toNat, ps.map Prod.fst, ps.foldl (fun c p => c.plus p.2) {})

/-! ### Combining queues (R284) -/

/-- Adds the contributions of a slot in declared order: the result line and what it counts. -/
def combineLines (cfmt : Nat) (parts : List (List Byte)) : List Byte × Ctr :=
  match parts with
  | [] => ([], {})
  | first :: rest =>
    if cfmt = 0 then
      let r := (List.range 16).map fun i =>
        rest.foldl (fun (a : Int × Nat) p =>
          let s := clampInt 32 (a.1 + fldS p (4 * i) 4)
          (s.1, a.2 + if s.2 then 1 else 0)) (fldS first (4 * i) 4, 0)
      (r.flatMap fun x => leBytes 4 (wrapN 32 x.1), { satInt := r.foldl (fun n x => n + x.2) 0 })
    else
      let f := if cfmt = 1 then fp32 else bf16
      let w := if cfmt = 1 then 4 else 2
      let r := (List.range (64 / w)).map fun i =>
        -- every contribution is widened exactly, added in FP32 and rounded; BF16 narrows under R131
        let acc := rest.foldl (fun a p => fp32.arith (a.add (f.decode (fld p (w * i) w)))) (f.decode (fld first (w * i) w))
        if cfmt = 1 then (acc, ({} : Ctr)) else bf16.convert 0 acc
      (r.flatMap fun x => leBytes w (f.encode x.1), r.foldl (fun c x => c.plus x.2) {})

end Sys2Proof.Machine
end

