-- ==== Sys2Proof/Machine/Transc.lean ====
section
/-! DEFINITION. Transcendental stages (R157, R214). RECIP and RSQRT are rounded from the exact value. The others are
computed in fixed point with 640 fraction bits and an error below 2^128 units, and truncated as R214 says; no operand is
known whose exact result lies so near a point of the grid that the error could move it (notes/assumptions/10). -/
namespace Sys2Proof.Machine

/-- Fraction bits of the fixed-point values. -/
def fxP : Nat := 640

/-- The integer square root, by bits from `k` down. -/
def isqrtFrom (n : Nat) : Nat → Nat → Nat
  | 0, r => r
  | k + 1, r => let s := r + 2 ^ k; isqrtFrom n k (if s * s ≤ n then s else r)
/-- The integer square root. -/
def isqrt (n : Nat) : Nat := isqrtFrom n (Nat.log2 n / 2 + 1) 0

/-- 1/x rounded to nearest even (R157, R214). -/
def recipF (f : FFmt) (x : Num) : Num :=
  match x with
  | .nan => .nan
  | .inf s => .fin s 0 0
  | .fin s m e =>
    if m = 0 then .inf s
    else
      let k := Nat.log2 m + 130
      f.arith (.fin s (2 * (2 ^ k / m) + (if 2 ^ k % m = 0 then 0 else 1)) (-(k : Int) - 1 - e))
/-- 1/sqrt x rounded to nearest even (R157, R214). -/
def rsqrtF (f : FFmt) (x : Num) : Num :=
  match x with
  | .nan => .nan
  | .inf s => if s then .nan else .fin false 0 0
  | .fin s m e =>
    if m = 0 then .inf s
    else if s then .nan
    else
      let odd := e % 2 ≠ 0
      let m := if odd then 2 * m else m
      let e := if odd then e - 1 else e
      let k := Nat.log2 m + 130
      let r := isqrt (2 ^ (2 * k) / m)
      f.arith (.fin false (2 * r + (if r * r * m = 2 ^ (2 * k) then 0 else 1)) (-(k : Int) - 1 - e / 2))

/-- t, next 0 t, next 1 of that, ... summed over `n` terms. -/
def sumSeries (next : Nat → Int → Int) : Nat → Nat → Int → Int
  | 0, _, _ => 0
  | n + 1, k, t => t + sumSeries next n (k + 1) (next k t)
/-- The sum of t/1, t'/3, t''/5, ... over `n` terms, each t' a step from t. -/
def sumOdd (next : Nat → Int → Int) : Nat → Nat → Int → Int
  | 0, _, _ => 0
  | n + 1, k, t => t / (2 * k + 1 : Nat) + sumOdd next n (k + 1) (next k t)
/-- The product of fixed-point values. -/
def fxMul (a b : Int) : Int := a * b / 2 ^ fxP
/-- ln 2 = 2 atanh(1/3). -/
def fxLn2 : Int := 2 * sumOdd (fun _ t => t / 9) 230 0 (2 ^ fxP / 3)
/-- atan(1/n) with `p` fraction bits. -/
def atanInv (p n : Nat) : Int := sumOdd (fun _ t => -t / (n * n : Nat)) (p / 4) 0 ((2 ^ p / n : Nat) : Int)
/-- Pi with `p` fraction bits (Machin). -/
def fxPi (p : Nat) : Int := 16 * atanInv p 5 - 4 * atanInv p 239
/-- exp t for 0 <= t < 1. -/
def fxExp (t : Int) : Int := sumSeries (fun k u => fxMul u t / (k + 1 : Nat)) 180 0 (2 ^ fxP)
/-- 2^y for a fixed-point y at or above 0. -/
def fxExp2 (y : Int) : Int := fxExp (fxMul (y % 2 ^ fxP) fxLn2) * 2 ^ (y / 2 ^ fxP).toNat
/-- sin r for 0 <= r < 2. -/
def fxSin (r : Int) : Int := sumSeries (fun k u => -(fxMul (fxMul u r) r) / ((2 * k + 2) * (2 * k + 3) : Nat)) 120 0 r
/-- cos r for 0 <= r < 2. -/
def fxCos (r : Int) : Int := sumSeries (fun k u => -(fxMul (fxMul u r) r) / ((2 * k + 1) * (2 * k + 2) : Nat)) 120 0 (2 ^ fxP)

/-- |f| truncated toward zero onto the grid of R214, as (w, q) for w * 2^q. -/
def gridCut (v : Int) : Nat × Int :=
  let n := v.toNat
  let e : Int := (Nat.log2 n : Int) - fxP
  let q := max (e - 31) (-157)
  (n / 2 ^ (q + fxP).toNat, q)
/-- The result of R214 from a fixed-point |f(x)|. -/
def settle (neg : Bool) (v : Int) : Num := let w := gridCut v; fp32.arith (.fin neg w.1 w.2)

/-- A finite |x| = m * 2^e in fixed point; exact, since an FP32 value is a multiple of 2^-149. -/
def fxOf (m : Nat) (e : Int) : Int := ((m * 2 ^ (e + fxP).toNat : Nat) : Int)
/-- Whether m * 2^e is at least 2^k. -/
def atLeast (m : Nat) (e : Int) (k : Int) : Bool := decide (m ≠ 0) && decide (k ≤ (Nat.log2 m : Int) + e)

/-- EXP2. -/
def exp2F (x : Num) : Num :=
  match x with
  | .nan => .nan
  | .inf s => if s then .fin false 0 0 else .inf false
  | .fin s m e =>
    if m = 0 then .fin false 1 0
    else if !s && atLeast m e 7 then .inf false
    else if s && atLeast m e 8 then .fin false 0 0
    else
      let v := fxOf m e
      let z := if s then -v else v
      if z % 2 ^ fxP = 0 then fp32.arith (.fin false 1 (z / 2 ^ fxP))
      else
        -- 2^z = 2^f * 2^n; the scaled result keeps its leading bits for n down to -256
        let n := z / 2 ^ fxP
        let r := fxExp (fxMul (z % 2 ^ fxP) fxLn2)
        if n ≥ 0 then settle false (r * 2 ^ n.toNat)
        else settle false (r / 2 ^ (-n).toNat)
/-- LOG2. -/
def log2F (x : Num) : Num :=
  match x with
  | .nan => .nan
  | .inf s => if s then .nan else .inf false
  | .fin s m e =>
    if m = 0 then .inf true
    else if s then .nan
    else
      let k := Nat.log2 m
      let n : Int := (k : Int) + e
      if m = 2 ^ k then fp32.arith (Num.ofInt n 0)
      else
        let z : Int := (((m - 2 ^ k) * 2 ^ fxP / (m + 2 ^ k) : Nat) : Int)
        let ln := 2 * sumOdd (fun _ t => fxMul (fxMul t z) z) 230 0 z
        let v := n * 2 ^ fxP + ln * 2 ^ fxP / fxLn2
        settle (decide (v < 0)) (v.natAbs : Int)
/-- The quarter turns below |x| and the remainder in fixed point, with pi to 192 further bits (R214). -/
def quarter (m : Nat) (e : Int) : Nat × Int :=
  let p := fxP + 192
  let hp := (fxPi p).toNat / 2
  let v := m * 2 ^ (e + p).toNat
  (v / hp, ((v % hp / 2 ^ 192 : Nat) : Int))
/-- SIN. -/
def sinF (x : Num) : Num :=
  match x with
  | .nan => .nan
  | .inf _ => .nan
  | .fin s m e =>
    if m = 0 then .fin s 0 0
    else
      let q := quarter m e
      let v := if q.1 % 2 = 0 then fxSin q.2 else fxCos q.2
      settle (s != decide (2 ≤ q.1 % 4)) v
/-- COS. -/
def cosF (x : Num) : Num :=
  match x with
  | .nan => .nan
  | .inf _ => .nan
  | .fin _ m e =>
    if m = 0 then .fin false 1 0
    else
      let q := quarter m e
      let v := if q.1 % 2 = 0 then fxCos q.2 else fxSin q.2
      settle (decide (q.1 % 4 = 1) || decide (q.1 % 4 = 2)) v
/-- TANH: beyond 64 the truncated value rounds to 1. -/
def tanhF (x : Num) : Num :=
  match x with
  | .nan => .nan
  | .inf s => .fin s 1 0
  | .fin s m e =>
    if m = 0 then .fin s 0 0
    else if atLeast m e 6 then .fin s 1 0
    else
      let u := fxExp2 (2 * fxOf m e * 2 ^ fxP / fxLn2)
      settle s ((u - 2 ^ fxP) * 2 ^ fxP / (u + 2 ^ fxP))
/-- ERF: beyond 8 the truncated value rounds to 1. -/
def erfF (x : Num) : Num :=
  match x with
  | .nan => .nan
  | .inf s => .fin s 1 0
  | .fin s m e =>
    if m = 0 then .fin s 0 0
    else if atLeast m e 3 then .fin s 1 0
    else
      let v := fxOf m e
      let t := sumOdd (fun k u => -(fxMul (fxMul u v) v) / (k + 1 : Nat)) 420 0 v
      let rootPi : Int := (isqrt ((fxPi fxP).toNat * 2 ^ fxP) : Nat)
      settle s (2 * t * 2 ^ fxP / rootPi)

/-- The transcendental stage of an operation code 0x0E-0x13 (R212). -/
def transcF (op : Nat) (x : Num) : Num :=
  match op with
  | 0x0E => exp2F x
  | 0x0F => log2F x
  | 0x10 => sinF x
  | 0x11 => cosF x
  | 0x12 => tanhF x
  | _ => erfF x

end Sys2Proof.Machine
end

