-- ==== Sys2Proof/Machine/Operands.lean ====
section
/-! DEFINITION. Operand forms: Conjunction registers and names, the sections of a slot, queue words, and the fields of
descriptors. -/
namespace Sys2Proof.Machine

/-! ### Conjunction registers (R168, R218) -/

/-- Register `r`: x0 reads as zero (R218). -/
def Conj.reg (x : Conj) (r : Reg) : W64 := if r = 0 then 0 else NMap.get 0 x.regs r.toNat
/-- Writes register `r`: a write to x0 is discarded (R218). -/
def Conj.setReg (x : Conj) (r : Reg) (v : W64) : Conj := if r = 0 then x else { x with regs := NMap.set 0 x.regs r.toNat v }
/-- A register with a result pending (R218). -/
def Conj.isPending (x : Conj) (r : Reg) : Bool := decide (r ≠ 0) && x.sigs.any fun o => decide (o.reg = some r)

/-- Instructions of the ACTIVE slot's program (R219): LEN_A of its cell record in words. -/
def progLen (x : Cell) : Nat := (activeData x).secA.length / 4
/-- Instruction word `i` of the ACTIVE slot, little-endian. -/
def progWord (x : Cell) (i : Nat) : W32 := BitVec.ofNat 32 (fld (activeData x).secA (4 * i) 4)

/-- A data-store address that a copy of 64 B may use (R232). -/
def lineAddrOk (a : W64) : Bool := decide (a.toNat < 0x10000) && decide (a.toNat % 64 = 0)

/-- The fields of a name word (R230). -/
def nameRow (n : W64) : Nat := bits n.toNat 17 12
/-- COL of a name word. -/
def nameCol (n : W64) : Nat := bits n.toNat 11 6
/-- QUEUE of a name word. -/
def nameQ (n : W64) : Nat := bits n.toNat 5 0
/-- Whether a name lies in the clause's region (R230). -/
def nameOk (cl : Clause) (n : W64) : Bool := decide (nameRow n < cl.rows) && decide (nameCol n < cl.cols)
/-- The logical cell of a name word (R172). -/
def nameCell (cl : Clause) (n : W64) : LCell := cl.absolute (nameRow n) (nameCol n)

/-! ### Queue configuration (R263-R266) -/

/-- The queue word of queue `q` (R264). -/
def qword (s : SlotData) (q : Nat) : Nat := fld s.qcfg (4 * q) 4
/-- DEPTH. -/
def qDepth (s : SlotData) (q : Nat) : Nat := bits (qword s q) 31 21
/-- PORT. -/
def qPort (s : SlotData) (q : Nat) : Nat := bits (qword s q) 20 17
/-- COMB. -/
def qComb (s : SlotData) (q : Nat) : Bool := bit (qword s q) 16
/-- CFMT. -/
def qCfmt (s : SlotData) (q : Nat) : Nat := bits (qword s q) 15 14
/-- Declared producers: NPROD + 1. -/
def qProds (s : SlotData) (q : Nat) : Nat := bits (qword s q) 13 10 + 1
/-- GROUPED. -/
def qGrouped (s : SlotData) (q : Nat) : Bool := bit (qword s q) 9
/-- GROUP. -/
def qGroup (s : SlotData) (q : Nat) : Nat := bits (qword s q) 8 6
/-- PRIORITY of a select group (R263). -/
def qPriority (s : SlotData) (g : Nat) : Bool := bit (fld s.qcfg 0x100 1) g
/-- STRICT_OUT. -/
def strictOut (s : SlotData) : Bool := bit (fld s.qcfg 0x101 1) 0
/-- HOLD_ON_STALL. -/
def holdOnStall (s : SlotData) : Bool := bit (fld s.qcfg 0x101 1) 1
/-- WATCHDOG in beats. -/
def watchdog (s : SlotData) : Nat := fld s.qcfg 0x102 2
/-- The index of combining queue `q` among the combining queues, in ascending queue number (R263). -/
def combIx (s : SlotData) (q : Nat) : Nat := ((List.range q).filter fun j => qComb s j).length
/-- The declared producers of queue `q` as logical source IDs: clause-relative cells go through the region's origin (R270). -/
def producers (cl : Clause) (s : SlotData) (q : Nat) : List Nat :=
  (List.range (qProds s q)).map fun i =>
    let w := fld s.qcfg (0x110 + 32 * combIx s q + 2 * i) 2
    if w / 0x1000 = 0 then (bits w 11 6 + cl.row0) * 64 + (bits w 5 0 + cl.col0) else w
/-- A queue that may be OPEN: it has a port, and DEPTH is not 0 or the port is M (R266, R275). -/
def qUsed (s : SlotData) (q : Nat) : Bool := decide (qPort s q ≠ 0) && (decide (qDepth s q ≠ 0) || decide (qPort s q = 11))
/-- The members of the select group of queue `q`, in ascending number (R280). -/
def qMembers (s : SlotData) (q : Nat) : List Nat :=
  if qGrouped s q then (List.range 64).filter fun j => qGrouped s j && qGroup s j == qGroup s q else [q]

/-! ### Queues of a cell -/

/-- Queue `q` of a cell. -/
def queueOf (x : Cell) (q : Nat) : Queue := NMap.get {} x.queues q
/-- Changes queue `q`. -/
def updQueue (q : Nat) (f : Queue → Queue) (x : Cell) : Cell := { x with queues := NMap.upd {} x.queues q f }
/-- The contributions of a source that a combining queue holds (R283). -/
def contribs (k : Queue) (code : Nat) : List QEntry := k.entries.filter fun e => srcCode e.src == code
/-- The contribution of a source to a slot of a combining queue (R283). -/
def contribTo (k : Queue) (slot code : Nat) : Option QEntry := (contribs k code).find? fun e => e.slot == slot
/-- A combining queue as it counts from nothing: at activation, at QRESET, and at a reload that drops its entries (R283, R286;
notes/assumptions/88). -/
def Queue.restart (k : Queue) : Queue := { k with entries := [], ready := [], counts := [], slot := 0 }
/-- A combining queue with a message accepted: the k-th of its producer is its contribution to slot k (R283). -/
def Queue.contribute (k : Queue) (src : Src) (pay : List Byte) : Queue :=
  { k with entries := k.entries ++ [{ src := src, pay := pay, slot := NMap.get 0 k.counts (srcCode src) }]
           counts := NMap.upd 0 k.counts (srcCode src) (· + 1) }
/-- Usable entries of the pool (R260). -/
def usableEntries (x : Cell) : Nat := if x.badEntries.length ≤ 64 then 960 else 1024 - x.badEntries.length

/-! ### Descriptor stores (R191, R321) -/

/-- A cell-relative coordinate pair packed as detail word 0 of R173. -/
def relCode (row col : Nat) : Nat := row * 256 + col

end Sys2Proof.Machine
end

