-- ==== Sys2Proof/Machine/ConjFetch.lean ====
section
/-! DEFINITION. The encodings of Conjunction instructions (R217-R236): from an instruction word of cell `c` to the command
that runs it, and when a core issues an instruction. -/
namespace Sys2Proof.Machine

/-- Bits [25:21]. -/
def wA (w : W32) : Reg := w.extractLsb' 21 5
/-- Bits [20:16]. -/
def wB (w : W32) : Reg := w.extractLsb' 16 5
/-- Bits [15:11]. -/
def wD (w : W32) : Reg := w.extractLsb' 11 5
/-- Bits [10:6]. -/
def wC (w : W32) : Reg := w.extractLsb' 6 5
/-- FN, bits [5:0]. -/
def wF (w : W32) : Nat := (w.extractLsb' 0 6).toNat
/-- IMM or OFF of forms K, S and J. -/
def wI (w : W32) : BitVec 16 := w.extractLsb' 0 16
/-- IMM of form W. -/
def wW (w : W32) : BitVec 21 := w.extractLsb' 0 21
/-- IDX of form L. -/
def wX (w : W32) : BitVec 10 := w.extractLsb' 16 10
/-- P1 of form L. -/
def wP (w : W32) : Reg := w.extractLsb' 1 5

/-- Major opcode 0x00: the register ALU group (R220). -/
def decodeAlu (c : LCell) (w : W32) : Instr :=
  match wF w with
  | 0x00 => .add c (wA w) (wB w) (wD w)
  | 0x01 => .sub c (wA w) (wB w) (wD w)
  | 0x02 => .and c (wA w) (wB w) (wD w)
  | 0x03 => .ior c (wA w) (wB w) (wD w)
  | 0x04 => .xor c (wA w) (wB w) (wD w)
  | 0x05 => .lsl c (wA w) (wB w) (wD w)
  | 0x06 => .lsr c (wA w) (wB w) (wD w)
  | 0x07 => .asr c (wA w) (wB w) (wD w)
  | 0x08 => .lts c (wA w) (wB w) (wD w)
  | 0x09 => .ltu c (wA w) (wB w) (wD w)
  | 0x0A => .mins c (wA w) (wB w) (wD w)
  | 0x0B => .maxs c (wA w) (wB w) (wD w)
  | 0x0C => .minu c (wA w) (wB w) (wD w)
  | 0x0D => .maxu c (wA w) (wB w) (wD w)
  | 0x10 => .mullo c (wA w) (wB w) (wD w)
  | 0x11 => .mulhs c (wA w) (wB w) (wD w)
  | 0x12 => .mulhu c (wA w) (wB w) (wD w)
  | 0x18 => .quos c (wA w) (wB w) (wD w)
  | 0x19 => .quou c (wA w) (wB w) (wD w)
  | 0x1A => .rmds c (wA w) (wB w) (wD w)
  | 0x1B => .rmdu c (wA w) (wB w) (wD w)
  | _ => .undefinedEncoding c w

/-- SWAIT: FN[1:0] is the condition, 3 undefined (R228). -/
def decodeSwait (c : LCell) (w : W32) : Instr :=
  match wF w % 4 with
  | 0 => .swait c (wA w) (wB w) (wC w) (wD w) .ge
  | 1 => .swait c (wA w) (wB w) (wC w) (wD w) .eq
  | 2 => .swait c (wA w) (wB w) (wC w) (wD w) .any
  | _ => .undefinedEncoding c w

/-- Major opcode 0x3F: the system group (R236). -/
def decodeSys (c : LCell) (w : W32) : Instr :=
  match wF w % 8 with
  | 0 => .nop c
  | 1 => .cend c
  | 2 => .sync c
  | 3 => .faultNotice c (wA w) (wB w)
  | 4 => .faultFatal c (wA w) (wB w)
  | _ => .undefinedEncoding c w

/-- The command of an instruction word (R217-R236); a major opcode or FN value not listed is UNDEFINED_ENCODING (R219). -/
def conjDecode (c : LCell) (w : W32) : Instr :=
  match (w.extractLsb' 26 6).toNat with
  | 0x00 => decodeAlu c w
  | 0x04 => .addk c (wA w) (wB w) (wI w)
  | 0x05 => .andk c (wA w) (wB w) (wI w)
  | 0x06 => .iork c (wA w) (wB w) (wI w)
  | 0x07 => .xork c (wA w) (wB w) (wI w)
  | 0x08 => .ltsk c (wA w) (wB w) (wI w)
  | 0x09 => .ltuk c (wA w) (wB w) (wI w)
  | 0x0A => .lslk c (wA w) (wB w) (wI w)
  | 0x0B => .lsrk c (wA w) (wB w) (wI w)
  | 0x0C => .asrk c (wA w) (wB w) (wI w)
  | 0x0E => .kld c (wA w) (wW w)
  | 0x0F => .ksh c (wA w) (wB w) (wI w)
  | 0x10 => .ld8s c (wA w) (wB w) (wI w)
  | 0x11 => .ld8u c (wA w) (wB w) (wI w)
  | 0x12 => .ld16s c (wA w) (wB w) (wI w)
  | 0x13 => .ld16u c (wA w) (wB w) (wI w)
  | 0x14 => .ld32s c (wA w) (wB w) (wI w)
  | 0x15 => .ld32u c (wA w) (wB w) (wI w)
  | 0x16 => .ld64 c (wA w) (wB w) (wI w)
  | 0x18 => .st8 c (wA w) (wB w) (wI w)
  | 0x19 => .st16 c (wA w) (wB w) (wI w)
  | 0x1A => .st32 c (wA w) (wB w) (wI w)
  | 0x1B => .st64 c (wA w) (wB w) (wI w)
  | 0x20 => .jeq c (wA w) (wB w) (wI w)
  | 0x21 => .jne c (wA w) (wB w) (wI w)
  | 0x22 => .jlts c (wA w) (wB w) (wI w)
  | 0x23 => .jges c (wA w) (wB w) (wI w)
  | 0x24 => .jltu c (wA w) (wB w) (wI w)
  | 0x25 => .jgeu c (wA w) (wB w) (wI w)
  | 0x26 => .call c (wA w) (wW w)
  | 0x27 => .jmpr c (wA w) (wB w) (wI w)
  | 0x28 => .cstate c (wB w) (wI w)
  | 0x29 => if wF w % 2 == 0 then .beat c (wD w) else .phaseRead c (wD w)
  | 0x2A => .bwait c (wA w) (wC w) (wD w)
  | 0x2B => .jdnz c (wA w) (wI w)
  | 0x30 => .sread c (wA w) (wD w)
  | 0x31 => .sset c (wA w) (wB w)
  | 0x32 => .sadd c (wA w) (wB w) (wD w)
  | 0x33 => decodeSwait c w
  | 0x34 => .launch c (wX w) (wD w) (wC w) (wP w) (w.getLsbD 0)
  | 0x35 => .move c (wX w) (wC w) (wP w)
  | 0x38 => .qopen c (wA w)
  | 0x39 => .qclose c (wA w)
  | 0x3A => .qreset c (wA w)
  | 0x3B => .qsend c (wA w) (wB w) (w.getLsbD 0)
  | 0x3C => .qrecv c (wA w) (wB w) (wC w) (wD w) .good
  | 0x3D => .mbpop c (wA w) (wC w) (wD w) (w.extractLsb' 0 5)
  | 0x3E => .mbtake c (wA w) (wB w) (wC w) (wD w) (w.extractLsb' 0 5)
  | 0x3F => decodeSys c w
  | _ => .undefinedEncoding c w

/-- A core that runs: the device is RUNNING, the cell is a Conjunction cell with an ACTIVE slot, neither fenced nor
stopped at a hold, and its core fetches (R168, R188, R446). -/
def coreRuns (d : Dev) (c : LCell) : Bool :=
  let x := cellAt d c
  cellOk c && kindAt c.row c.col == .conj && d.ctl.state == .running && !x.stopped && x.fence == .none &&
  (activeSlot x).isSome && x.conj.st == .running

/-- The instruction that the core's program counter names (R174): none at or beyond the program length. -/
def fetched (d : Dev) (c : LCell) : Option Instr :=
  let x := cellAt d c
  if x.conj.pc < progLen x then some (conjDecode c (progWord x x.conj.pc)) else none

/-- Instruction `i` issues: its core runs, its program counter names it, and no register that it reads or writes has a
result pending (R218). -/
def issues (d : Dev) (c : LCell) (i : Instr) (regs : List Reg) : Bool :=
  coreRuns d c && decide (fetched d c = some i) && regs.all fun r => !(cellAt d c).conj.isPending r

/-- An instruction that its core issues has its effect; any other changes nothing (notes/assumptions/1). -/
def conjDo (c : LCell) (i : Instr) (regs : List Reg) (f : Dev → Dev) (d : Dev) : Dev :=
  if issues d c i regs then f d else d

/-- A clause-fatal record of the instruction at the program counter: the core stops there, and after a RELEASE it goes on
at the next instruction (R480). -/
def conjFault (c : LCell) (code d0 d1 : Nat) (d : Dev) : Dev :=
  let x := cellAt d c
  updCell c (fun y => { y with stopped := true, conj := { y.conj with pc := x.conj.pc + 1, stall := none } })
    (recCell code 1 c (activeId x) (some x.conj.pc) d0 d1 d)

/-- Control passes to `t`, or beyond the program length the fetch records ILLEGAL_INSTRUCTION (R225). -/
def conjGo (c : LCell) (t : Nat) (d : Dev) : Dev :=
  if t < progLen (cellAt d c) then updConj c (fun k => { k with pc := t, stall := none }) d
  else conjFault c 0x0106 0xFFFFFFFF t d

/-- Control passes to the next instruction. -/
def conjNext (c : LCell) (d : Dev) : Dev := conjGo c ((cellAt d c).conj.pc + 1) d

/-- The value of a register of cell `c`. -/
def regAt (d : Dev) (c : LCell) (r : Reg) : W64 := (cellAt d c).conj.reg r
/-- Writes a register of cell `c`. -/
def setRegAt (c : LCell) (r : Reg) (v : W64) (d : Dev) : Dev := updConj c (fun k => k.setReg r v) d

end Sys2Proof.Machine
end

