-- ==== Sys2Proof/Machine/Flags.lean ====
section
/-! DEFINITION. The conditions and monitors that the meanings share: hold, stall, NaN watch and counters (R135-R140, R166,
R188, R287, R453). -/
namespace Sys2Proof.Machine

/-- The monitor selection of R472: [0] NaN watch, [1] counters, [2] hold on first NaN. -/
def monBit (cl : Clause) (i : Nat) : Bool := bit cl.mon i

/-- Adds to a cell's counters while counters are selected for its clause (R139). -/
def addCtr (c : LCell) (k : Ctr) (d : Dev) : Dev :=
  match activeClause d c with
  | some cl => if monBit cl 1 then updCell c (fun x => { x with ctr := (x.ctr.plus k).sat }) d else d
  | none => d

/-- A NaN element as NaN watch sees it: coordinates 0-5, output number, chain stage, format code, and detail words 0
and 1 (R137, R472). -/
structure NanSeen where
  coords : List Nat
  output : Nat
  stage  : Nat
  format : Nat
  d0     : Nat
  d1     : Nat
  deriving DecidableEq, Repr

/-- NaN watch over the NaN elements of one write, in coordinate order (R136, R137): the first is recorded and latched and
disarms the watch; later ones are counted. -/
def watchNans (c : LCell) (off : Nat) (ns : List NanSeen) (d : Dev) : Dev :=
  match activeClause d c, ns with
  | some cl, n :: rest =>
    if cl.nan.armed then
      let d := recCell 0x0501 0 c cl.id (some off) n.d0 n.d1 d
      let d := updClause cl.id (fun k => { k with nan := { armed := false, full := true, cell := lcellCode c, off := off, coords := n.coords, output := n.output, stage := n.stage, format := n.format, later := satAdd 32 k.nan.later rest.length, beat := d.beat.count } }) d
      if monBit cl 2 then { d with ctl := { d.ctl with nanHold := d.ctl.nanHold ++ [(cl.id, d.beat.count)] } } else d
    else if cl.nan.full then updClause cl.id (fun k => { k with nan := { k.nan with later := satAdd 32 k.nan.later ns.length } }) d
    else d
  | _, _ => d

/-- The held set of a reload (R425): the rectangle's cells, or the whole region, where it was, in MODE 2. -/
def heldSet (d : Dev) (r : Reload) : List LCell :=
  match clauseOf d r.clause with
  | none => []
  | some cl =>
    if r.mode = 2 then (match r.old with
      | some o => rectCells o.1 o.2.1 cl.benchRows cl.benchCols
      | none => cl.cells)
    else rectCells (cl.orow + r.rect.1) (cl.ocol + r.rect.2.1) r.rect.2.2.1 r.rect.2.2.2
/-- A reload that has begun on an ACTIVE clause. -/
def Reload.holds (r : Reload) : Bool := r.live && r.stage != .queued
/-- A cell is in the held set of a reload (R425). -/
def reloadHolds (d : Dev) (p : Nat) : Bool := d.config.reloads.any fun r => r.holds && (heldSet d r).any fun c => phys d c == p
/-- Noun accesses that arrive at the cell wait at their ports (R425 step 1): its new map is not yet in force. -/
def nounWaits (d : Dev) (p : Nat) : Bool :=
  d.config.reloads.any fun r => r.holds && r.stage != .reopened && (heldSet d r).any fun c => phys d c == p
/-- A cell has been given a hold: the device is HELD or a HOLD of the device or of its clause is under way, its clause
is held, or it is under reload (R425, R453, R480). -/
def holdDue (d : Dev) (p : Nat) : Bool :=
  let id := activeId (cellP d p)
  reloadHolds d p ||
  d.ctl.state == .held || d.ctl.holds.any (fun h => h.clause == 0xFFFF || (id != 0 && h.clause == id)) ||
  (match clauseOf d id with
   | some c => c.held
   | none => false)

/-- The reload at work, the oldest (R423). -/
def headReload (d : Dev) : Option Reload := d.config.reloads.head?
/-- The operations whose PROGRESS a stopped cell advances: HOLDs that concern it, and the RELOAD at work (R450). -/
def countStop (c : LCell) (id : Nat) (d : Dev) : Dev :=
  let hs := (d.ctl.holds.filter fun h => h.clause == 0xFFFF || h.clause == id).filterMap fun h => h.op
  let rs := ((headReload d).filter fun r => r.holds && (heldSet d r).contains c).bind fun r => r.op
  (hs ++ rs.toList).foldl (fun d k => updOp k (fun p => { p with progress := p.progress + 1 }) d) d
/-- A cell stops at its boundary (R107, R166, R188). -/
def stopCell (c : LCell) (d : Dev) : Dev :=
  updCell c (fun x => { x with stopped := true }) (countStop c (activeId (cellAt d c)) d)

/-- The clock of a cell runs: a cell not in use, with no ACTIVE slot, is clock-gated (R55, R87), and so is a fenced one (R88). -/
def clockRuns (x : Cell) : Bool := (activeSlot x).isSome && !x.clockOff

/-- An engine may take new work: the device is RUNNING and its cell has an ACTIVE slot, is not fenced and neither stopped
nor given a hold (R107, R166, R446). -/
def engineReady (d : Dev) (c : LCell) : Bool :=
  let x := cellAt d c
  cellOk c && d.ctl.state == .running && (activeSlot x).isSome && x.fence == .none && !x.stopped && !holdDue d (phys d c)

/-- An engine may go on with work that it has begun: its cell runs up to its boundary (R107, R166). -/
def engineGoes (d : Dev) (c : LCell) : Bool :=
  let x := cellAt d c
  cellOk c && (d.ctl.state == .running || d.ctl.state == .held) && clockRuns x && !x.stopped

/-- The launch in a cell's buffer waits for a place at its target (R176). -/
def launchWaits (d : Dev) (x : Cell) : Bool :=
  match x.conj.launch with
  | some t => (cellAt d t.1).waitL.any fun l => decide (l = t.2)
  | none => false
/-- What stalls a cell (R287): a message that has received FULL and is not yet accepted or discarded, a launch that waits for
a place, or a core stalled at issue. -/
def stalled (d : Dev) (c : LCell) : Bool :=
  let x := cellAt d c
  x.sends.any (fun m => m.fulled) || x.conj.stall.isSome || launchWaits d x

/-- The destination that SEND_STALL names (R287): that of the oldest message or launch that is not accepted, a launch as queue
64 of its target; the cell itself and queue 65 where the mover request path alone stalls it. -/
def stallDest (d : Dev) (c : LCell) : LCell × Nat :=
  let x := cellAt d c
  let path := x.conj.stall == some (c, 65) && !x.sends.any (fun m => m.fulled) && !launchWaits d x
  match (if path then none else x.sends.find? fun m => m.ctl.isNone), (if path then none else x.conj.launch) with
  | some m, some t => if m.born < t.2.born then (m.dst, m.q) else (t.1, 64)
  | some m, none => (m.dst, m.q)
  | none, some t => (t.1, 64)
  | none, none => x.conj.stall.getD (c, 0)

end Sys2Proof.Machine
end

