-- ==== Sys2Proof/Machine/Crypto.lean ====
section
/-! DEFINITION. The security engine's algorithms (R498): SHA-256 (FIPS 180-4) and ECDSA on P-256 (FIPS 186-5), and the
retirement map and measurements that rest on them (R494, R506). -/
namespace Sys2Proof.Machine

/-! ### SHA-256 -/

/-- The round constants of FIPS 180-4. -/
def shaK : List W32 :=
  [0x428a2f98#32, 0x71374491#32, 0xb5c0fbcf#32, 0xe9b5dba5#32, 0x3956c25b#32, 0x59f111f1#32, 0x923f82a4#32, 0xab1c5ed5#32] ++
  [0xd807aa98#32, 0x12835b01#32, 0x243185be#32, 0x550c7dc3#32, 0x72be5d74#32, 0x80deb1fe#32, 0x9bdc06a7#32, 0xc19bf174#32] ++
  [0xe49b69c1#32, 0xefbe4786#32, 0x0fc19dc6#32, 0x240ca1cc#32, 0x2de92c6f#32, 0x4a7484aa#32, 0x5cb0a9dc#32, 0x76f988da#32] ++
  [0x983e5152#32, 0xa831c66d#32, 0xb00327c8#32, 0xbf597fc7#32, 0xc6e00bf3#32, 0xd5a79147#32, 0x06ca6351#32, 0x14292967#32] ++
  [0x27b70a85#32, 0x2e1b2138#32, 0x4d2c6dfc#32, 0x53380d13#32, 0x650a7354#32, 0x766a0abb#32, 0x81c2c92e#32, 0x92722c85#32] ++
  [0xa2bfe8a1#32, 0xa81a664b#32, 0xc24b8b70#32, 0xc76c51a3#32, 0xd192e819#32, 0xd6990624#32, 0xf40e3585#32, 0x106aa070#32] ++
  [0x19a4c116#32, 0x1e376c08#32, 0x2748774c#32, 0x34b0bcb5#32, 0x391c0cb3#32, 0x4ed8aa4a#32, 0x5b9cca4f#32, 0x682e6ff3#32] ++
  [0x748f82ee#32, 0x78a5636f#32, 0x84c87814#32, 0x8cc70208#32, 0x90befffa#32, 0xa4506ceb#32, 0xbef9a3f7#32, 0xc67178f2#32]
/-- The initial hash value. -/
def shaInit : List W32 := [0x6a09e667#32, 0xbb67ae85#32, 0x3c6ef372#32, 0xa54ff53a#32, 0x510e527f#32, 0x9b05688c#32, 0x1f83d9ab#32, 0x5be0cd19#32]

/-- The message padded to whole blocks of 64 B. -/
def shaPad (msg : List Byte) : List Byte :=
  let m := msg ++ [0x80]
  m ++ List.replicate ((120 - m.length % 64) % 64) 0 ++ beBytes 8 (8 * msg.length)

/-- Extends the schedule, kept newest first, by `n` words. -/
def shaSched : Nat → List W32 → List W32
  | 0, w => w
  | n + 1, w =>
    let g (i : Nat) : W32 := w.getD i 0
    let a := g 14
    let b := g 1
    let s0 := (a.rotateRight 7) ^^^ (a.rotateRight 18) ^^^ (a >>> 3)
    let s1 := (b.rotateRight 17) ^^^ (b.rotateRight 19) ^^^ (b >>> 10)
    shaSched n ((g 15 + s0 + g 6 + s1) :: w)

/-- One block's rounds over the eight working words. -/
def shaRounds : List (W32 × W32) → List W32 → List W32
  | [], v => v
  | (k, w) :: r, [a, b, c, d, e, f, g, h] =>
    let s1 := (e.rotateRight 6) ^^^ (e.rotateRight 11) ^^^ (e.rotateRight 25)
    let ch := (e &&& f) ^^^ (~~~e &&& g)
    let t1 := h + s1 + ch + k + w
    let s0 := (a.rotateRight 2) ^^^ (a.rotateRight 13) ^^^ (a.rotateRight 22)
    let mj := (a &&& b) ^^^ (a &&& c) ^^^ (b &&& c)
    shaRounds r [t1 + s0 + mj, a, b, c, d + t1, e, f, g]
  | _, v => v

/-- The sixteen words of a block. -/
def shaWords (b : List Byte) : List W32 := (List.range 16).map fun i => BitVec.ofNat 32 (fldBE b (4 * i) 4)

/-- Absorbs `n` blocks. -/
def shaBlocks : Nat → List Byte → List W32 → List W32
  | 0, _, h => h
  | n + 1, m, h =>
    let w := (shaSched 48 (shaWords (m.take 64)).reverse).reverse
    shaBlocks n (m.drop 64) (List.zipWith (fun a b => a + b) h (shaRounds (shaK.zip w) h))

/-- SHA-256: 32 bytes. -/
def sha256 (msg : List Byte) : List Byte :=
  let p := shaPad msg
  (shaBlocks (p.length / 64) p shaInit).flatMap fun w => beBytes 4 w.toNat

/-! ### P-256 -/

/-- The field prime. -/
def ecP : Nat := 0xffffffff00000001000000000000000000000000ffffffffffffffffffffffff
/-- The group order. -/
def ecN : Nat := 0xffffffff00000000ffffffffffffffffbce6faada7179e84f3b9cac2fc632551
/-- The curve constant b. -/
def ecB : Nat := 0x5ac635d8aa3a93e7b3ebbd55769886bc651d06b0cc53b0f63bce3c3e27d2604b
/-- The base point. -/
def ecG : Nat × Nat := (0x6b17d1f2e12c4247f8bce6e563a440f277037d812deb33a0f4a13945d898c296,
  0x4fe342e2fe1a7f9b8ee7eb4a7c0f9e162bce33576b315ececbb6406837bf51f5)

/-- b^e mod m over `n` bits of e. -/
def powMod (m : Nat) : Nat → Nat → Nat → Nat
  | 0, _, _ => 1 % m
  | n + 1, b, e => (if e % 2 = 1 then b else 1) * powMod m n (b * b % m) (e / 2) % m
/-- The inverse modulo a prime. -/
def invMod (m a : Nat) : Nat := powMod m 256 (a % m) (m - 2)

/-- A point in Jacobian coordinates; z = 0 is the point at infinity. -/
structure EcPt where
  x : Nat
  y : Nat
  z : Nat
  deriving DecidableEq, Repr

/-- The point at infinity. -/
def ecInf : EcPt := { x := 1, y := 1, z := 0 }
/-- a - b in the field. -/
def fSub (a b : Nat) : Nat := (a + (ecP - b % ecP)) % ecP
/-- Doubling. -/
def ecDbl (p : EcPt) : EcPt :=
  if p.z = 0 || p.y = 0 then ecInf
  else
    let y2 := p.y * p.y % ecP
    let s := 4 * p.x * y2 % ecP
    let z2 := p.z * p.z % ecP
    let m := 3 * (fSub p.x z2) * (p.x + z2) % ecP
    let x := fSub (m * m % ecP) (2 * s)
    { x := x, y := fSub (m * fSub s x % ecP) (8 * y2 * y2), z := 2 * p.y * p.z % ecP }
/-- Addition. -/
def ecAdd (p q : EcPt) : EcPt :=
  if p.z = 0 then q
  else if q.z = 0 then p
  else
    let z1 := p.z * p.z % ecP
    let z2 := q.z * q.z % ecP
    let u1 := p.x * z2 % ecP
    let u2 := q.x * z1 % ecP
    let s1 := p.y * z2 * q.z % ecP
    let s2 := q.y * z1 * p.z % ecP
    if u1 = u2 then (if s1 = s2 then ecDbl p else ecInf)
    else
      let h := fSub u2 u1
      let r := fSub s2 s1
      let h2 := h * h % ecP
      let h3 := h * h2 % ecP
      let v := u1 * h2 % ecP
      let x := fSub (r * r % ecP) (h3 + 2 * v)
      { x := x, y := fSub (r * fSub v x % ecP) (s1 * h3), z := h * p.z * q.z % ecP }
/-- k times a point, over `n` bits of k. -/
def ecMul : Nat → Nat → EcPt → EcPt
  | 0, _, _ => ecInf
  | n + 1, k, p => ecAdd (if k % 2 = 1 then p else ecInf) (ecMul n (k / 2) (ecDbl p))
/-- A point given by its coordinates. -/
def ecPt (p : Nat × Nat) : EcPt := { x := p.1, y := p.2, z := 1 }
/-- Affine coordinates. -/
def ecAff (p : EcPt) : Nat × Nat :=
  let i := invMod ecP p.z
  (p.x * i * i % ecP, p.y * i * i * i % ecP)

/-- A 64-byte public key that lies on the curve (R500). -/
def ecKey (key : List Byte) : Option EcPt :=
  let x := fldBE key 0 32
  let y := fldBE key 32 32
  if key.length = 64 ∧ x < ecP ∧ y < ecP ∧ y * y % ecP = (x * x * x + (ecP - 3) * x + ecB) % ecP then some (ecPt (x, y)) else none

/-- ECDSA verification with SHA-256: signature r then s, 32 bytes each. -/
def ecdsaVerify (key msg sig : List Byte) : Bool :=
  let r := fldBE sig 0 32
  let s := fldBE sig 32 32
  match ecKey key with
  | none => false
  | some q =>
    if sig.length ≠ 64 ∨ r = 0 ∨ s = 0 ∨ ecN ≤ r ∨ ecN ≤ s then false
    else
      let e := beNat (sha256 msg)
      let w := invMod ecN s
      let p := ecAdd (ecMul 256 (e * w % ecN) (ecPt ecG)) (ecMul 256 (r * w % ecN) q)
      if p.z = 0 then false else decide ((ecAff p).1 % ecN = r)

/-- ECDSA signing with private scalar `d` and per-signature secret `k`. -/
def ecdsaSign (d k : Nat) (msg : List Byte) : List Byte :=
  let e := beNat (sha256 msg)
  let r := (ecAff (ecMul 256 k (ecPt ecG))).1 % ecN
  let s := invMod ecN k * (e + r * d) % ecN
  beBytes 32 r ++ beBytes 32 s

/-- The identity key's scalar in 1 to n - 1 (R499). -/
def identityKey : Nat := Config.identityScalar.toNat % (ecN - 1) + 1
/-- The public key of the identity: X, then Y (R500). -/
def identityPublic : List Byte := let a := ecAff (ecMul 256 identityKey (ecPt ecG)); beBytes 32 a.1 ++ beBytes 32 a.2
/-- ID_PUBKEY (R499): zeros where the identity is not valid. -/
def idPubkey (d : Dev) : List Byte := if d.sec.identity = some 0 then identityPublic else List.replicate 64 0
/-- The certificate is there and does not name the public key of the identity: its subject key is an uncompressed point, 04, X, Y
(R499 step 3, R501). One of no bytes is not given, and nothing is compared with it (DESIGN CHOICE, notes/assumptions/6). -/
def certDiffers (o : Otp) : Bool :=
  !o.certificate.isEmpty && !(List.range o.certificate.length).any fun i => slice o.certificate i 65 == 4 :: identityPublic

/-! ### The random source and unstated values -/

/-- 32 bytes of the random source (R498). -/
def drawBytes (d : Dev) : List Byte × Dev :=
  (beBytes 32 (Config.randomBits d.sec.draws).toNat, { d with sec := { d.sec with draws := d.sec.draws + 1 } })
/-- A signature, with secrets of the random source until neither r nor s is zero (FIPS 186-5, R498), for `n` further draws. -/
def drawSign (key : Nat) (msg : List Byte) : Nat → Dev → List Byte × Dev
  | 0, d => let k := drawBytes d; (ecdsaSign key (beNat k.1 % (ecN - 1) + 1) msg, k.2)
  | n + 1, d =>
    let k := drawBytes d
    let g := ecdsaSign key (beNat k.1 % (ecN - 1) + 1) msg
    if (g.take 32).all (· == 0) || (g.drop 32).all (· == 0) then drawSign key msg n k.2 else (g, k.2)
/-- Draws after which a signature stands as it comes out (DESIGN CHOICE, notes/assumptions/90). -/
def signTries : Nat := 15
/-- A value that the manual does not state, drawn for a place of the model (notes/assumptions/11). -/
def drawFree (place : Nat) (d : Dev) : W64 × Dev :=
  (Config.unstated place d.sec.draws, { d with sec := { d.sec with draws := d.sec.draws + 1 } })

/-! ### Measurements and the retirement map (R494, R506) -/

/-- Measurement register `i`. -/
def measureOf (d : Dev) (i : Nat) : List Byte := NMap.get (List.replicate 32 0) d.sec.measure i
/-- Sets measurement register `i`. -/
def setMeasure (i : Nat) (v : List Byte) (d : Dev) : Dev :=
  { d with sec := { d.sec with measure := NMap.set (List.replicate 32 0) d.sec.measure i v } }
/-- Extends measurement register `i` with a 32-byte value. -/
def extend (i : Nat) (v : List Byte) (d : Dev) : Dev := setMeasure i (sha256 (measureOf d i ++ v)) d

/-- A well-formed entry of the retirement map (R494): KIND, PLACE and UNIT in range. -/
def retireOk (ordering e : Nat) : Bool :=
  let kind := bits e 63 60
  let place := bits e 55 48
  let unit_ := bits e 31 0
  match kind with
  | 1 => decide (place < 4) && decide (unit_ < 72)
  | 2 => decide (place < 4) && decide (unit_ < 1152)
  | 3 => decide (place < 4) && decide (unit_ / 32 < 1152) && decide (unit_ % 32 < 17)
  | 4 => decide (place < 4) && decide (unit_ < 1152 * 1024)
  | 5 => decide (place < 4) && decide (unit_ < 4224)
  | 6 => decide (place < 8) && decide (unit_ < 25165824)
  | 7 => decide (place < 16) && decide (unit_ < 25165824) && decide (ordering = 0)
  | 8 => decide (place < 6) && decide (unit_ < 9)
  | _ => false
/-- An entry's fields in place (R494). -/
def retireEntry (kind place unit_ : Nat) (dead : Bool) : Nat :=
  kind * 2 ^ 60 + (if dead then 2 ^ 59 else 0) + place * 2 ^ 48 + unit_
/-- The entries in force: those of one-time-programmable memory whose check code holds and that are well formed, then those that
found it full (R494, R519). -/
def retireMap (o : Otp) (d : Dev) : List Nat :=
  ((o.retired.zipIdx.filter fun e => !o.broken.contains e.2).map (·.1)).filter (retireOk o.ordering) ++ d.health.extra
/-- RETIRE_HASH (R494): zeros for an empty map (notes/assumptions/26). -/
def retireHash (m : List Nat) : List Byte := if m.isEmpty then List.replicate 32 0 else sha256 (m.flatMap fun e => leBytes 8 e)

/-- Appends an entry to the retirement map and extends measurement register 6; an entry that finds the memory full applies
until power is lost, and RETIRE_MAP_FULL is recorded once (R494, R506). -/
def retireAppend (e : Nat) (o : Otp) (d : Dev) : Otp × Dev :=
  let d := extend 6 (sha256 (leBytes 8 e)) d
  if o.retired.length < Config.retireMapEntries then ({ o with retired := o.retired ++ [e] }, d)
  else
    let d := { d with health := { d.health with extra := d.health.extra ++ [e] } }
    if d.health.fullRec then (o, d)
    else (o, recPlain 0x0A03 0 0 0 0 { d with health := { d.health with fullRec := true } })

/-- SPARE_EXHAUSTED (R493). -/
def spareExhausted (e : Nat) (d : Dev) : Dev := recPlain 0x0A02 0 0 (e / 2 ^ 32) (e % 2 ^ 32) d

end Sys2Proof.Machine
end

