-- ==== Sys2Proof/Machine/Memory.lean ====
section
/-! DEFINITION. The device address map (R311, R312, R386), HBM3E and LPDDR5X with their spare pages (R314-R317), and the
ledger's translation of durable regions (R353-R356). -/
namespace Sys2Proof.Machine

/-! ### The address map -/

/-- What a device address names (R311, R386). -/
inductive Place where
  | hbm | lp | window | signal | remote | unmapped
  deriving DecidableEq, Repr

/-- The place of a device address on a part with ordering code `ord` (R311, R317). -/
def placeOf (ord a : Nat) : Place :=
  if a < Config.hbmBytes then .hbm
  else if Config.lpBase ≤ a ∧ a < Config.lpBase + Config.lpBytes ∧ ord = 0 then .lp
  else if Config.nounBase ≤ a ∧ a < Config.nounBase + 0x100000000 then .window
  else if Config.sigBase ≤ a ∧ a < Config.sigBase + 0x20000 then .signal
  else if Config.remoteBase ≤ a ∧ a < 2 ^ 48 then .remote
  else .unmapped

/-- PORT of a remote address (R386). -/
def remotePort (a : Nat) : Nat := bits a 46 44
/-- HOP of a remote address. -/
def remoteHop (a : Nat) : Nat := bits a 43 42
/-- The address on the target device that a remote address names; none where its code or port is unmapped (R386). -/
def remoteTarget (a : Nat) : Option Nat :=
  let t := bits a 41 0
  if 5 < remotePort a then none
  else if !bit t 41 then some (Config.lpBase + bits t 40 0)
  else if !bit t 40 then some (bits t 39 0)
  else if bits t 39 32 = 0 then some (Config.nounBase + bits t 31 0)
  else if bits t 39 32 = 1 ∧ bits t 31 0 < 0x20000 then some (Config.sigBase + bits t 31 0)
  else none

/-- The Noun cell and byte of a window address (R257). -/
def windowCell (a : Nat) : LCell × Nat :=
  let row := bits a 31 26
  let h := bits a 25 21
  ({ row := row, col := 2 * h + row % 2 }, bits a 20 0)
/-- The frame and word of an address of the signal range (R292). -/
def signalWord (a : Nat) : Nat × Nat := ((a - Config.sigBase) / 0x8000, (a - Config.sigBase) % 0x8000 / 8)
/-- The device address of a signal word (R292). -/
def signalAddr (f w : Nat) : Nat := Config.sigBase + f * 0x8000 + 8 * w

/-! ### Stacks, devices and pages (R315, R317) -/

/-- The stack 0-7 or LPDDR5X device 8-23 behind a memory address (R315). -/
def memDevice (d : Dev) (a : Nat) : Nat :=
  if a < Config.lpBase then
    (if d.tiers.interleave = 0 then 2 * (a / Config.hbmWindow) + a % Config.hbmWindow / 4096 % 2 else a / 4096 % 8)
  else
    let b := a - Config.lpBase
    let half := Config.lpBytes / 2
    8 + (if d.tiers.interleave = 0 then 8 * (b / half) + b % half / 4096 % 8 else b / 4096 % 16)
/-- The 4 KiB page of that stack or device behind a memory address (R315). -/
def memPage (d : Dev) (a : Nat) : Nat :=
  if a < Config.lpBase then
    (if d.tiers.interleave = 0 then a % Config.hbmWindow / 4096 / 2 else a / 4096 / 8)
  else
    let b := a - Config.lpBase
    (if d.tiers.interleave = 0 then b % (Config.lpBytes / 2) / 4096 / 8 else b / 4096 / 16)
/-- The memory address of the first byte of a page. -/
def pageAddr (d : Dev) (dev page : Nat) : Nat :=
  if dev < 8 then
    (if d.tiers.interleave = 0 then Config.hbmWindow * (dev / 2) + (2 * page + dev % 2) * 4096 else (8 * page + dev) * 4096)
  else
    let n := dev - 8
    Config.lpBase + (if d.tiers.interleave = 0 then Config.lpBytes / 2 * (n / 8) + (8 * page + n % 8) * 4096 else (16 * page + n) * 4096)
/-- The key of a memory byte: its stack or device and its offset there (R315). -/
def memKey (d : Dev) (a : Nat) : Nat := memDevice d a * 2 ^ 37 + memPage d a * 4096 + a % 4096
/-- One byte of device memory. -/
def memByte (d : Dev) (a : Nat) : Byte := d.tiers.mem.rd (memKey d a)
/-- `n` bytes of device memory from `a`, over the pages that hold them. -/
def memBytes (d : Dev) (a n : Nat) : List Byte := (List.range n).map fun i => memByte d (a + i)
/-- Writes bytes of device memory. -/
def putMem (a : Nat) : List Byte → Dev → Dev
  | [], d => d
  | b :: bs, d => putMem (a + 1) bs { d with tiers := { d.tiers with mem := d.tiers.mem.wr (memKey d a) b } }
/-- The line at `a` is poisoned (R317). -/
def poisoned (d : Dev) (a : Nat) : Bool := d.tiers.poison.contains (memKey d a)
/-- Spare pages of a stack or device (R317). -/
def sparePages : Nat := 262144
/-- Addressable pages of a stack or device (R27): the spares stand after them. -/
def dataPages : Nat := 24903680
/-- The physical page behind a page. -/
def physPage (d : Dev) (dev page : Nat) : Nat := (NMap.get none d.tiers.pages (dev * 0x2000000 + page)).getD page
/-- The page that a physical page stands behind. -/
def pageBehind (d : Dev) (dev pp : Nat) : Option Nat :=
  match d.tiers.pages.find? fun e => e.1 / 0x2000000 == dev && e.2 == some pp with
  | some e => some (e.1 % 0x2000000)
  | none => if pp < dataPages && (NMap.get none d.tiers.pages (dev * 0x2000000 + pp)).isNone then some pp else none
/-- The number of a stack or LPDDR5X device in records and the map. -/
def devNumber (dev : Nat) : Nat := if dev < 8 then dev else dev - 8

/-- The entry of the retirement map for a physical page of a stack or device (R494). -/
def pageEntry (dev pp : Nat) : Nat := retireEntry (if dev < 8 then 6 else 7) (devNumber dev) pp false
/-- Spare pages left under the retirement map `m` (R466): those that no page has taken yet and that are not retired. -/
def sparesLeft (m : List Nat) (d : Dev) (dev : Nat) : Nat :=
  let used := NMap.get 0 d.tiers.sparesUsed dev
  sparePages - used - m.countP fun e => decide (e = pageEntry dev (e % 2 ^ 32)) && decide (dataPages + used ≤ e % 2 ^ 32)
/-- PAGE_SPARES_LOW, once per reset for a stack or device (R317). -/
def noteSpares (m : List Nat) (dev : Nat) (d : Dev) : Dev :=
  if sparesLeft m d dev < 16384 && !d.tiers.lowRec.contains dev then
    recPlain 0x0604 0 0 ((if dev < 8 then 0 else 256) + devNumber dev) (sparesLeft m d dev)
      { d with tiers := { d.tiers with lowRec := d.tiers.lowRec ++ [dev] } }
  else d

/-- The first spare page from number `k` on that is not itself retired. -/
def goodSpare (m : List Nat) (dev : Nat) : Nat → Nat → Nat
  | 0, k => k
  | n + 1, k => if m.contains (pageEntry dev (dataPages + k)) then goodSpare m dev n (k + 1) else k
/-- A spare page takes a page's place, where one remains: the replacement is recorded in the retirement map (R317). -/
def replacePage (dev page : Nat) (o : Otp) (d : Dev) : Otp × Dev :=
  let m := retireMap o d
  let used := goodSpare m dev m.length (NMap.get 0 d.tiers.sparesUsed dev)
  if sparesLeft m d dev = 0 ∨ sparePages ≤ used then (o, d)
  else
    let e := pageEntry dev (physPage d dev page)
    let (o, d) := if m.contains e then (o, d) else retireAppend e o d
    (o, noteSpares (retireMap o d) dev { d with tiers := { d.tiers with
      sparesUsed := NMap.set 0 d.tiers.sparesUsed dev (used + 1)
      pages := NMap.set none d.tiers.pages (dev * 0x2000000 + page) (some (dataPages + used))
      pageCorr := NMap.set 0 d.tiers.pageCorr (memKey d (pageAddr d dev page) / 4096) 0 } })

/-- A corrected error in a page: counted; the fourth in an epoch starts the copy of the page into a spare (R317). -/
def countCorrected (o : Otp) (a : Nat) (d : Dev) : Dev :=
  let dev := memDevice d a
  let pg := memPage d a
  let k := memKey d a / 4096
  let n := NMap.get 0 d.tiers.pageCorr k + 1
  let t := { d.tiers with corrected := NMap.upd 0 d.tiers.corrected dev (· + 1), pageCorr := NMap.set 0 d.tiers.pageCorr k n }
  { d with tiers := if 4 ≤ n ∧ sparesLeft (retireMap o d) d dev ≠ 0 ∧ !t.copying.contains (dev, pg) then { t with copying := t.copying ++ [(dev, pg)] } else t }

/-- The interface of the stack, or the channel pair of the device, that holds a memory address is on (R509, R511). -/
def memOn (d : Dev) (a : Nat) : Bool :=
  let k := memDevice d a
  NMap.get DomSt.off d.power.domains (if k < 8 then 64 + k else 72 + (k - 8) / 2) == .on
/-- A line of memory is being copied with its page into a spare: accesses to it wait (R317). -/
def pageCopying (d : Dev) (a : Nat) : Bool := d.tiers.copying.contains (memDevice d a, memPage d a)

/-- A read of the line at memory address `a`: its bytes, or none where it is refused for an uncorrectable error or poison,
which `rec` records. The page of a line that fails anew is then replaced at once and the line marked poisoned (R314, R317). -/
def readMem (rec : Dev → Dev) (a : Nat) (e : Ecc) (o : Otp) (d : Dev) : Otp × Dev × Option (List Byte) :=
  if poisoned d a then (o, rec d, none)
  else match e with
    | .good => (o, d, some (d.tiers.mem.rdN (memKey d a) 64))
    | .corrected => (o, countCorrected o a d, some (d.tiers.mem.rdN (memKey d a) 64))
    | .upset =>
      let (o, d) := replacePage (memDevice d a) (memPage d a) o (rec { d with tiers := { d.tiers with poison := d.tiers.poison ++ [memKey d a] } })
      (o, d, none)

/-- A write of the line at memory address `a`: false where it is refused. A write of all 64 bytes clears poison; any other
is a read, a merge and a write (R314, R317). -/
def writeMem (rec : Dev → Dev) (a : Nat) (line : List Byte) (en : W64) (e : Ecc) (o : Otp) (d : Dev) : Otp × Dev × Bool :=
  if en = BitVec.allOnes 64 then
    (o, { d with tiers := { d.tiers with mem := d.tiers.mem.wrLine (memKey d a) line en, poison := d.tiers.poison.filter fun b => b != memKey d a } }, true)
  else
    match readMem rec a e o d with
    | (o, d, some _) => (o, { d with tiers := { d.tiers with mem := d.tiers.mem.wrLine (memKey d a) line en } }, true)
    | (o, d, none) => (o, d, false)

/-! ### Allocations and durable regions (R63, R353-R356) -/

/-- HBM_BYTES (R38). -/
def Clause.hbmBytes (c : Clause) : Nat := fld c.contract 0x10 8
/-- LPDDR_BYTES (R38). -/
def Clause.lpBytes (c : Clause) : Nat := fld c.contract 0x18 8
/-- A memory address lies in the clause's allocations (R63). -/
def Clause.owns (c : Clause) (a : Nat) : Bool :=
  (decide (c.hbmBase ≤ a) && decide (a < c.hbmBase + c.hbmBytes)) || (decide (c.lpBase ≤ a) && decide (a < c.lpBase + c.lpBytes))
/-- The durable region whose COPY0 range holds an address. -/
def Clause.durableOf (c : Clause) (a : Nat) : Option Durable := c.durable.find? fun u => decide (u.copy0 ≤ a) && decide (a < u.copy0 + u.len)
/-- The durable region whose COPY1 range holds an address. -/
def Clause.copy1Of (c : Clause) (a : Nat) : Option Durable := c.durable.find? fun u => decide (u.copy1 ≤ a) && decide (a < u.copy1 + u.len)
/-- The durable region of a loaded clause whose COPY0 range holds an address. -/
def durableAt (d : Dev) (a : Nat) : Option (Clause × Durable) :=
  d.plan.clauses.findSome? fun c => (c.durableOf a).map fun u => (c, u)
/-- The ledger granule of an address of a COPY0 range (R355). -/
def granuleAt (u : Durable) (a : Nat) : Nat := u.g0 + (a - u.copy0) / Config.granuleBytes
/-- The region and first COPY0 address of a granule. -/
def granulePlace (d : Dev) (g : Nat) : Option (Durable × Nat) :=
  d.plan.clauses.findSome? fun c => (c.durable.find? fun u => decide (u.g0 ≤ g) && decide (g < u.g0 + u.len / Config.granuleBytes)).map
    fun u => (u, u.copy0 + (g - u.g0) * Config.granuleBytes)
/-- An address of a COPY0 range in copy 0 or 1. -/
def copyPlace (u : Durable) (one : Bool) (a : Nat) : Nat := if one then u.copy1 + (a - u.copy0) else a
/-- C of a granule (R355). -/
def ledgerC (d : Dev) (g : Nat) : Bool := NMap.get false d.epoch.c g
/-- W of a granule (R355). -/
def ledgerW (d : Dev) (g : Nat) : Bool := NMap.get false d.epoch.w g
/-- Sets W of a granule. -/
def markW (g : Nat) (d : Dev) : Dev := { d with epoch := { d.epoch with w := NMap.set false d.epoch.w g true } }
/-- Where a read of a durable address goes (R354): the working copy where the granule is marked written, else the committed
copy; while EPOCH_ENABLE is 0 always the committed copy. -/
def readPlace (d : Dev) (a : Nat) : Nat :=
  match durableAt d a with
  | none => a
  | some (_, u) =>
    let g := granuleAt u a
    copyPlace u (if d.epoch.enable && ledgerW d g then !ledgerC d g else ledgerC d g) a
/-- The committed copy of a durable address (R365). -/
def committedPlace (d : Dev) (a : Nat) : Nat :=
  match durableAt d a with
  | none => a
  | some (_, u) => copyPlace u (ledgerC d (granuleAt u a)) a
/-- Where a write of a durable address goes (R354). -/
def writePlace (d : Dev) (a : Nat) : Nat :=
  match durableAt d a with
  | none => a
  | some (_, u) => copyPlace u (if d.epoch.enable then !ledgerC d (granuleAt u a) else ledgerC d (granuleAt u a)) a

/-- The copy of one page's bytes and poison from key `s` to key `t` (R315, R356). -/
def copyPage (s t : Nat) (d : Dev) : Dev :=
  let n := 4096
  let m := d.tiers.mem
  let p := d.tiers.poison
  let inR (b k : Nat) : Bool := decide (b ≤ k) && decide (k < b + n)
  { d with tiers := { d.tiers with
    mem := m.filter (fun e => decide (e.1 < t)) ++ (m.filter fun e => inR s e.1).map (fun e => (e.1 - s + t, e.2)) ++ m.filter (fun e => decide (t + n ≤ e.1))
    poison := p.filter (fun a => !inR t a) ++ (p.filter (inR s)).map fun a => a - s + t } }
/-- The copy of one granule from address `s` to address `t`, page by page (R356). -/
def copyGranule (s t : Nat) (d : Dev) : Dev :=
  (List.range (Config.granuleBytes / 4096)).foldl (fun d i => copyPage (memKey d (s + 4096 * i)) (memKey d (t + 4096 * i)) d) d
/-- Copies the committed copy of granule `g` over the working copy, counts it and sets W (R356). -/
def copyBeforeWrite (g : Nat) (d : Dev) : Dev :=
  match granulePlace d g with
  | none => d
  | some (u, a) =>
    let d := copyGranule (copyPlace u (ledgerC d g) a) (copyPlace u (!ledgerC d g) a) d
    markW g { d with epoch := { d.epoch with cow := d.epoch.cow + 1 } }

/-- The commit beat of the epoch in progress: the BEAT of entry 0 (R357). -/
def entry0Beat (d : Dev) : Nat := (NMap.get {} d.plan.sched 0).beat
/-- The index of the epoch that commits at that beat (R357). -/
def epochIndex (d : Dev) : Nat := (((entry0Beat d : Int) - d.epoch.origin) / (max 1 d.epoch.beats : Nat) - 1).toNat
/-- The commit window is open: EPOCH_STATE is WINDOW, or the epoch has missed its commit (R358, R361). -/
def windowOpen (d : Dev) : Bool := d.epoch.enable && (d.epoch.state == 1 || d.epoch.state == 2)

end Sys2Proof.Machine
end

