-- ==== Sys2Proof/Machine/FabricPort.lean ====
section
/-! DEFINITION. The sending side of fabric ports: classes, credits, the replay buffer, pauses, routes, and what becomes of
a frame whose port is not up (R376-R396); and the stopping of a mover's request. -/
namespace Sys2Proof.Machine

/-! ### Movers by number -/

/-- The number of a mover in `Movers.run`. -/
def moverKey : MoverId → Nat
  | .frame f m => f * 16 + m
  | .io i m => 64 + i * 8 + m
/-- The mover of a number. -/
def moverOfKey (k : Nat) : MoverId := if k < 64 then .frame (k / 16) (k % 16) else .io ((k - 64) / 8) ((k - 64) % 8)
/-- The source of a mover. -/
def moverSrc : MoverId → Src
  | .frame f m => .frameMover f m
  | .io i m => .ioMover i m
/-- The mover of a source. -/
def srcMover : Src → Option MoverId
  | .frameMover f m => some (.frame f m)
  | .ioMover i m => some (.io i m)
  | _ => none
/-- A mover of the device (R318, R320). -/
def moverOk : MoverId → Bool
  | .frame f m => decide (f < 4) && decide (m < 16)
  | .io i m => decide (i < 2) && decide (m < 8)
/-- A running request. -/
def moverRun (d : Dev) (k : Nat) : Option MoverRun := NMap.get none d.movers.run k
/-- Sets a running request. -/
def setRun (k : Nat) (r : Option MoverRun) (d : Dev) : Dev := { d with movers := { d.movers with run := NMap.set none d.movers.run k r } }
/-- Changes a running request. -/
def updRun (k : Nat) (f : MoverRun → MoverRun) (d : Dev) : Dev :=
  match moverRun d k with
  | some r => setRun k (some (f r)) d
  | none => d
/-- The running request that awaits the answer to a tag. -/
def moverOfTag (d : Dev) (tag : Nat) : Option (Nat × FabOut) :=
  d.movers.run.findSome? fun e => e.2.bind fun r => (r.fab.find? fun f => f.tag == tag).map fun f => (e.1, f)
/-- A clause-fatal record of a mover's request: the cell that requested it and its descriptor's offset (R324, R485). -/
def recMover (k code d0 d1 : Nat) (d : Dev) : Dev :=
  match moverRun d k with
  | some r => recCell code 1 r.req.cell r.req.clause (some r.off) d0 d1 d
  | none => d

/-! ### Memory agents (R318) -/

/-- The agent that serves a memory address to a mover (R318): the mover itself for the memory that it is wired to; else the
mover of the same number, modulo 16, in front of the stack of another frame (DESIGN CHOICE, notes/assumptions/23), or the
I/O die of an LPDDR5X device. -/
def memAgent (d : Dev) (id : MoverId) (a : Nat) : Src :=
  let k := memDevice d a
  match id with
  | .frame f m => if 8 ≤ k then .ioDie ((k - 8) / 8) else if k / 2 = f then moverSrc id else .frameMover (k / 2) m
  | .io i m => if k < 8 then .frameMover (k / 2) m else if (k - 8) / 8 = i then moverSrc id else .ioDie ((k - 8) / 8)
/-- The agent that serves a mover's read of an address: that of the copy in force where the address is durable (R318, R354). -/
def readAgent (d : Dev) (id : MoverId) (a : Nat) : Src := memAgent d id (readPlace d a)
/-- The agent that serves a mover's write of an address. -/
def writeAgent (d : Dev) (id : MoverId) (a : Nat) : Src := memAgent d id (writePlace d a)
/-- Sends the flits of one message between a mover and the agent that serves a memory access: over the mesh, or over the
mover's own wires (R318). -/
def memSend (id : MoverId) (from_ to_ : Src) (bs : List Body) (d : Dev) : Dev :=
  if from_ = to_ then { d with movers := { d.movers with wires := d.movers.wires ++ [(id, bs)] } }
  else bs.foldl (fun d b => sendFlit from_ to_ b d) d

/-! ### Ports and frames (R376-R384) -/

/-- The device has completed its reset (R518). -/
def booted (d : Dev) : Bool := d.power.boot == .ready
/-- A fabric port. -/
def fabPort (d : Dev) (p : Nat) : FabPort := d.ports.fab.getD p {}
/-- Changes a fabric port. -/
def updFab (p : Nat) (f : FabPort → FabPort) (d : Dev) : Dev := { d with ports := { d.ports with fab := mapAt p f d.ports.fab } }
/-- A point-to-point mode (R376). -/
def FabPort.p2p (x : FabPort) : Bool := decide (x.mode < 2)
/-- The class of a frame type (R384). -/
def frameClass (ty : Nat) : Nat := if ty = 1 ∨ ty = 2 ∨ ty = 3 ∨ ty = 9 then 0 else 1
/-- Credit units of a frame (R379). -/
def frameUnits (f : FFrame) : Nat := (32 + f.pay.length + 255) / 256
/-- Bytes of a frame from its fabric header. -/
def frameBytes (f : FFrame) : Nat := 32 + f.pay.length
/-- The fabric header of a frame, most significant byte first (R383). -/
def fabHeader (f : FFrame) : List Byte :=
  beBytes 1 1 ++ beBytes 1 f.ty ++ beBytes 2 f.pay.length ++ beBytes 3 f.h.srcId ++ beBytes 1 f.h.pos ++ beBytes 4 f.h.route ++
  beBytes 2 f.h.lseq ++ beBytes 1 (frameClass f.ty) ++ beBytes 1 f.h.result ++ beBytes 4 f.h.tag ++ beBytes 6 f.h.target ++ beBytes 6 0
/-- A frame from its fabric header to the end of its payload. -/
def fabBytes (f : FFrame) : List Byte := fabHeader f ++ f.pay
/-- The header that 32 bytes spell: VER, TYPE, LEN, the class of CFLAGS, and the fields of `FabHdr` (R383). -/
def parseHeader (b : List Byte) : Nat × Nat × Nat × Nat × FabHdr :=
  (fldBE b 0 1, fldBE b 1 1, fldBE b 2 2, fldBE b 0x0E 1 % 2,
   { srcId := fldBE b 4 3, pos := fldBE b 7 1, route := fldBE b 8 4, lseq := fldBE b 0x0C 2, result := fldBE b 0x0F 1, tag := fldBE b 0x10 4, target := fldBE b 0x14 6 })
/-- The Ethernet header of a frame of class `c` out of port `p`: the peer's address, or NEIGHBOUR_MAC and a tag of priority 3
or 4 in switch-attached mode (R377). -/
def fabEther (d : Dev) (p c : Nat) : Ether :=
  let x := fabPort d p
  if x.p2p then { dst := x.peerMac } else { dst := x.nbMac, tag := some ((3 + c) * 0x2000 + x.vlan % 0x1000) }
/-- The address of fabric port `p`: the fused base plus 2 plus the port (R371). -/
def fabMac (o : Otp) (p : Nat) : List Byte := beBytes 6 (beNat o.macBase + 2 + p)
/-- The bytes of a fabric frame on the wire but for its FCS, padded to the 60 B of the shortest frame (R377). -/
def fabWire (o : Otp) (p : Nat) (e : Ether) (bs : List Byte) : List Byte :=
  padTo 60 (e.dst ++ fabMac o p ++ (match e.tag with
    | some t => beBytes 2 0x8100 ++ beBytes 2 t
    | none => []) ++ beBytes 2 0x88B5 ++ bs)
/-- A port frees credit units of a class (R379). -/
def freeUnits (p c n : Nat) (d : Dev) : Dev :=
  updFab p (fun x => if x.p2p then
    let u := (n + 255) / 256
    { x with freed0 := if c = 0 then (x.freed0 + u) % 2 ^ 32 else x.freed0, freed1 := if c = 1 then (x.freed1 + u) % 2 ^ 32 else x.freed1 } else x) d

/-! ### Deliveries of fabric frames (R387, R394) -/

/-- Bytes of the frame that a delivery serves. -/
def Deliv.bytes (x : Deliv) : Nat :=
  match x.job with
  | .write _ ls => 48 + 64 * ls.length
  | .read _ _ => 36
  | .raise _ => 40
  | .pass _ f => frameBytes f
  | .hostWrite _ _ | .hostRead _ _ _ => 0
/-- The class of that frame. -/
def Deliv.cls (x : Deliv) : Nat :=
  match x.job with
  | .pass _ f => frameClass f.ty
  | _ => 0
/-- Bytes of a class in the receive buffer of a port: frames whose delivery no mover has taken up (notes/assumptions/68). -/
def rxHeld (d : Dev) (p c : Nat) : Nat :=
  ((d.ports.deliv.filter fun x => x.port == p && x.mover.isNone && x.cls == c && x.buffered).map Deliv.bytes).sum
/-- Sends XOFF or XON for a class as the buffer of a switch-attached port fills and empties: below 256 KiB or 32 KiB free, above
512 KiB or 64 KiB (R382). -/
def pfcCheck (p c : Nat) (d : Dev) : Dev :=
  let x := fabPort d p
  let full := if c = 0 then 1048576 else 131072
  let free := full - rxHeld d p c
  let was := if c = 0 then x.xoff3 else x.xoff4
  let off := if was then decide (free ≤ full / 2) else decide (free < full / 4)
  if x.p2p || off == was then d
  else updFab p (fun x => if c = 0 then { x with xoff3 := off } else { x with xoff4 := off }) { d with tx := .pfc p (3 + c) off :: d.tx }
/-- The delivery that an I/O die mover performs. -/
def delivOn (d : Dev) : MoverId → Option Deliv
  | .io i m => d.ports.deliv.find? fun x => x.die == i && x.mover == some m
  | .frame _ _ => none
/-- The device is RUNNING and no HOLD of it is under way (R328, R446, R453). -/
def moversRun (d : Dev) : Bool := d.ctl.state == .running && !d.ctl.holds.any fun h => h.clause == 0xFFFF
/-- Whether a mover may issue: the device is RUNNING, no HOLD of it or of the request's clause is under way, and that clause is
not held, as a clause-fatal record holds it (R480); or
EPOCH_COMMIT_NOW completes the epoch in which the request started (R328, R362, R446, R453). -/
def moverGoes (d : Dev) (r : MoverRun) : Bool :=
  !r.stopped && !r.done &&
  ((moversRun d && !(d.ctl.holds.any fun h => h.clause == r.req.clause) && !((clauseOf d r.req.clause).any fun c => c.held)) ||
   (d.ctl.state == .held && d.epoch.commitNow.isSome && r.epoch == some (epochIndex d)))
/-- A mover can perform a delivery: it performs none, and the request that it runs, if any, may not issue now (R387, R394;
DESIGN CHOICE, notes/assumptions/68). -/
def moverFree (d : Dev) (id : MoverId) : Bool :=
  (delivOn d id).isNone && (match moverRun d (moverKey id) with
    | some r => !moverGoes d r
    | none => true)
/-- A mover runs no request and performs no delivery (R320). -/
def moverIdle (d : Dev) (id : MoverId) : Bool := (moverRun d (moverKey id)).isNone && (delivOn d id).isNone
/-- A frame passed on to another port. -/
def Deliv.passes (x : Deliv) : Bool :=
  match x.job with
  | .pass _ _ => true
  | _ => false
/-- Delivery `x` follows `y`: frames of one originator, and frames passed on from one port, keep their order (R387, R394). -/
def Deliv.follows (x y : Deliv) : Bool := x.port == y.port && (x.h.srcId == y.h.srcId || (x.passes && y.passes))
/-- The stream of the host whose operation has handle `h`. -/
def streamBy (d : Dev) (h : Nat) : Option Stream := d.beluf.streams.find? fun t => decide (2 ≤ t.kind) && opHandle d t.op == h
/-- A delivery for a host's stream that has closed before a mover took it up: it is not made (R452). -/
def hostGone (d : Dev) (x : Deliv) : Bool :=
  x.mover.isNone && (match x.job with
    | .hostWrite h _ | .hostRead h _ _ => (streamBy d h).isNone
    | _ => false)
/-- The deliveries that are made. -/
def liveDelivs (d : Dev) : List Deliv := d.ports.deliv.filter fun x => !hostGone d x
/-- The first delivery of a die that waits for a mover and for no earlier one. -/
def delivNext (die : Nat) : List Deliv → List Deliv → Option Deliv
  | _, [] => none
  | pre, x :: xs => if x.die == die && x.mover.isNone && !pre.any x.follows then some x else delivNext die (pre ++ [x]) xs
/-- The tag of the access number `i` of a delivery: a request of its mover uses tags below 128 (R319; notes/assumptions/68). -/
def delivTag (i : Nat) : Nat := 128 + i
/-- What a delivery sends, in order, with the tags and the addresses of its accesses (R319, R388). A frame passed on
travels in line writes to the other die (R394). -/
def Deliv.out0 (x : Deliv) : List (Nat × Nat) :=
  match x.job with
  | .write _ ls => ls.zipIdx.map fun l => (delivTag l.2, l.1.1)
  | .read _ as => as.zipIdx.map fun a => (delivTag a.2, a.1)
  | .raise _ => []
  | .pass _ f => (List.range ((frameBytes f + 63) / 64)).map fun i => (delivTag i, 64 * i)
  | .hostWrite _ ls => ls.zipIdx.map fun l => (delivTag l.2, l.1.1)
  | .hostRead _ _ as => as.zipIdx.map fun a => (delivTag a.2, a.1)
/-- A mover sends the write of a line as access `i` of a delivery (R319). -/
def delivWrite (id : MoverId) (i : Nat) (l : Nat × List Byte × W64) (d : Dev) : Dev :=
  memSend id (moverSrc id) (writeAgent d id l.1) [.memWrite (delivTag i) 2 0 l.1 l.2.2, .memLine l.2.1] d
/-- A mover sends the read of a line as access `i` of a delivery, of the committed copy where `com` (R319, R365). -/
def delivRead (id : MoverId) (com : Bool) (i a : Nat) (d : Dev) : Dev :=
  memSend id (moverSrc id) (if com then memAgent d id (committedPlace d a) else readAgent d id a) [.memRead (delivTag i) 2 0 a] d
/-- A mover makes the accesses of a delivery (R320, R387, R394). -/
def delivSend (id : MoverId) (x : Deliv) (d : Dev) : Dev :=
  let src := moverSrc id
  match x.job with
  | .write g ls => ls.zipIdx.foldl (fun d l => match placeOf 0 l.1.1 with
      | .window => let t := windowCell l.1.1
        sendTwo src (.cell t.1) (.nounWrite g t.2 0 0 l.1.2.1) (.nounEnables l.1.2.2) d
      | _ => delivWrite id l.2 l.1 d) d
  | .read g as => as.zipIdx.foldl (fun d a => match placeOf 0 a.1 with
      | .window => let t := windowCell a.1
        sendFlit src (.cell t.1) (.nounRead g t.2 0 0) d
      | _ => delivRead id false a.2 a.1 d) d
  | .hostWrite _ ls => ls.zipIdx.foldl (fun d l => delivWrite id l.2 l.1 d) d
  | .hostRead _ com as => as.zipIdx.foldl (fun d a => delivRead id com a.2 a.1 d) d
  | .raise v =>
    let (f, w) := signalWord x.h.target
    sigIssue .add { src := src, frame := f, word := w, v := v, clause := (sigWord d f w).owner, off := 0, kind := .remote } .deliv d
  | .pass _ f => (List.range ((frameBytes f + 63) / 64)).foldl (fun d i =>
      memSend id src (.ioDie (1 - x.die)) [.memWrite (delivTag i) 2 0 (64 * i) (BitVec.allOnes 64), .memLine (padTo 64 (slice (fabBytes f) (64 * i) 64))] d) d
/-- The mover that takes up the next delivery of a die: the lowest-numbered idle one; where none is idle, the lowest-numbered
whose request may not issue now, since deliveries go on in every device state (R320, R387, R394). -/
def delivMover (die : Nat) (d : Dev) : Option Nat :=
  ((List.range 8).find? fun m => moverIdle d (.io die m)).or ((List.range 8).find? fun m => moverFree d (.io die m))
/-- Waiting deliveries of a die begin on its movers (R320, R387); the frame leaves the port's receive buffer. -/
def delivStart (die : Nat) : Nat → Dev → Dev
  | 0, d => d
  | n + 1, d =>
    match delivNext die [] (liveDelivs d), delivMover die d with
    | some x, some m =>
      let d := { d with ports := { d.ports with deliv := mapFirst (fun y => decide (y = x)) (fun y => { y with mover := some m, out := y.out0 }) d.ports.deliv } }
      delivStart die n (delivSend (.io die m) x (if x.buffered then pfcCheck x.port x.cls (freeUnits x.port x.cls x.bytes d) else d))
    | _, _ => d
/-- A delivery joins those of its die. -/
def delivAdd (x : Deliv) (d : Dev) : Dev :=
  let d := { d with ports := { d.ports with deliv := d.ports.deliv ++ [x] } }
  delivStart x.die 8 (if x.buffered then pfcCheck x.port x.cls d else d)

/-! ### Deliveries for the host's streams (R320) -/

/-- Lines that one delivery of a host's stream carries at most: its tags are 128 to 255 (R319). -/
def hostChunk : Nat := 128
/-- A list in pieces of `n`. -/
def pieces {α : Type} (n : Nat) : Nat → List α → List (List α)
  | 0, _ => []
  | k + 1, l => if l.isEmpty then [] else l.take n :: pieces n k (l.drop n)
/-- A delivery for the stream with handle `h` of a session on host port `p`: frames of one stream keep their order. -/
def hostDeliv (p h : Nat) (j : Job) : Deliv := { die := p, port := 6 + p, h := { (default : FabHdr) with srcId := h }, job := j, buffered := false }
/-- Movers of the die of a host port carry lines of a stream between the port and the memory controllers (R320; DESIGN CHOICE,
notes/assumptions/46: the manual does not say which mover carries which lines). -/
def hostCarry (p h : Nat) (js : List Job) (d : Dev) : Dev :=
  js.foldl (fun d j => delivAdd (hostDeliv p h j) d) { d with ports := { d.ports with deliv := liveDelivs d } }
/-- Lines of a stream are on their way. -/
def hostBusy (d : Dev) (h : Nat) : Bool := d.ports.deliv.any fun x => match x.job with
  | .hostWrite k _ | .hostRead k _ _ => k == h
  | _ => false
/-- A segment of an open durable read stream is being read: a flip waits for it (R365). -/
def segmentRead (d : Dev) : Bool := d.ports.deliv.any fun x => match x.job with
  | .hostRead h true _ => (streamBy d h).isSome
  | _ => false
/-! ### The end of a mover's request -/

/-- Whether a request has nothing awaited of what it sent. -/
def MoverRun.quiet (r : MoverRun) : Bool := r.readsOut.isEmpty && r.writesOut.isEmpty && r.sends.isEmpty && r.fab.isEmpty
/-- A stopped request, or one whose handle has been accepted, leaves its mover once nothing that it sent is awaited; an I/O die
mover then serves the deliveries that wait. -/
def moverSettle (k : Nat) (d : Dev) : Dev :=
  match moverRun d k with
  | some r =>
    if (r.stopped || r.done) && r.quiet then
      let d := setRun k none d
      if 64 ≤ k then delivStart ((k - 64) / 8) 8 d else d
    else d
  | none => d
/-- Stops a request: it issues nothing further and raises nothing (R249, R363, R387, R389). -/
def moverStop (k : Nat) (d : Dev) : Dev :=
  moverSettle k (updRun k (fun r => { r with reads := [], writes := [], stopped := true }) d)
/-- The answer to a fabric request is no longer awaited: nor is the line that it was to read. -/
def dropFab (x : FabOut) (r : MoverRun) : MoverRun :=
  { r with fab := eraseFirst (fun g => g.tag == x.tag) r.fab
           readsOut := if x.ty = 3 then eraseFirst (fun q => q.2 == x.addr) r.readsOut else r.readsOut }

/-! ### Credits and sending (R379, R380, R396) -/

/-- Credit units of a receive buffer (R379). -/
def classUnits (c : Nat) : Nat := if c = 0 then 4096 else 512
/-- Units that the sender holds, modulo 2^32 (R379). -/
def unitsHeld (x : FabPort) (c : Nat) : Nat :=
  let used := if c = 0 then x.used0 else x.used1
  let back := if c = 0 then x.cred0 else x.cred1
  classUnits c - (used + 2 ^ 32 - back) % 2 ^ 32
/-- Whether a port can transmit a frame now: credit and replay room, or no pause of its priority (R379, R380, R382). -/
def canSend (x : FabPort) (f : FFrame) : Bool :=
  let c := frameClass f.ty
  if x.p2p then decide (frameUnits f ≤ unitsHeld x c) && decide ((x.replay.map frameBytes).sum + frameBytes f ≤ 524288)
  else if c = 0 then !x.pause3 else !x.pause4
/-- Transmits a frame: its LSEQ, the replay buffer, and the units it uses (R379, R380). -/
def transmit (p : Nat) (f : FFrame) (d : Dev) : Dev :=
  let x := fabPort d p
  let f := { f with h := { f.h with lseq := if x.p2p then x.txSeq else 0 } }
  let u := if x.p2p then frameUnits f else 0
  let d := updFab p (fun x => { x with
    txSeq := if x.p2p then (x.txSeq + 1) % 0x10000 else x.txSeq
    replay := if x.p2p then x.replay ++ [f] else x.replay
    used0 := if frameClass f.ty = 0 then (x.used0 + u) % 2 ^ 32 else x.used0
    used1 := if frameClass f.ty = 1 then (x.used1 + u) % 2 ^ 32 else x.used1 }) d
  { d with tx := .fabric p f (fabEther d p (frameClass f.ty)) :: d.tx }
/-- Transmits the waiting frames that can go, each class in order, class 1 not waiting for class 0 (R379). -/
def flushPort (p : Nat) : Nat → Dev → Dev
  | 0, d => d
  | n + 1, d =>
    let x := fabPort d p
    let head (c : Nat) : Option FFrame := (x.waiting.find? fun f => frameClass f.ty == c).filter (canSend x)
    match (head 1).or (head 0) with
    | none => d
    | some f => flushPort p n (transmit p f (updFab p (fun x => { x with waiting := eraseFirst (fun g => decide (g = f)) x.waiting }) d))
/-- Queues a frame at a port that is up. -/
def fabQueue (p : Nat) (f : FFrame) (d : Dev) : Dev :=
  let d := updFab p (fun x => { x with waiting := x.waiting ++ [f] }) d
  flushPort p (fabPort d p).waiting.length d
/-- Counts a discarded frame. -/
def fabDiscard (p : Nat) (d : Dev) : Dev := updFab p (fun x => { x with discarded := x.discarded + 1 }) d
/-- Sends a frame that no answer concerns: where its port is not up it is discarded and counted (R396). -/
def fabPut (p : Nat) (f : FFrame) (d : Dev) : Dev := if (fabPort d p).st == .up then fabQueue p f d else fabDiscard p d
/-- A port out of which the device's own beat frames and echoes are due: one that is UP, or that has been and is LOST (R344,
R396). -/
def fabDue (d : Dev) (p : Nat) : Bool := let st := (fabPort d p).st; booted d && (st == .up || st == .lost)

/-- The detail word that identifies a fabric sender (R390). -/
def senderWord (p : Nat) (h : FabHdr) : Nat := p * 0x1000000 + h.srcId % 0x1000000

/-! ### Routes (R383, R391-R393) -/

/-- The used legs of a ROUTE: port and links of each. -/
def routeLegs (r : Nat) : List (Nat × Nat) :=
  ((List.range 4).map fun i => (bits r (8 * i + 7) (8 * i + 5), bits r (8 * i + 4) (8 * i))).takeWhile fun l => l.1 != 7
/-- A ROUTE of legs. -/
def routeOf (ls : List (Nat × Nat)) : Nat :=
  (List.range 4).foldl (fun r i => r + (match ls[i]? with
    | some l => l.1 * 32 + l.2
    | none => 0xE0) * 256 ^ i) 0
/-- Links of a route. -/
def routeTotal (r : Nat) : Nat := (routeLegs r).foldl (fun t l => t + l.2) 0
/-- The reverse of a route (R393). -/
def routeBack (r : Nat) : Nat := routeOf ((routeLegs r).reverse.map fun l => (l.1 ^^^ 1, l.2))
/-- The port of the first leg. -/
def routePort (r : Nat) : Nat := ((routeLegs r).head?.map fun l => l.1).getD 7
/-- The port of the leg that a frame that has crossed `n` links takes next. -/
def legAt : List (Nat × Nat) → Nat → Nat
  | [], _ => 7
  | l :: ls, n => if n < l.2 then l.1 else legAt ls (n - l.2)
/-- ROUTE_TABLE entry 4 * PORT + HOP: by default one leg of HOP + 1 links out of PORT (R391). -/
def routeEntry (d : Dev) (k : Nat) : Nat :=
  (NMap.get none d.ports.routes k).getD (routeOf [(k / 4, k % 4 + 1)])
/-- The answer to a frame: ACK, or READ_DATA with its lines (R384, R393). -/
def answerFrame (ty result : Nat) (h : FabHdr) (pay : List Byte) : FFrame :=
  { ty := ty, h := { srcId := h.srcId, pos := 1, route := routeBack h.route, lseq := 0, result := result, tag := h.tag, target := h.target }, pay := pay }
/-- Sends an answer on its reverse route. -/
def sendAnswer (ty result : Nat) (h : FabHdr) (pay : List Byte) (d : Dev) : Dev :=
  let f := answerFrame ty result h pay
  fabPut (routePort f.h.route) f d
/-- The answer of a device part of the way along a frame's route: the links crossed, reversed (R393). -/
def partRoute : List (Nat × Nat) → Nat → List (Nat × Nat)
  | [], _ => []
  | l :: ls, n => if n = 0 then [] else if n ≤ l.2 then [(l.1, n)] else l :: partRoute ls (n - l.2)
/-- An ACK with UNREACHABLE from here, `n` links along the route (R392, R396). -/
def sendUnreachable (n : Nat) (h : FabHdr) (d : Dev) : Dev :=
  sendAnswer 5 2 { h with route := routeOf (partRoute (routeLegs h.route) n) } [] d

/-- What becomes of a frame due out of a port that is not up (R396): a request of this device's movers ends with
UNREACHABLE, one of another device is answered so, and any other frame is discarded and counted. -/
def fabDead (p : Nat) (f : FFrame) (d : Dev) : Dev :=
  if f.ty = 1 ∨ f.ty = 2 ∨ f.ty = 3 then
    match (if f.h.srcId = d.ports.fabricId % 0x1000000 ∧ f.h.pos = 1 then moverOfTag d f.h.tag else none) with
    | some (k, o) =>
      let d := recMover k 0x0702 (o.port * 256 + remoteHop o.addr) 0 d
      moverStop k (updRun k (dropFab o) d)
    | none => sendUnreachable (f.h.pos - 1) f.h d
  else fabDiscard p d
/-- Sends a frame out of a port. -/
def fabSend (p : Nat) (f : FFrame) (d : Dev) : Dev := if (fabPort d p).st == .up then fabQueue p f d else fabDead p f d

/-- Sends a request of a mover to a remote address and remembers its tag (R387, R391). -/
def fabRequest (k ty addr : Nat) (pay : List Byte) (d : Dev) : Dev :=
  match remoteTarget addr with
  | none => d
  | some t =>
    let p := remotePort addr
    let tag := d.movers.tag % 2 ^ 32
    let o : FabOut := { tag := tag, port := p, ty := ty, target := t, addr := addr, beat := d.beat.count }
    let d := updRun k (fun r => { r with fab := r.fab ++ [o] }) { d with movers := { d.movers with tag := d.movers.tag + 1 } }
    let route := routeEntry d (4 * p + remoteHop addr)
    fabSend (routePort route) { ty := ty, h := { srcId := d.ports.fabricId % 0x1000000, pos := 1, route := route, lseq := 0, result := 0, tag := tag, target := t }, pay := pay } d

end Sys2Proof.Machine
end

