-- ==== Sys2Proof/Machine/Queues.lean ====
section
/-! DEFINITION. Queues and messages (R259-R288): senders, arrivals, control flits, completions, the taking of entries and
combining queues. -/
namespace Sys2Proof.Machine

/-! ### Senders (R272, R273, R278) -/

/-- Two messages for one queue. -/
def sameQueue (c : LCell) (q : Nat) (m : Sent) : Bool := decide (m.dst = c) && decide (m.q = q)

/-- The generation that a sender stamps: the cached one, or its clause's activation generation (R278). -/
def stampGen (gens : List (LCell × Nat × Nat)) (dflt : Nat) (c : LCell) (q : Nat) : Nat :=
  match gens.find? fun g => decide (g.1 = c) && decide (g.2.1 = q) with
  | some g => g.2.2
  | none => dflt

/-- A generation learned from a completion: it replaces the queue's place, else takes a free place, else the oldest of
eight (R278). -/
def learnGen (gens : List (LCell × Nat × Nat)) (c : LCell) (q gen : Nat) : List (LCell × Nat × Nat) :=
  if gens.any fun g => decide (g.1 = c) && decide (g.2.1 = q) then
    gens.map fun g => if decide (g.1 = c) && decide (g.2.1 = q) then (c, q, gen) else g
  else (if gens.length < 8 then gens else gens.drop 1) ++ [(c, q, gen)]

/-- The flit of a message or control that a sender issues. -/
def sentFlit (src : Src) (m : Sent) (d : Dev) : Dev :=
  match m.ctl with
  | some op => sendFlit src (.cell m.dst) (.qctl m.q op) d
  | none => sendFlit src (.cell m.dst) (.qmsg m.q m.gen m.strict m.pay) d

/-- Whether a message of the sender for the queue has received FULL and is not yet accepted or discarded: later ones are held
(R273). -/
def blockedQueue (sends : List Sent) (c : LCell) (q : Nat) : Bool := sends.any fun m => sameQueue c q m && m.fulled

/-- A sender's buffers and generation cache. -/
structure Sender where
  sends : List Sent
  gens  : List (LCell × Nat × Nat)
  /-- The activation generation of the sender's clause. -/
  dflt  : Nat
  deriving DecidableEq, Repr

/-- The activation generation of a clause. -/
def actGenOf (d : Dev) (id : Nat) : Nat := ((clauseOf d id).map fun c => c.actGen).getD 0

/-- The buffers of the sender that `src` names. -/
def senderOf (d : Dev) (src : Src) : Sender :=
  match src with
  | .cell c => let x := cellAt d c; { sends := x.sends, gens := x.gens, dflt := actGenOf d (activeId x) }
  | _ => match (srcMover src).bind fun m => moverRun d (moverKey m) with
    | some r => { sends := r.sends, gens := r.gens, dflt := actGenOf d r.req.clause }
    | none => { sends := [], gens := [], dflt := 0 }
/-- Writes them back. -/
def setSender (src : Src) (s : Sender) (d : Dev) : Dev :=
  match src with
  | .cell c => updCell c (fun x => { x with sends := s.sends, gens := s.gens }) d
  | _ => match srcMover src with
    | some m => updRun (moverKey m) (fun r => { r with sends := s.sends, gens := s.gens }) d
    | none => d
/-- The clause of a sender and the cell that its records name: a mover's record has no cell (R303, R325). -/
def senderClause (d : Dev) (src : Src) : Nat :=
  match src with
  | .cell c => activeId (cellAt d c)
  | _ => match (srcMover src).bind fun m => moverRun d (moverKey m) with
    | some r => r.req.clause
    | none => 0

/-- A clause-fatal record at a sender: its cell, or for a mover no cell (R303, R325). -/
def recSender (code : Nat) (src : Src) (clause off d0 d1 : Nat) (d : Dev) : Dev :=
  match src with
  | .cell c => recCell code 1 c clause (some off) d0 d1 d
  | _ => record { code := code, severity := 1, rflags := 4, clause := clause, off := off, d0 := d0, d1 := d1 } d

/-- Issues a message or control of `src`: it leaves at once, or is held behind an earlier message for its queue (R272, R273). -/
def sendMsg (src : Src) (m : Sent) (d : Dev) : Dev :=
  let s := senderOf d src
  let held := m.ctl.isNone && blockedQueue s.sends m.dst m.q
  let m := { m with gen := stampGen s.gens s.dflt m.dst m.q, born := d.mesh.stamp, stamp := d.mesh.stamp, st := if held then .held else .inFlight }
  let d := setSender src { s with sends := s.sends ++ [m] } d
  if held then d else sentFlit src m d

/-- The message of a list whose flit left first. -/
def firstSent : List Sent → Option Sent
  | [] => none
  | m :: ms => match firstSent ms with
    | some n => if n.stamp < m.stamp then some n else some m
    | none => some m
/-- The message or control for a queue that the next completion answers: completions come back in the order in which the
flits left (R77, R273). -/
def inFlightFor (s : Sender) (c : LCell) (q : Nat) : Option Sent :=
  firstSent (s.sends.filter fun m => sameQueue c q m && m.st == .inFlight)
/-- Changes or removes the entry of one message or control. -/
def setSent (s : Sender) (m : Sent) (n : Option Sent) : Sender :=
  { s with sends := match n with
      | some n => mapFirst (fun k => decide (k = m)) (fun _ => n) s.sends
      | none => eraseFirst (fun k => decide (k = m)) s.sends }

/-- The oldest held message for a queue with no earlier one that has received FULL (R273). -/
def nextHeld (c : LCell) (q : Nat) : List Sent → Option Sent
  | [] => none
  | m :: ms =>
    if sameQueue c q m && m.ctl.isNone then (if m.st == .held then some m else if m.fulled then none else nextHeld c q ms)
    else nextHeld c q ms
/-- Sends the held messages for a queue in their order, up to one that follows a message not yet accepted after a FULL (R273);
one that leaves for the first time is stamped as it leaves (R278). -/
def releaseHeld (src : Src) (c : LCell) (q : Nat) : Nat → Dev → Dev
  | 0, d => d
  | n + 1, d =>
    let s := senderOf d src
    match nextHeld c q s.sends with
    | none => d
    | some m =>
      let k := { m with gen := if m.fulled then m.gen else stampGen s.gens s.dflt c q, stamp := d.mesh.stamp, st := .inFlight }
      releaseHeld src c q n (sentFlit src k (setSender src (setSent s m (some k)) d))

/-- The clock of the sender has stopped: it is fenced, or the device is FAULTED (R88, R510). -/
def senderStopped (d : Dev) : Src → Bool
  | .cell c => (cellAt d c).clockOff || d.ctl.state == .faulted
  | _ => false
/-- Resends the message for a queue that waits after its FULL (R273); a cell whose clock has stopped sends nothing (R88). -/
def resend (src : Src) (c : LCell) (q : Nat) (d : Dev) : Dev :=
  let s := senderOf d src
  match (if senderStopped d src then none else s.sends.find? fun m => sameQueue c q m && m.st == .full) with
  | none => d
  | some m =>
    let k := { m with stamp := d.mesh.stamp, st := .inFlight }
    sentFlit src k (setSender src (setSent s m (some k)) d)

/-- A message or control put in its place by the order in which the flits left. -/
def insertSent (m : Sent) : List Sent → List Sent
  | [] => [m]
  | n :: l => if m.stamp < n.stamp then m :: n :: l else n :: insertSent m l
/-- The FULL completions of a queue on their way to a sender, among all its completions, in the order that they were sent. -/
def fullsComing (d : Dev) (src : Src) (c : LCell) (q : Nat) : List Bool :=
  d.mesh.flits.filterMap fun f => if decide (f.src = .cell c) && decide (f.dst = src) then (match f.body with
    | .qcomp _ k _ r => if k = q ∧ r ≠ .resume then some (r == .full) else none
    | _ => none) else none
/-- Whether the message now at its queue left its sender behind one that has been answered FULL and is not yet accepted: it
is answered FULL too, so that messages are accepted in the order of their issue (R273; DEDUCED, notes/assumptions/18). Of
the sender's messages in flight, the last ones are those whose flits still travel, and those before this one have been
answered: their completions are on the way, in the same order. -/
def behindFull (d : Dev) (src : Src) (c : LCell) (q : Nat) : Bool :=
  let s := senderOf d src
  let go := (s.sends.filter fun m => sameQueue c q m && m.st == .inFlight).foldl (fun l m => insertSent m l) []
  let far := d.mesh.flits.countP fun f => decide (f.src = src) && decide (f.dst = .cell c) && (match f.body with
    | .qmsg k _ _ _ => k == q
    | .qctl k _ => k == q
    | _ => false)
  let n := go.length - far - 1
  match go[n]? with
  | some m =>
    (s.sends.any fun n => sameQueue c q n && n.fulled && decide (n.born < m.born)) ||
    (((go.take n).zip (fullsComing d src c q)).any fun x => x.2 && x.1.ctl.isNone && decide (x.1.born < m.born))
  | none => false

/-! ### Movers issue their reads and writes (R321-R323, R327, R328) -/

/-- SRC_ADDR. -/
def vmSrc (r : List Byte) : Nat := fld r 0x28 8
/-- DST_ADDR. -/
def vmDst (r : List Byte) : Nat := fld r 0x30 8
/-- E0-E2. -/
def vmExt (r : List Byte) (i : Nat) : Nat := fld r (0x38 + 4 * i) 4
/-- AFLAGS bit. -/
def vmFlag (r : List Byte) (i : Nat) : Bool := bit (fld r 0x6D 1) i
/-- QDST. -/
def vmQdst (r : List Byte) : Bool := vmFlag r 3
/-- The Noun window port of the source. -/
def vmSrcPort (r : List Byte) : Dir := dirOf (bits (fld r 0x6C 1) 3 2)
/-- The Noun window port of the destination. -/
def vmDstPort (r : List Byte) : Dir := dirOf (bits (fld r 0x6C 1) 1 0)
/-- The source byte address of byte `t` in copy order (R323). -/
def vmSrcByte (r : List Byte) (t : Nat) : Int :=
  let run := t / vmExt r 0
  (vmSrc r : Int) + (run / vmExt r 1 : Nat) * fldS r 0x50 8 + (run % vmExt r 1 : Nat) * fldS r 0x48 8 + (t % vmExt r 0 : Nat)
/-- The byte of a source line that a mover has read. -/
def MoverRun.srcByte (r : MoverRun) (t : Nat) : Byte :=
  let a := (vmSrcByte r.raw t).toNat
  match NMap.get none r.buf (a / 64) with
  | some l => l.getD (a % 64) 0
  | none => 0
/-- The line that a write carries: its bytes in place. -/
def MoverRun.lineOf (r : MoverRun) (w : MWrite) : List Byte :=
  List.replicate w.lo 0 ++ (List.range w.n).map (fun i => r.srcByte (w.t + i)) ++ List.replicate (64 - w.lo - w.n) 0
/-- Byte enables `lo` to `lo + n - 1`. -/
def spanEn (lo n : Nat) : W64 := BitVec.ofNat 64 ((2 ^ n - 1) * 2 ^ lo)

/-- RANK and KEY of a mover's request (R333): bulk, or what its consumer still holds by RATE and CBUF. -/
def moverRank (r : MoverRun) : Nat × Nat :=
  let rate := fld r.raw 0x70 4
  if rate = 0 then (2, 0)
  else
    let held : Int := (r.granted : Int) - (rate * r.age / 16 : Nat)
    if (fld r.raw 0x74 4 : Int) ≤ held then (4, 0) else (1, min 0xFFFF (held.toNat * 16 / rate))
/-- What asks for memory: the save or restore of a bench slice, or a mover's stream (R333). -/
inductive MemStream where
  | jig | mover (r : MoverRun)
  deriving DecidableEq, Repr
/-- RANK and KEY of a request (R333): Jig traffic goes at rank 3, behind every other but one of rank 4, which never goes. -/
def memRank : MemStream → Nat × Nat
  | .jig => (3, 0)
  | .mover r => moverRank r
/-- A request tag that no request of the mover in flight holds (R319). -/
def freshTag (r : MoverRun) : Nat :=
  ((List.range 256).find? fun t => !(r.readsOut.any fun x => x.1 == t) && !(r.writesOut.any fun x => x.1 == t)).getD 0

/-- Issues one line read: to a Noun cell by PORTS, to the device of a remote address, or to a memory controller. -/
def moverRead (id : MoverId) (r : MoverRun) (tag a : Nat) (d : Dev) : Dev :=
  let src := moverSrc id
  match placeOf 0 a with
  | .window => let t := windowCell a
    sendFlit src (.cell t.1) (.nounRead (vmSrcPort r.raw) t.2 r.req.clause r.off) d
  | .remote => fabRequest (moverKey id) 3 a (beBytes 4 64) d
  | _ => let k := moverRank r; memSend id src (readAgent d id a) [.memRead tag k.1 k.2 a] d
/-- Issues one write: a message, a line to a Noun cell, to another device, or to a memory controller. -/
def moverWrite (id : MoverId) (r : MoverRun) (w : MWrite) (tag : Nat) (d : Dev) : Dev :=
  let src := moverSrc id
  let line := r.lineOf w
  let en := spanEn w.lo w.n
  if vmQdst r.raw then
    match clauseOf d r.req.clause with
    | none => d
    | some cl =>
      let n := BitVec.ofNat 64 (vmDst r.raw)
      sendMsg src { dst := nameCell cl n, q := nameQ n, strict := vmFlag r.raw 2, pay := line, off := r.off } d
  else match placeOf 0 w.addr with
  | .window => let t := windowCell w.addr
    sendTwo src (.cell t.1) (.nounWrite (vmDstPort r.raw) t.2 r.req.clause r.off line) (.nounEnables en) d
  | .remote =>
    if (remoteTarget w.addr).any (fun t => placeOf 0 t == .signal) then fabRequest (moverKey id) 2 w.addr (beBytes 8 (fld r.raw 0x6E 2)) d
    else fabRequest (moverKey id) 1 w.addr (beBytes 8 en.toNat ++ beBytes 8 en.toNat ++ line) d
  | _ => let k := moverRank r
    memSend id src (writeAgent d id w.addr) [.memWrite tag k.1 k.2 w.addr en, .memLine line] d

/-- A mover issues up to `n` reads or writes: line reads in copy order with up to 64 in flight, and, once every source line
has been read, its writes in copy order with up to 64 in flight (R323; notes/assumptions/13, 27). -/
def moverIssue (id : MoverId) : Nat → Dev → Dev
  | 0, d => d
  | n + 1, d =>
    match moverRun d (moverKey id) with
    | none => d
    | some r =>
      if !moverGoes d r then d
      else match r.reads, r.writes with
        | a :: rest, _ =>
          if r.readsOut.length < 64 then
            let t := freshTag r
            moverIssue id n (moverRead id r t a (setRun (moverKey id) (some { r with reads := rest, readsOut := r.readsOut ++ [(t, a)] }) d))
          else d
        | [], w :: rest =>
          if r.readsOut.isEmpty && decide (r.writesOut.length + r.sends.length + r.fab.length < 64) then
            let t := freshTag r
            let out := if vmQdst r.raw || placeOf 0 w.addr == .remote then r.writesOut else r.writesOut ++ [(t, w.addr)]
            moverIssue id n (moverWrite id r w t (setRun (moverKey id) (some { r with writes := rest, writesOut := out }) d))
          else d
        | [], [] => d
/-- A mover goes on. -/
def moverAdvance (id : MoverId) (d : Dev) : Dev := moverSettle (moverKey id) (moverIssue id 128 d)

/-- Whether an acknowledgement of the line at `a` of a Noun cell, or of a message, is awaited. -/
def awaitsAck (acks : List Nat) (a : Option Nat) : Bool :=
  match a with
  | some a => acks.contains a
  | none => !acks.isEmpty
/-- The acknowledgements still awaited after one has come. -/
def ackOne (acks : List Nat) (a : Option Nat) : List Nat :=
  match a with
  | some a => eraseFirst (fun b => b == a) acks
  | none => acks.drop 1
/-- Whether an output waits for an acknowledgement of `t`. -/
def VecOut.awaits (y : VecOut) (t : LCell × Nat) (a : Option Nat) : Bool := decide (y.dest = t) && awaitsAck y.acks a
/-- The output with that acknowledgement. -/
def VecOut.acked (y : VecOut) (a : Option Nat) : VecOut := { y with acks := ackOne y.acks a }
/-- An engine learns that the destination `t` (a cell, with a queue or 64 for a Noun port) has acknowledged one of its
lines, the one at address `a` of a Noun cell: the oldest descriptor that waits for it counts it (R108, R167, R274). -/
def engineAck (src : Src) (t : LCell × Nat) (a : Option Nat) (d : Dev) : Dev :=
  match src with
  | .cell c => updCell c (fun x => { x with
      mats := mapFirst (fun r => decide (r.dest = t) && awaitsAck r.acks a) (fun r => { r with acks := ackOne r.acks a }) x.mats
      vecs := mapFirst (fun r => r.y0.awaits t a || r.y1.awaits t a)
        (fun r => if r.y0.awaits t a then { r with y0 := r.y0.acked a } else { r with y1 := r.y1.acked a }) x.vecs }) d
  | _ => match srcMover src with
    | some id => moverAdvance id d
    | none => d

/-- A stall that is over counts no further: the next one begins at 0 (R287). -/
def settleStall (src : Src) (d : Dev) : Dev :=
  match src with
  | .cell c => if stalled d c then d else updCell c (fun x => { x with stall := 0, stallRec := false }) d
  | _ => d

/-- What a sender learns of a queue's generation from a completion (R278). -/
def learned (s : Sender) (m : Sent) (c : LCell) (q gen : Nat) : Sender :=
  if m.gen = gen then s else { s with gens := learnGen s.gens c q gen }

/-- A completion that frees the message: the generation is learned and later messages go (R273, R274, R278). -/
def completed (src : Src) (c : LCell) (q gen : Nat) (d : Dev) : Dev :=
  let s := senderOf d src
  match inFlightFor s c q with
  | none => d
  | some m =>
    let d := setSender src (learned (setSent s m none) m c q gen) d
    let d := if m.ctl.isNone then engineAck src (c, q) none d else d
    settleStall src (releaseHeld src c q s.sends.length d)

/-- Bits [18:13] row, [12:7] column, [6:0] queue (R277). -/
def destCode (c : LCell) (q : Nat) : Nat := c.row * 8192 + c.col * 128 + q

/-- The cause code of R277. -/
def causeCode : ClosedCause → Nat
  | .closed => 0
  | .draining => 1
  | .stale => 2

/-! ### Taking entries (R262, R275, R280-R286) -/

/-- A completion flit of queue `q` (R272). -/
def reply (c : LCell) (q : Nat) (src : Src) (res : QRes) (d : Dev) : Dev :=
  sendFlit (.cell c) src (.qcomp c q (queueOf (cellAt d c) q).gen res) d

/-- Sends RESUME to the oldest waiter of queue `q` (R272). -/
def resumeOne (c : LCell) (q : Nat) (d : Dev) : Dev :=
  match (cellAt d c).waiters.find? fun w => w.1 == q with
  | none => d
  | some w => reply c q w.2 .resume (updCell c (fun x => { x with waiters := eraseFirst (fun w => w.1 == q) x.waiters }) d)
/-- Sends RESUME once for each of `n` freed entries. -/
def resumeN (c : LCell) (q : Nat) : Nat → Dev → Dev
  | 0, d => d
  | n + 1, d => resumeN c q n (resumeOne c q d)
/-- A mailbox entry frees: RESUME goes to the oldest waiter of the queues bound to port M (R268). -/
def resumeMailbox (c : LCell) (d : Dev) : Dev :=
  let x := cellAt d c
  match x.waiters.find? fun w => qPort (activeData x) w.1 == 11 with
  | none => d
  | some w => resumeOne c w.1 d

/-- The contributions to the oldest undelivered slot, in declared producer order, where every producer has contributed
(R283, R284). A slot that has lost one never delivers, nor does a later one (R286). -/
def combSlot (prods : List Nat) (k : Queue) : Option (List (List Byte)) :=
  prods.foldr (fun p acc => match acc, contribTo k k.slot p with
    | some l, some e => some (e.pay :: l)
    | _, _ => none) (some [])

/-- A queue with nothing that its port can ever take: empty, or a combining queue without a complete slot (R275, R286). -/
def queueSpent (prods : List Nat) (comb : Bool) (k : Queue) : Bool :=
  if comb then k.ready.isEmpty && (combSlot prods k).isNone else k.entries.isEmpty

/-- Whether the port can take from queue `q` now. -/
def queueHas (x : Cell) (q : Nat) : Bool :=
  let k := queueOf x q
  if qComb (activeData x) q then !k.ready.isEmpty else !k.entries.isEmpty

/-- The member that a port takes from (R280-R282): the queue itself, the lowest member that holds an entry under
priority, the member in turn under rotation, passing members that are CLOSED and empty. -/
def takeMember (x : Cell) (q : Nat) : Option Nat :=
  let s := activeData x
  if !qGrouped s q then (if queueHas x q then some q else none)
  else
    let g := qGroup s q
    let ms := qMembers s q
    if qPriority s g then ms.find? fun j => queueHas x j
    else
      let r := NMap.get 0 x.rot g
      let turn := ms.filter (fun j => decide (r ≤ j)) ++ ms.filter (fun j => decide (j < r))
      match turn.find? fun j => !((queueOf x j).st == .closed && !queueHas x j) with
      | some j => if queueHas x j then some j else none
      | none => none

/-- The declared producers of queue `q` of a cell. -/
def prodsOf (d : Dev) (c : LCell) (q : Nat) : List Nat :=
  match activeClause d c with
  | some cl => producers cl (activeData (cellAt d c)) q
  | none => []

/-- A queue that has nothing left to give becomes CLOSED where it is DRAINING; incomplete slots are dropped and counted
(R275, R286). -/
def closeIfSpent (c : LCell) (q : Nat) (d : Dev) : Dev :=
  let x := cellAt d c
  let k := queueOf x q
  if k.st == .draining && queueSpent (prodsOf d c q) (qComb (activeData x) q) k then
    resumeN c q k.entries.length (updCell c (fun x => { updQueue q (fun k => { k with st := .closed, entries := [] }) x with
      win := { x.win with queueDropped := satAdd 32 x.win.queueDropped k.entries.length } }) d)
  else d

/-- The bytes at the head of queue `q`. -/
def headOf (x : Cell) (q : Nat) : List Byte :=
  let k := queueOf x q
  if qComb (activeData x) q then k.ready.headD [] else (k.entries.head?.map fun e => e.pay).getD []

/-- Takes the head entry of member `q`, frees it and turns the group's rotation (R262, R272, R275, R281). -/
def takeEntry (c : LCell) (q : Nat) (d : Dev) : Dev :=
  let s := activeData (cellAt d c)
  let d := updCell c (fun x => { updQueue q (fun k => if qComb s q then { k with ready := k.ready.drop 1 } else { k with entries := k.entries.drop 1 }) x with
    rot := if qGrouped s q then NMap.set 0 x.rot (qGroup s q) (q + 1) else x.rot }) d
  closeIfSpent c q (resumeOne c q d)

/-! ### Arrivals -/

/-- A message that a combining or ordinary queue has room for (R272, R283, R285). -/
def hasRoom (d : Dev) (c : LCell) (q : Nat) (src : Src) : Bool :=
  let x := cellAt d c
  let s := activeData x
  let k := queueOf x q
  if qPort s q = 11 then decide (x.conj.mbox.length < 16)
  else if qComb s q then
    let held := (contribs k (srcCode src)).length + (if (prodsOf d c q).head? = some (srcCode src) then k.ready.length else 0)
    decide (held < qDepth s q / qProds s q)
  else decide (k.entries.length < qDepth s q)

/-- A discarded message: counted, and answered CLOSED (R277). -/
def discardMsg (c : LCell) (q : Nat) (src : Src) (res : QRes) (d : Dev) : Dev :=
  reply c q src res (updCell c (fun x => { x with win := { x.win with queueDiscarded := satAdd 32 x.win.queueDiscarded 1 } }) d)

/-- A message answered FULL, its source placed in the waiter list where one of the 32 places is free (R272). -/
def fullMsg (c : LCell) (q : Nat) (src : Src) (d : Dev) : Dev :=
  reply c q src .full (updCell c (fun x =>
    if x.waiters.length < 32 && !(x.waiters.any fun w => decide (w = (q, src))) then { x with waiters := x.waiters ++ [(q, src)] } else x) d)

/-- An accepted message (R262, R268). -/
def acceptMsg (c : LCell) (q : Nat) (src : Src) (pay : List Byte) (d : Dev) : Dev :=
  let s := activeData (cellAt d c)
  reply c q src .accepted
    (if qPort s q = 11 then updConj c (fun k => { k with mbox := k.mbox ++ [pay] }) d
     else updCell c (updQueue q fun k => if qComb s q then k.contribute src pay else { k with entries := k.entries ++ [{ src := src, pay := pay }] }) d)

/-- What a queue does with a message (R275-R277, R286). -/
def arriveMsg (c : LCell) (q gen : Nat) (src : Src) (pay : List Byte) (d : Dev) : Dev :=
  let x := cellAt d c
  let s := activeData x
  let k := queueOf x q
  if x.fence != .none then discardMsg c q src .fenced d
  else if k.clamped then (if k.clampDead then discardMsg c q src (.closed .closed) d else fullMsg c q src d)
  else if k.st == .closed then discardMsg c q src (.closed .closed) d
  else if k.st == .draining then discardMsg c q src (.closed .draining) d
  else if k.gen ≠ gen then discardMsg c q src (.closed .stale) d
  else if qComb s q && !((prodsOf d c q).contains (srcCode src)) then
    recCell 0x0305 1 c (activeId x) none q (srcCode src) (discardMsg c q src (.closed .closed) d)
  else if hasRoom d c q src && !behindFull d src c q then acceptMsg c q src pay d
  else fullMsg c q src d

/-- QUEUE_MESSAGE (R275). -/
def execQueueMessage (c : LCell) (q gen : Nat) (strict : Bool) (src : Src) (pay : List Byte) (s : State) : Out :=
  onDev (arrive src (.cell c) [.qmsg q gen strict pay] (arriveMsg c (q % 64) (gen % 256) src (padTo 64 (pay.take 64)))) s

/-- What a queue does with a control (R275). -/
def controlQueue (c : LCell) (q : Nat) (op : QOp) (d : Dev) : Dev :=
  let x := cellAt d c
  let s := activeData x
  let k := queueOf x q
  match op with
  | .qopen =>
    if qUsed s q && k.st != .open then updCell c (updQueue q fun k => { k with st := .open }) d else d
  | .qclose =>
    if k.st == .open then closeIfSpent c q (updCell c (updQueue q fun k => { k with st := .draining }) d) else d
  | .qreset =>
    resumeN c q (k.entries.length + k.ready.length)
      (updCell c (fun x =>
        let x := updQueue q (fun k => { k.restart with gen := (k.gen + 1) % 256, st := if k.st == .draining then .closed else k.st }) x
        { x with win := { x.win with queueDropped := satAdd 32 x.win.queueDropped (k.entries.length + k.ready.length) } }) d)

/-- A control flit at its queue: performed and answered ACCEPTED, or FENCED (R272, R275). -/
def arriveCtl (c : LCell) (q : Nat) (op : QOp) (src : Src) : Dev → Dev :=
  arrive src (.cell c) [.qctl q op] fun d =>
    if (cellAt d c).fence != .none then reply c q src .fenced d
    else reply c q src .accepted (controlQueue c q op d)

/-- QCTL_QOPEN (R275). -/
def execQctlQopen (c : LCell) (q : Nat) (src : Src) (s : State) : Out := onDev (arriveCtl c q .qopen src) s
/-- QCTL_QCLOSE (R275). -/
def execQctlQclose (c : LCell) (q : Nat) (src : Src) (s : State) : Out := onDev (arriveCtl c q .qclose src) s
/-- QCTL_QRESET (R275). -/
def execQctlQreset (c : LCell) (q : Nat) (src : Src) (s : State) : Out := onDev (arriveCtl c q .qreset src) s

/-! ### Completions at the sender (R272-R278) -/

/-- A completion of queue `q` of cell `c` reaches the sender `dst` (R272). -/
def completion (dst : Src) (c : LCell) (q gen : Nat) (res : QRes) (f : Dev → Dev) : Dev → Dev :=
  arrive (.cell c) dst [.qcomp c q gen res] f

/-- QCOMP_ACCEPTED. -/
def execQcompAccepted (dst : Src) (c : LCell) (q gen : Nat) (s : State) : Out :=
  onDev (completion dst c q gen .accepted (completed dst c q gen)) s

/-- QCOMP_CLOSED: a strict message records SEND_TO_CLOSED (R277). -/
def execQcompClosed (dst : Src) (c : LCell) (q gen : Nat) (cause : ClosedCause) (s : State) : Out :=
  onDev (completion dst c q gen (.closed cause) fun d =>
    let cl := senderClause d dst
    match inFlightFor (senderOf d dst) c q with
    | none => d
    | some m =>
      let d := completed dst c q gen d
      if m.strict && m.ctl.isNone then
        recSender 0x0301 dst cl m.off (destCode c q) (causeCode cause * 0x10000 + m.gen * 256 + gen % 256) d
      else d) s

/-- QCOMP_FULL: the message waits for RESUME or 64 cycles, or behind an earlier one that already does (R273). -/
def execQcompFull (dst : Src) (c : LCell) (q gen : Nat) (s : State) : Out :=
  onDev (completion dst c q gen .full fun d =>
    let t := senderOf d dst
    match inFlightFor t c q with
    | none => d
    | some m =>
      let behind := t.sends.any fun n => sameQueue c q n && n.fulled && decide (n.born < m.born)
      setSender dst (learned (setSent t m (some { m with st := if behind then .held else .full, fulled := true })) m c q gen) d) s

/-- QCOMP_RESUME: the generation is learned as from any completion, and the message that waits is resent (R273, R278). -/
def execQcompResume (dst : Src) (c : LCell) (q gen : Nat) (s : State) : Out :=
  onDev (completion dst c q gen .resume fun d =>
    let t := senderOf d dst
    let d := match t.sends.find? fun m => sameQueue c q m && m.fulled with
      | some m => setSender dst (learned t m c q gen) d
      | none => d
    resend dst c q d) s

/-- QCOMP_FENCED: as CLOSED, and the requester records CELL_FENCED (R88, R272). -/
def execQcompFenced (dst : Src) (c : LCell) (q gen : Nat) (s : State) : Out :=
  onDev (completion dst c q gen .fenced fun d =>
    let cl := senderClause d dst
    match inFlightFor (senderOf d dst) c q with
    | none => d
    | some m => recSender 0x0102 dst cl m.off (lcellCode c) 0 (completed dst c q gen d)) s

/-- FULL_RESEND_TIMEOUT (R273). -/
def execFullResendTimeout (dst : Src) (c : LCell) (q : Nat) (s : State) : Out := onDev (resend dst c q) s

/-! ### Combining (R284) -/

/-- Corrected entries are counted as they are read out (R259). -/
def countEntries (c : LCell) (n : Nat) (d : Dev) : Dev :=
  if n = 0 then d else updCell c (fun x => { x with win := { x.win with queueCorrected := satAdd 32 x.win.queueCorrected n } }) d
/-- QUEUE_UPSET of queue `q` (R259). -/
def recQueueUpset (c : LCell) (q : Nat) (d : Dev) : Dev := recCell 0x0306 1 c (activeId (cellAt d c)) none q 0 d
/-- A port reads the head entry of queue `q` out and frees it: `g` acts on its bytes, or a double-bit error discards it and
records QUEUE_UPSET (R259, R262). -/
def readEntry (c : LCell) (q : Nat) (e : Ecc) (g : List Byte → Dev → Dev) (d : Dev) : Dev :=
  let bs := headOf (cellAt d c) q
  match e with
  | .good => takeEntry c q (g bs d)
  | .corrected => takeEntry c q (g bs (countEntries c 1 d))
  | .upset => recQueueUpset c q (takeEntry c q d)

/-- COMBINE_SLOT_DELIVER: the oldest slot is added in declared order; the other contributions' entries free (R284, R285). `es`
is what the check codes of the contributions show, in that order; one with a double-bit error is discarded, and its slot
stays incomplete (R259, R286). A cell whose clock has stopped adds nothing (R88). The numeric counts go to the cell that holds the queue, whatever its kind (DESIGN CHOICE,
notes/assumptions/77). -/
def execCombineSlotDeliver (c : LCell) (q : Nat) (s : State) (es : List Ecc := []) : Out :=
  onDev (fun d =>
    let x := cellAt d c
    let sd := activeData x
    let k := queueOf x q
    let prods := prodsOf d c q
    if !qComb sd q || senderStopped d (.cell c) then d
    else match combSlot prods k with
      | none => d
      | some parts =>
        let d := countEntries c ((es.take prods.length).countP fun e => e == .corrected) d
        let bad := (prods.zip es).filter fun p => p.2 == .upset
        let without (ps : List Nat) : List QEntry := ps.foldl (fun l p => eraseFirst (fun e => srcCode e.src == p && e.slot == k.slot) l) k.entries
        if bad.isEmpty then
          let r := combineLines (qCfmt sd q) parts
          let d := updCell c (updQueue q fun k => { k with entries := without prods, ready := k.ready ++ [r.1], slot := k.slot + 1 }) d
          resumeN c q (prods.length - 1) (addCtr c r.2 d)
        else
          let d := updCell c (updQueue q fun k => { k with entries := without (bad.map fun p => p.1) }) d
          bad.foldl (fun d _ => recQueueUpset c q d) (resumeN c q bad.length d)) s

end Sys2Proof.Machine
end

