-- ==== Sys2Proof/Machine/Descriptor.lean ====
section
/-! DEFINITION. What all descriptors share (R191-R198, R482-R485): the store, the header, parameters, port words, checks,
extents, pending places, neighbour accesses, output lines and completion signals. -/
namespace Sys2Proof.Machine

/-- A check that fails: the code and detail words of its record; none where it passes. -/
abbrev Check := Option (Nat × Nat × Nat)

/-- Fails with `r` where `b` holds. -/
def failIf (b : Bool) (r : Nat × Nat × Nat) : Check := if b then some r else none
/-- The first check that fails (R194). -/
def firstFail : List Check → Check
  | [] => none
  | some r :: _ => some r
  | none :: cs => firstFail cs
/-- DESCRIPTOR_FORM at a field (R194). -/
def formFail (off val : Nat) : Nat × Nat × Nat := (0x0506, off, val % 2 ^ 32)
/-- The low 32 bits of an address (R485). -/
def low32 (z : Int) : Nat := wrapN 32 z

/-! ### The store and the header (R191-R195) -/

/-- The offset and `n` bytes of descriptor `idx` of a store, where the index is below D (R191). -/
def descAt (st : List Byte) (idx n : Nat) : Option (Nat × List Byte) :=
  if idx < fld st 0 2 then let o := 8 * fld st (2 + 2 * idx) 2; some (o, padTo n (slice st o n)) else none
/-- KIND of descriptor `idx`; none for an index not below D. -/
def descKind (st : List Byte) (idx : Nat) : Option Nat := (descAt st idx 4).map fun p => fld p.2 0 2

/-- A field that a declaration may name: its FIELD code, its byte offset and size, and its operand number of R485. -/
structure ParamField where
  code : Nat
  off  : Nat
  size : Nat
  opnd : Nat
  deriving DecidableEq, Repr

/-- Declaration `i` of a header. -/
def paramDecl (raw : List Byte) (i : Nat) : Nat := fld raw (8 + 8 * i) 8
/-- PCOUNT and the declarations in use (R194 step 1, R196). -/
def headerCheck (raw : List Byte) (fields : List ParamField) : Check :=
  let n := fld raw 6 1
  if 4 < n then some (formFail 6 n)
  else firstFail ((List.range n).map fun i =>
    failIf (!(bits (paramDecl raw i) 63 56 == 2 || fields.any fun f => f.code == bits (paramDecl raw i) 63 56)) (formFail (8 + 8 * i) (paramDecl raw i)))

/-- SIGNAL in use as a signed value: the stored field with the declarations that name it (R196). -/
def signalUsed (raw : List Byte) (p0 p1 : W64) : Int :=
  (List.range (fld raw 6 1)).foldl (fun v i =>
    let d := paramDecl raw i
    if bits d 63 56 = 2 then sgn 64 (wrapN 64 (v + (if bit d 55 then p1 else p0).toNat * sgn 32 (bits d 31 0))) else v)
    (fld raw 4 2 : Nat)
/-- Applies the declarations in order: the record with the results in place of the stored fields, or the first result that
does not fit its field (R196). -/
def applyParams (fields : List ParamField) (raw : List Byte) (p0 p1 : W64) : List Byte × Check :=
  (List.range (fld raw 6 1)).foldl (fun (r : List Byte × Check) i =>
    let d := paramDecl raw i
    match r.2, fields.find? fun f => f.code == bits d 63 56 with
    | none, some f =>
      let v := sgn 64 (wrapN 64 ((fld r.1 f.off f.size : Nat) + (if bit d 55 then p1 else p0).toNat * sgn 32 (bits d 31 0)))
      if v < 0 ∨ (2 ^ 32 : Nat) ≤ v then (r.1, some (0x0601, f.opnd * 256 + 4, low32 v)) else (setFld r.1 f.off f.size v.toNat, none)
    | _, _ => r) (raw, none)
/-- SIGNAL_RANGE: a value that is neither 0xFFFF nor below the clause's SIGNALS (R194 step 4). -/
def signalCheck (sigs : Nat) (v : Int) : Check := failIf (!(decide (v = 0xFFFF) || (decide (0 ≤ v) && decide (v < (sigs : Int))))) (0x0402, low32 v, 0)
/-- The record with its SIGNAL in use. -/
def withSignal (raw : List Byte) (p0 p1 : W64) : List Byte := setFld raw 4 2 (wrapN 16 (signalUsed raw p0 p1))

/-! ### Port words (R198, R266) -/

/-- MODE. -/
def pwMode (w : Nat) : Nat := bits w 31 30
/-- DIR. -/
def pwDir (w : Nat) : Dir := dirOf (bits w 29 28)
/-- QUEUE. -/
def pwQueue (w : Nat) : Nat := bits w 27 22
/-- QROW. -/
def pwRow (w : Nat) : Nat := bits w 21 16
/-- QCOL. -/
def pwCol (w : Nat) : Nat := bits w 15 10
/-- An input port word: MODE defined, not unused where it must be used, its queue bound to the port (R198, R199). -/
def inPortCheck (s : SlotData) (code off w : Nat) (must : Bool) : Check :=
  failIf (pwMode w == 3 || (pwMode w == 0 && must) || (pwMode w == 2 && qPort s (pwQueue w) != code)) (formFail off w)
/-- An output queue in a cell outside the region (R194). -/
def outPortCheck (cl : Clause) (row col : Nat) : Check :=
  failIf (!(decide (row < cl.rows) && decide (col < cl.cols))) (0x0105, relCode row col, 0)

/-! ### Extents and operand-file areas (R94, R483-R485) -/

/-- Bytes of the operand file (R93, R141). -/
def opfileBytes : Nat := 262144
/-- Bytes of a Noun cell (R238). -/
def neighbourBytes : Nat := 2097152
/-- A view from byte `lo` to byte `hi` against its declared buffer, and against the `limit` bytes of the memory that holds
it (R483, R485). -/
def extentCheck (opnd : Nat) (lo hi : Int) (start len limit : Nat) : Check :=
  if lo < (start : Int) then some (0x0601, opnd * 256 + 1, low32 lo)
  else if ((start + len : Nat) : Int) ≤ hi ∨ (limit : Int) ≤ hi then some (0x0601, opnd * 256 + 2, low32 hi)
  else none
/-- The least of a list of integers, from a first one. -/
def minInt (l : List Int) : Int := l.foldl (fun a b => if b < a then b else a) (l.headD 0)
/-- The greatest of a list of integers. -/
def maxInt (l : List Int) : Int := l.foldl (fun a b => if a < b then b else a) (l.headD 0)
/-- The byte of a bit address, rounded down (R483). -/
def byteOf (bitAddr : Int) : Int := bitAddr / 8
/-- lo and hi in bytes of a view given by the bit address of its origin, its element width and its extents and strides in
bits (R483). -/
def viewBounds (base : Int) (w : Nat) (dims : List (Nat × Int)) : Int × Int :=
  let r := dims.foldl (fun (p : Int × Int) d =>
    let span := ((d.1 : Int) - 1) * d.2
    if span < 0 then (p.1 + span, p.2) else (p.1, p.2 + span)) (base, base + w - 1)
  (byteOf r.1, byteOf r.2)

/-- An operand-file area: first byte, bytes, and the operand number of its record. -/
structure Area where
  start : Nat
  len   : Nat
  opnd  : Nat
  deriving DecidableEq, Repr
/-- Two areas that share a byte. -/
def Area.meets (a b : Area) : Bool := decide (a.start < b.start + b.len) && decide (b.start < a.start + a.len) && decide (0 < a.len) && decide (0 < b.len)
/-- OPFILE_OVERLAP: the first pair that overlaps and is not permitted to; `unit` is what its detail words count in (R94). -/
def overlapCheck (unit_ : Nat) (ok : Area → Area → Bool) : List Area → Check
  | [] => none
  | a :: as =>
    match as.find? fun b => a.meets b && !ok a b with
    | some b => some (0x0503, a.start / unit_, b.start / unit_)
    | none => overlapCheck unit_ ok as
/-- Areas that leave the operand file (R94, R484). -/
def areaExtents (as : List Area) : Check :=
  firstFail (as.map fun a => failIf (decide (0 < a.len) && decide (opfileBytes < a.start + a.len)) (0x0601, a.opnd * 256 + 2, (a.start + a.len - 1) % 2 ^ 32))

/-! ### Pending places (R103, R165, R176) -/

/-- The pending places of an engine. -/
def pendOf (x : Cell) : Engine → List Launch
  | .smm => x.pendS
  | _ => x.pend
/-- Sets the pending places of an engine. -/
def setPend (e : Engine) (l : List Launch) (x : Cell) : Cell :=
  match e with
  | .smm => { x with pendS := l }
  | _ => { x with pend := l }
/-- The pending places that an engine shares. -/
def sameEngine (a b : Engine) : Bool := (a == .smm) == (b == .smm)

/-- The launch buffer of the cell that sent a launch becomes free (R176). -/
def freeLaunch (c : LCell) (l : Launch) (d : Dev) : Dev :=
  settleStall (.cell l.src) (updConj l.src (fun k => if k.launch = some (c, l) then { k with launch := none } else k) d)

/-- Takes the head of an engine's pending places; the oldest launch that waits moves in (R176). -/
def takePending (c : LCell) (e : Engine) (d : Dev) : Dev :=
  let x := cellAt d c
  let d := updCell c (setPend e ((pendOf x e).drop 1)) d
  match x.waitL.find? fun l => sameEngine l.eng e with
  | none => d
  | some l =>
    freeLaunch c l (updCell c (fun x => setPend e (pendOf x e ++ [l]) { x with waitL := eraseFirst (fun k => sameEngine k.eng e) x.waitL }) d)

/-- The launch that a cell's buffer holds for `c`, where it is the one that the flit carries; else the flit's content alone. -/
def launchSent (d : Dev) (c : LCell) (l : Launch) : Launch :=
  match (cellAt d l.src).conj.launch with
  | some (t, k) => if t = c ∧ { k with off := l.off, born := l.born } = l then k else l
  | none => l

/-- A launch at a fenced cell: discarded and counted by the cell's router, and its sender records CELL_FENCED as for a message
(R88, R176, R234). -/
def launchFenced (c : LCell) (l : Launch) (d : Dev) : Dev :=
  let d := updCell c (fun x => { x with win := { x.win with queueDiscarded := satAdd 32 x.win.queueDiscarded 1 } }) d
  freeLaunch c l (recCell 0x0102 1 l.src (activeId (cellAt d l.src)) (some l.off) (lcellCode c) 0 d)

/-- LAUNCH_ARRIVAL (R176): the launch takes a pending place of its engine or waits in its sender's buffer, as it does while
the cell is under reload (R425); at a fenced cell it is discarded (R88, R234). -/
def execLaunchArrival (c : LCell) (src : LCell) (idx : BitVec 10) (eng : Engine) (p0 p1 : W64) (s : State) : Out :=
  onDev (arrive (.cell src) (.cell c) [.launch idx.toNat eng p0 p1] fun d =>
    let l := launchSent d c { idx := idx.toNat, eng := eng, p0 := p0, p1 := p1, src := src }
    let x := cellAt d c
    if x.fence != .none then launchFenced c l d
    else if (pendOf x eng).length < 4 && !reloadHolds d (phys d c) then freeLaunch c l (updCell c (setPend eng (pendOf x eng ++ [l])) d)
    else updCell c (fun x => { x with waitL := x.waitL ++ [l] }) d) s

/-- SEND_STALL (R287, R288): once per stall, with the severity that HOLD_ON_STALL sets. -/
def execSendStall (c : LCell) (s : State) : Out :=
  onDev (fun d =>
    let x := cellAt d c
    let sd := activeData x
    if stalled d c && !x.stallRec && decide (watchdog sd ≠ 0) && decide (watchdog sd ≤ x.stall) then
      let t := stallDest d c
      recCell 0x0302 (if holdOnStall sd then 1 else 0) c (activeId x) none (destCode t.1 t.2) x.stall
        (updCell c (fun x => { x with stallRec := true }) d)
    else d) s

/-! ### Neighbour accesses and output lines (R67, R97, R202) -/

/-- A neighbour that the cell can use: it exists and lies in the region of the cell's ACTIVE clause (R67). -/
def usable (d : Dev) (c : LCell) (o : Dir) : Option LCell :=
  match activeClause d c, neighbour c o with
  | some cl, some n => if cl.has n then some n else none
  | _, _ => none
/-- NEIGHBOUR_OUTSIDE (R67). -/
def neighbourFail (c : LCell) (o : Dir) : Nat × Nat × Nat :=
  (0x0101, dirCode o, match neighbour c o with
    | some n => lcellCode n
    | none => 0xFFFFFFFF)
/-- Records a refused check of a descriptor at the cell that runs it (R177). -/
def refuseDesc (c : LCell) (off : Option Nat) (r : Nat × Nat × Nat) (d : Dev) : Dev :=
  recCell r.1 1 c (activeId (cellAt d c)) off r.2.1 r.2.2 d
/-- Sends a read of the line at `addr` to the neighbour `n` that lies towards `o`. -/
def askLine (c n : LCell) (o : Dir) (addr off : Nat) (d : Dev) : Dev :=
  sendFlit (.cell c) (.cell n) (.nounRead (dirOpp o) addr (activeId (cellAt d c)) off) d
/-- Sends reads of lines. -/
def askLines (c n : LCell) (o : Dir) (off : Nat) (as : List Nat) (d : Dev) : Dev := as.foldl (fun d a => askLine c n o a off d) d

/-- Line reads that a port keeps in flight, and the lines that it reads ahead of the K step or lane group at hand (R98). -/
def portFlight : Nat := 64
/-- The lines that a port asks for next, with their K step or lane group, and what it has left (R98): at most `room` more in
flight, and at most `ahead` more for a step after `cur`. `lines` gives the lines of a step, of which there are `n`. -/
def nextAsks (lines : Nat → List Nat) (n cur : Nat) : Nat → Nat → Nat → Ask → List (Nat × Nat) × Ask
  | 0, _, _, a => ([], a)
  | fuel + 1, room, ahead, a =>
    match a.left with
    | l :: ls =>
      let beyond := decide (cur < a.step)
      if room = 0 || (beyond && ahead == 0) then ([], a)
      else
        let r := nextAsks lines n cur fuel (room - 1) (if beyond then ahead - 1 else ahead) { a with left := ls }
        ((a.step, l) :: r.1, r.2)
    | [] => if a.step + 1 < n then nextAsks lines n cur fuel room ahead { step := a.step + 1, left := lines (a.step + 1) } else ([], a)
/-- What port `p` asks for, where it has the lines `need` in flight and `got` at hand (R98; DESIGN CHOICE,
notes/assumptions/60: how far a port reads ahead). -/
def portAsks (lines : Nat → List Nat) (n cur p : Nat) (need : List Need) (got : List Got) (a : Ask) : List (Nat × Nat) × Ask :=
  let flight := need.countP fun k => k.port == p
  let beyond := (need.countP fun k => k.port == p && decide (cur < k.step)) + got.countP fun g => g.port == p && decide (cur < g.step)
  nextAsks lines n cur 160 (portFlight - flight) (portFlight - beyond) a
/-- Every line of step `cur` has been asked for and has come. -/
def stepReady (need : List Need) (asks : List Ask) (cur : Nat) : Bool :=
  (need.all fun k => k.step != cur) && asks.all fun a => decide (cur < a.step) || (a.step == cur && a.left.isEmpty)

/-- Adds a number to a rising list of distinct numbers. -/
def insertInt (a : Int) : List Int → List Int
  | [] => [a]
  | b :: bs => if a < b then a :: b :: bs else if a = b then b :: bs else b :: insertInt a bs
/-- The lines, as rising byte addresses, that hold elements of `w` bits at the given bit addresses (R202). -/
def linesOf (w : Nat) (as : List Int) : List Int :=
  as.foldl (fun l a => insertInt ((a + w - 1) / 512 * 64) (insertInt (a / 512 * 64) l)) []

/-- A line that an element set has built, before its bytes are laid out. -/
structure Laid where
  addr : Nat
  bytes : NMap (Option Byte)
  nans : List (List Nat)
  deriving DecidableEq, Repr
/-- The line as it leaves: bytes that no element covers are zero and not enabled (R111, R202). -/
def Laid.out (l : Laid) : OutLine :=
  { addr := l.addr
    line := (List.range 64).map fun i => (NMap.get none l.bytes i).getD 0
    en := (List.range 64).foldl (fun e i => if (NMap.get none l.bytes i).isSome then e ||| (1#64 <<< i) else e) 0#64
    nans := l.nans }
/-- Puts one byte in the line of `addr`, opening a line where `same` finds none; a later byte stands (R149). -/
def layByte (a : Nat) (b : Byte) (nan : List (List Nat)) (ls : NMap Laid) : NMap Laid :=
  let k := a / 64
  let l := NMap.get ({ addr := 64 * k, bytes := [], nans := [] } : Laid) ls k
  NMap.insert ls k { l with bytes := NMap.insert l.bytes (a % 64) (some b), nans := l.nans ++ nan }
/-- Lays elements (byte address, bytes, coordinates of a NaN) into lines of rising address. -/
def layRow (es : List (Nat × List Byte × List (List Nat))) : List OutLine :=
  let ls := es.foldl (fun (m : NMap Laid) e =>
    (e.2.1.foldl (fun (p : NMap Laid × Nat × List (List Nat)) b => (layByte p.2.1 b p.2.2 p.1, p.2.1 + 1, [])) (m, e.1, e.2.2)).1) []
  ls.map fun p => p.2.out
/-- Lays elements in the order in which they are written: a line leaves when an element of another line follows (R149). -/
def laySeq (es : List (Nat × List Byte × List (List Nat))) : List OutLine :=
  let put (a : Nat) (b : Byte) (nan : List (List Nat)) (ls : List Laid) : List Laid :=
    match ls with
    | l :: rest =>
      if l.addr = a / 64 * 64 then { l with bytes := NMap.insert l.bytes (a % 64) (some b), nans := l.nans ++ nan } :: rest
      else { addr := a / 64 * 64, bytes := [(a % 64, some b)], nans := nan } :: l :: rest
    | [] => [{ addr := a / 64 * 64, bytes := [(a % 64, some b)], nans := nan }]
  let ls := es.foldl (fun (m : List Laid) e =>
    (e.2.1.foldl (fun (p : List Laid × Nat × List (List Nat)) b => (put p.2.1 b p.2.2 p.1, p.2.1 + 1, [])) (m, e.1, e.2.2)).1) []
  ls.reverse.map Laid.out

/-- Sends an output line of a cell: to its Noun neighbour `t.1` (queue number 64), or as a message to a queue (R202). -/
def sendLine (c : LCell) (t : LCell × Nat) (o : Dir) (off : Nat) (l : OutLine) (d : Dev) : Dev :=
  if t.2 = 64 then
    sendTwo (.cell c) (.cell t.1) (.nounWrite (dirOpp o) l.addr (activeId (cellAt d c)) off l.line) (.nounEnables l.en) d
  else sendMsg (.cell c) { dst := t.1, q := t.2, strict := strictOut (activeData (cellAt d c)), pay := l.line, off := off } d

/-! ### Completion (R197, R289) -/

/-- The word of a clause-relative signal. -/
def signalPlace (cl : Clause) (k : Nat) : Option (Nat × Nat) := if k < cl.signals then runAt cl.runs k else none
/-- Raises the completion signal of a descriptor: an ADD of 1 goes to the store (R197). -/
def raiseSignal (c : LCell) (off sig : Nat) (d : Dev) : Dev :=
  match activeClause d c with
  | none => d
  | some cl => match signalPlace cl sig with
    | none => d
    | some (f, w) => sendFlit (.cell c) (.store f) (.sigOp .add { src := .cell c, frame := f, word := w, v := 1, clause := cl.id, off := off }) d

/-- A descriptor of the engine `e` of cell `c` that may start now: the head of its pending places. -/
def headLaunch (d : Dev) (c : LCell) (k : Kind) (e : Engine) : Option Launch :=
  if engineReady d c && kindAt c.row c.col == k then (pendOf (cellAt d c) e).head? else none

end Sys2Proof.Machine
end

