-- ==== Sys2Proof/Machine/VecForm.lean ====
section
/-! DEFINITION. VECTOR descriptors: their fields and the checks of R194 (R145-R153, R208-R213). -/
namespace Sys2Proof.Machine

/-! ### Fields -/

/-- NSTAGE. -/
def vStages (r : List Byte) : Nat := fld r 0x28 1
/-- SUMDEST. -/
def vSumDest (r : List Byte) : Nat := fld r 0x2C 2
/-- Extent `k`. -/
def vExt (r : List Byte) (k : Nat) : Nat := fld r (0x30 + 4 * k) 4
/-- Constant `k`, 64 bits. -/
def vConst (r : List Byte) (k : Nat) : Nat := fld r (0x48 + 8 * k) 8
/-- The stage word of stage `s`, from 1. -/
def vWord (r : List Byte) (s : Nat) : Nat := fld r (0x80 + 8 * s) 8
/-- OP of a stage. -/
def vOp (r : List Byte) (s : Nat) : Nat := bits (vWord r s) 63 58
/-- TYPE of a stage. -/
def vType (r : List Byte) (s : Nat) : Nat := bits (vWord r s) 57 55
/-- S of a stage. -/
def vSat (r : List Byte) (s : Nat) : Bool := bit (vWord r s) 54
/-- SUB of a stage. -/
def vSub (r : List Byte) (s : Nat) : Nat := bits (vWord r s) 53 51
/-- RMODE of a stage. -/
def vMode (r : List Byte) (s : Nat) : Nat := bits (vWord r s) 50 49
/-- CFMT of a stage. -/
def vCfmt (r : List Byte) (s : Nat) : Nat := bits (vWord r s) 48 41
/-- Summary specification `i`. -/
def vSum (r : List Byte) (i : Nat) : Nat := fld r (0xC8 + 2 * i) 2
/-- Offset of view `i`: X0-X3, Y0, Y1. -/
def viewOff (i : Nat) : Nat := 0xE8 + 0x50 * i
/-- A byte field of view `i`. -/
def vByte (r : List Byte) (i o : Nat) : Nat := fld r (viewOff i + o) 1
/-- LOC. -/
def vLoc (r : List Byte) (i : Nat) : Nat := vByte r i 0
/-- FMT. -/
def vFmt (r : List Byte) (i : Nat) : Nat := vByte r i 1
/-- RMODE of an output. -/
def vOutMode (r : List Byte) (i : Nat) : Nat := vByte r i 2
/-- SRC of an output. -/
def vSrc (r : List Byte) (i : Nat) : Nat := vByte r i 3
/-- BASE. -/
def vBase (r : List Byte) (i : Nat) : Nat := fld r (viewOff i + 8) 4
/-- LENGTH. -/
def vLen (r : List Byte) (i : Nat) : Nat := fld r (viewOff i + 12) 4
/-- The stored stride of dimension `k`. -/
def vStride (r : List Byte) (i k : Nat) : Int := fldS r (viewOff i + 0x10 + 8 * k) 8
/-- The stride of dimension `k` in bits: STRIDE0 of a 4-bit view counts elements (R147). -/
def vBitStride (r : List Byte) (i k : Nat) : Int :=
  if k = 0 ∧ fmtBits (vFmt r i) = 4 then 4 * vStride r i 0 else 8 * vStride r i k
/-- SCALE_BASE. -/
def vScaleBase (r : List Byte) (i : Nat) : Nat := fld r (viewOff i + 0x40) 4
/-- SCALE_LEN. -/
def vScaleLen (r : List Byte) (i : Nat) : Nat := fld r (viewOff i + 0x44) 4
/-- SCALE_ROW. -/
def vScaleRow (r : List Byte) (i : Nat) : Int := fldS r (viewOff i + 0x48) 8
/-- GT_FMT. -/
def vGtFmt (r : List Byte) : Nat := fld r 0xD8 1
/-- GT_BASE. -/
def vGtBase (r : List Byte) : Nat := fld r 0xD0 4
/-- GT_LEN. -/
def vGtLen (r : List Byte) : Nat := fld r 0xD4 4
/-- Bytes of the gather table. -/
def vGtBytes (r : List Byte) : Nat := (vGtLen r * fmtBits (vGtFmt r) + 7) / 8

/-- An operand selector (R210). -/
inductive Sel where
  | none | bad
  | x (i : Nat)
  | st (s : Nat)
  | c (k : Nat)
  deriving DecidableEq, Repr
/-- The selector of a code. -/
def selOf (v : Nat) : Sel :=
  if v = 0 then .none
  else if v ≤ 4 then .x (v - 1)
  else if 8 ≤ v ∧ v ≤ 0x0F then .st (v - 7)
  else if 0x10 ≤ v ∧ v ≤ 0x17 then .c (v - 0x10)
  else .bad
/-- Operands that an operation takes (R212). -/
def opArity (op : Nat) : Nat :=
  if op = 4 ∨ op = 9 ∨ op = 0x0B then 3
  else if op = 7 ∨ op = 8 ∨ (0x0C ≤ op ∧ op ≤ 0x13) ∨ (0x1A ≤ op ∧ op ≤ 0x1D) then 1
  else 2
/-- The selectors of the operands that stage `s` takes. -/
def vSels (r : List Byte) (s : Nat) : List Sel :=
  let w := vWord r s
  [selOf (bits w 40 36), selOf (bits w 35 31), selOf (bits w 30 26)].take (opArity (vOp r s))
/-- The stages in use, from 1; at most 8. -/
def vStageList (r : List Byte) : List Nat := (List.range (min 8 (vStages r))).map fun i => i + 1
/-- The views in use. -/
def vViews (r : List Byte) : List Nat := (List.range 6).filter fun i => vLoc r i != 0
/-- The outputs in use. -/
def vOuts (r : List Byte) : List Nat := (vViews r).filter fun i => decide (4 ≤ i)
/-- A predicate stage. -/
def isPred (r : List Byte) (s : Nat) : Bool := vOp r s == 0x0A
/-- A reduction stage. -/
def isReduce (r : List Byte) (s : Nat) : Bool := vOp r s == 0x1D

/-- A float TYPE. -/
def tyFloat (t : Nat) : Bool := decide (t < 4)
/-- The format code of a TYPE (R115). -/
def tyCode (t : Nat) : Nat :=
  match t with
  | 0 => 0x01
  | 1 => 0x02
  | 2 => 0x06
  | 3 => 0x05
  | 4 => 0x10
  | 5 => 0x0F
  | _ => 0x0E
/-- The layout of a float TYPE. -/
def tyFmt (t : Nat) : FFmt := fmtF (tyCode t)
/-- The width of an integer TYPE. -/
def tyBits (t : Nat) : Nat := fmtBits (tyCode t)
/-- An OP and TYPE pair that R212 allows. -/
def opAllowed (op t : Nat) : Bool :=
  if 6 < t then false
  else if op = 4 then tyFloat t
  else if op = 0x0C ∨ op = 0x0D then decide (t < 2)
  else if 0x0E ≤ op ∧ op ≤ 0x13 then t == 1
  else if 0x14 ≤ op ∧ op ≤ 0x1A then !tyFloat t
  else decide (1 ≤ op) && decide (op ≤ 0x1D)
/-- Significant bits, highest and lowest exponent of a format's values. -/
def fmtSpan (k : Nat) : Nat × Int × Int :=
  if fmtInt k then (fmtBits k - 1, (fmtBits k : Int) - 1, 0)
  else let f := fmtF k; (f.fb + 1, f.maxE + f.fb, f.emin - f.fb)
/-- A format of the Adverb cells: not none, FP19 or paired (R123). -/
def fmtVec (k : Nat) : Bool := fmtKnown k && k != 3 && k != 4 && k != 0x12
/-- Whether every value of format `k` is exact in TYPE `t` (R119, R152). E8M0 suits FP32 and FP64 alone, as R119 names them,
though BF16 holds its values too (DESIGN CHOICE, notes/assumptions/81). -/
def widens (k t : Nat) : Bool :=
  if !fmtVec k then false
  else if fmtMx k || k == 0x13 then decide (t < 2)
  else if tyFloat t then
    let a := fmtSpan k
    let b := fmtSpan (tyCode t)
    decide (a.1 ≤ b.1) && decide (a.2.1 ≤ b.2.1) && decide (b.2.2 ≤ a.2.2)
  else fmtInt k && decide (fmtBits k ≤ tyBits t)

/-! ### Checks -/

/-- The fields that a VECTOR's declarations may name (R195). -/
def vecFields : List ParamField :=
  ((List.range 6).map fun i => { code := 0x10 + i, off := viewOff i + 8, size := 4, opnd := i }) ++
  [{ code := 0x16, off := 0xD0, size := 4, opnd := 6 }]

/-- The forms of a view (R147, R209). An INT4 or MXFP4 view whose STRIDE0 is neither 0 nor 1 fails at the stride (DESIGN CHOICE,
notes/assumptions/83). -/
def viewForm (cl : Clause) (s : SlotData) (r : List Byte) (i : Nat) : Check :=
  let o := viewOff i
  let loc := vLoc r i
  let src := vSrc r i
  if loc = 0 then none
  else firstFail [
    failIf (decide (6 < loc)) (formFail o loc),
    failIf (loc == 6 && fmtMx (vFmt r i)) (formFail o loc),
    failIf (decide (4 ≤ i) && decide (3 < vOutMode r i)) (formFail (o + 2) (vOutMode r i)),
    failIf (decide (4 ≤ i) && (src == 0 || decide (vStages r < src) || decide (8 < src) || isPred r src)) (formFail (o + 3) src),
    failIf (decide (i < 4) && loc == 6 && (decide (63 < vByte r i 4) || qPort s (vByte r i 4) != 6 + i)) (formFail (o + 4) (vByte r i 4)),
    failIf (decide (4 ≤ i) && loc == 6 && decide (63 < vByte r i 4)) (formFail (o + 4) (vByte r i 4)),
    (if 4 ≤ i ∧ loc = 6 then outPortCheck cl (vByte r i 5) (vByte r i 6) else none),
    failIf (loc != 6 && fmtKnown (vFmt r i) && fmtBits (vFmt r i) == 4 && vStride r i 0 != 0 && vStride r i 0 != 1) (formFail (o + 0x10) (wrapN 32 (vStride r i 0)))]
/-- The forms of a stage word (R210, R212): codes, required operands, inputs that are in use, and where predicates go. That an
input not in use fails, and an operand A of SEL that is no predicate, is a DESIGN CHOICE (notes/assumptions/83). -/
def stageForm (r : List Byte) (s : Nat) : Check :=
  let op := vOp r s
  let t := vType r s
  let sels := vSels r s
  let predOk (k : Nat) : Bool := k == 0 && (op == 0x0B || (op == 0x1D && vSub r s == 3))
  let bad := sels.zipIdx.any fun p => match p.1 with
    | .none => true
    | .bad => true
    | .x i => vLoc r i == 0
    | .st n => decide (n < s) && isPred r n && !predOk p.2
    | .c _ => false
  let selBad := op == 0x0B && (match sels.head? with
    | some (.st n) => decide (n < s) && !isPred r n
    | _ => true)
  failIf (!opAllowed op t || (op == 0x0A && decide (6 < vSub r s)) || (op == 0x1D && decide (4 < vSub r s)) || bad || selBad ||
      (op == 0x1C && (List.range s).any fun n => decide (0 < n) && vOp r n == 0x1C))
    (formFail (0x80 + 8 * s) (vWord r s))
/-- The forms of a summary specification (R213). -/
def sumForm (r : List Byte) (i : Nat) : Check :=
  let w := vSum r i
  let k := bits w 15 12
  let g := bits w 11 8
  let here := decide (1 ≤ g) && decide (g ≤ min 8 (vStages r))
  let ok := match k with
    | 0 => true
    | 1 => here && isReduce r g && vSub r g == 0
    | 2 => here && isReduce r g && vSub r g == 1
    | 3 => here && isReduce r g && vSub r g == 2
    | 4 => here && isReduce r g && vSub r g == 3
    | 5 => here && isReduce r g && vSub r g == 4
    | 6 => here && !isPred r g
    | 7 => here && vOp r g == 0x1C
    | _ => false
  failIf (!ok) (formFail (0xC8 + 2 * i) w)
/-- R194 step 1 of a VECTOR. -/
def vecForm (cl : Clause) (s : SlotData) (r : List Byte) : Check :=
  firstFail ([headerCheck r vecFields] ++ (vStageList r).map (stageForm r) ++ (List.range 4).map (sumForm r) ++
    (List.range 6).map (viewForm cl s r))

/-- The stages that take view `i`. -/
def takers (r : List Byte) (i : Nat) : List Nat := (vStageList r).filter fun s => (vSels r s).contains (.x i)
/-- The low byte of FORMAT_PAIR for a view: the TYPE of the first stage that takes it, 0 where none does or the code is not
defined (R115). Code 0x00, none, counts as not defined (DESIGN CHOICE, notes/assumptions/81). -/
def takerCode (r : List Byte) (i k : Nat) : Nat :=
  if fmtKnown k then match takers r i with
    | s :: _ => tyCode (vType r s)
    | [] => 0
  else 0
/-- The accumulation type of a TYPE, as a TYPE (R159). -/
def accType (t : Nat) : Nat := if tyFloat t then (if t = 0 then 0 else 1) else 4
/-- The type that the result of stage `n` has for a stage that reads it: a REDUCE carries its accumulation type, and a COUNT
a number of 32 bits (R159, R160). -/
def resultType (r : List Byte) (n : Nat) : Nat :=
  if isReduce r n then (if vSub r n = 3 then 4 else accType (vType r n)) else vType r n
/-- The index operand of a GATHER: INT16 or INT32 (R155). -/
def gatherIndexBad (r : List Byte) (s : Nat) : Option Nat :=
  match vSels r s with
  | .x i :: _ => if vFmt r i == 0x0F || vFmt r i == 0x10 then none else some (vFmt r i)
  | .st n :: _ => if n < s ∧ resultType r n ≠ 4 ∧ resultType r n ≠ 5 then some (tyCode (resultType r n)) else none
  | _ => none
/-- FORMAT_PAIR of one stage (R115, R152, R211). That a GATHER of a table in an MX format fails so, and code 0x00 in CFMT or
GT_FMT as one that is not defined, is a DESIGN CHOICE (notes/assumptions/81). -/
def stagePair (r : List Byte) (s : Nat) : Check :=
  let t := vType r s
  let op := vOp r s
  let fail (k : Nat) : Check := some (0x0504, k * 256 + (if fmtKnown k then tyCode t else 0), 0)
  firstFail ([
    (if op = 0x1B ∧ !widens (vCfmt r s) t then fail (vCfmt r s) else none),
    (if op = 0x1C ∧ (fmtMx (vGtFmt r) ∨ !widens (vGtFmt r) t) then fail (vGtFmt r) else none),
    (if op = 0x1C then (match gatherIndexBad r s with
      | some k => fail k
      | none => none) else none)] ++
    (vSels r s).zipIdx.map fun p => match p.1 with
      | .x i => if op = 0x1C then none else if widens (vFmt r i) t then none else fail (vFmt r i)
      | .st n =>
        if n ≥ s ∨ isPred r n ∨ op = 0x1C ∨ (op = 0x1B ∧ p.2 = 0) ∨ (0x14 ≤ op ∧ op ≤ 0x16 ∧ p.2 = 1) then none
        else if tyFloat (resultType r n) == tyFloat t && widens (tyCode (resultType r n)) t then none
        else fail (tyCode (resultType r n))
      | _ => none)
/-- R194 step 2 of a VECTOR. -/
def vecPair (r : List Byte) : Check :=
  firstFail (((vViews r).map fun i =>
      failIf (!fmtVec (vFmt r i)) (0x0504, vFmt r i * 256 + (if i < 4 then takerCode r i (vFmt r i) else 0), 0)) ++
    (vStageList r).map (stagePair r))

/-- CHAIN_FORM (R151). -/
def chainFail (cond stage : Nat) : Nat × Nat × Nat := (0x0505, cond, stage)
/-- The declared buffers of a view: its elements and, for an MX view, its scale bytes (R146, R148). -/
def viewAreas (r : List Byte) (i : Nat) : List Area :=
  { start := vBase r i, len := vLen r i, opnd := i } ::
    (if fmtMx (vFmt r i) then [{ start := vScaleBase r i, len := vScaleLen r i, opnd := 0x10 + i }] else [])
/-- Two outputs that name the same view (R151 condition 4). -/
def sameView (r : List Byte) : Bool :=
  vLoc r 4 != 0 && vLoc r 4 == vLoc r 5 &&
  (if vLoc r 4 = 6 then vByte r 4 4 == vByte r 5 4 && vByte r 4 5 == vByte r 5 5 && vByte r 4 6 == vByte r 5 6
   else (viewAreas r 4).any fun a => (viewAreas r 5).any a.meets)
/-- The extent that a view sees: dimension 0 of a reduction output counts 1 (R159). -/
def viewExt (r : List Byte) (i k : Nat) : Nat := if k = 0 ∧ 4 ≤ i ∧ isReduce r (vSrc r i) then 1 else vExt r k
/-- The Conjunction cell that SUMDEST names; none where it is no such cell of the region. -/
def sumCell (cl : Clause) (r : List Byte) : Option LCell :=
  let row := vSumDest r / 256
  let col := vSumDest r % 256
  let c := cl.absolute row col
  if row < cl.rows ∧ col < cl.cols ∧ kindAt c.row c.col = .conj then some c else none
/-- R194 step 3 of a VECTOR, over the record with its parameter results (R196). Detail word 1 is the stage that is fed for
condition 3 and the output's source stage for condition 5 (DESIGN CHOICE, notes/assumptions/63). -/
def vecChain (cl : Clause) (r : List Byte) : Check :=
  let n := vStages r
  firstFail [
    failIf (n == 0 || decide (8 < n)) (chainFail 1 0xFF),
    firstFail ((vStageList r).map fun s => failIf ((vSels r s).any fun k => match k with
      | .st m => decide (s ≤ m)
      | _ => false) (chainFail 2 s)),
    firstFail ((vStageList r).map fun s => failIf ((vSels r s).any fun k => match k with
      | .st m => isReduce r m
      | _ => false) (chainFail 3 s)),
    failIf (sameView r) (chainFail 4 0xFF),
    firstFail ((vOuts r).map fun i => failIf (vLoc r i != 6 && (List.range 6).any fun k => decide (1 < viewExt r i k) && vStride r i k == 0)
      (chainFail 5 (vSrc r i))),
    failIf (vSumDest r != 0xFFFF && (sumCell cl r).isNone) (chainFail 6 0xFF)]

/-- The operand-file buffers of a VECTOR (R148): views, scale buffers of MX views, and the gather table of a GATHER. -/
def vecAreas (r : List Byte) : List Area :=
  ((vViews r).flatMap fun i => if vLoc r i = 1 then viewAreas r i else []) ++
  (if (vStageList r).any fun s => vOp r s == 0x1C then [{ start := vGtBase r, len := vGtBytes r, opnd := 6 }] else [])
/-- An input and an output that make an in-place update (R148); their scale buffers have no such exception (DESIGN CHOICE,
notes/assumptions/64). -/
def inPlace (r : List Byte) (a b : Area) : Bool :=
  decide (a.opnd < 4) && decide (4 ≤ b.opnd) && decide (b.opnd < 6) && a.start == b.start &&
  fmtBits (vFmt r a.opnd) == fmtBits (vFmt r b.opnd) && (List.range 6).all fun k => vStride r a.opnd k == vStride r b.opnd k
/-- R194 step 6 of a VECTOR: views, then the gather table, then scale bytes. -/
def vecExtents (r : List Byte) : Check :=
  let limit (i : Nat) : Nat := if vLoc r i = 1 then opfileBytes else neighbourBytes
  let vs := (vViews r).filter fun i => vLoc r i != 6
  firstFail ((vs.map fun i =>
      let b := viewBounds (8 * (vBase r i : Int)) (fmtBits (vFmt r i)) ((List.range 6).map fun k => (viewExt r i k, vBitStride r i k))
      extentCheck i b.1 b.2 (vBase r i) (vLen r i) (limit i)) ++
    [if (vStageList r).any fun s => vOp r s == 0x1C then areaExtents [{ start := vGtBase r, len := vGtBytes r, opnd := 6 }] else none] ++
    ((vs.filter fun i => fmtMx (vFmt r i)).map fun i =>
      let e (k : Nat) : Nat := viewExt r i k
      let sr := 8 * vScaleRow r i
      let b := viewBounds (8 * (vScaleBase r i : Int)) 8
        [((e 0 + 31) / 32, 8), (e 1, sr), (e 2, sr * e 1), (e 3, sr * e 1 * e 2), (e 4, sr * e 1 * e 2 * e 3), (e 5, sr * e 1 * e 2 * e 3 * e 4)]
      extentCheck (0x10 + i) b.1 b.2 (vScaleBase r i) (vScaleLen r i) (limit i)))
/-- An empty VECTOR (R482). -/
def vecEmpty (r : List Byte) : Bool := (List.range 6).any fun k => vExt r k == 0

/-- The checks of R194 on a VECTOR. -/
def vecChecks (cl : Clause) (s : SlotData) (raw : List Byte) (p0 p1 : W64) : List Byte × Check :=
  let pr := applyParams vecFields raw p0 p1
  let r := withSignal pr.1 p0 p1
  (r, firstFail [
    failIf (fld raw 0 2 != 0x10) (formFail 0 (fld raw 0 2)),
    failIf (fld raw 2 2 != 712) (formFail 2 (fld raw 2 2)),
    vecForm cl s raw,
    vecPair raw,
    vecChain cl r,
    pr.2,
    signalCheck cl.signals (signalUsed raw p0 p1),
    overlapCheck 1 (inPlace r) (vecAreas r),
    if vecEmpty r then none else vecExtents r])

end Sys2Proof.Machine
end

