-- ==== Sys2Proof/Machine/Chain.lean ====
section
/-! DEFINITION. The evaluation of an Adverb chain (R145-R162, R211-R214): lane groups in iteration order, their stages,
outputs, reductions and summary. -/
namespace Sys2Proof.Machine

/-- A stage value: floating point, integer or predicate. -/
inductive SVal where
  | f (x : Num)
  | i (z : Int)
  | p (b : Bool)
  deriving DecidableEq, Repr, Inhabited

/-- The value as a number. -/
def SVal.num : SVal → Num
  | .f x => x
  | .i z => Num.ofInt z 0
  | .p b => Num.ofInt (if b then 1 else 0) 0
/-- The value as an integer. -/
def SVal.int : SVal → Int
  | .i z => z
  | .p b => if b then 1 else 0
  | .f _ => 0
/-- The value as a predicate. -/
def SVal.bool : SVal → Bool
  | .p b => b
  | _ => false

/-! ### Inputs (R147, R152, R211) -/

/-- Runs along dimension 0. -/
def vRuns (r : List Byte) : Nat := vExt r 1 * vExt r 2 * vExt r 3 * vExt r 4 * vExt r 5
/-- Points of a lane group: by the chain's compute type, its widest stage type (R141, R152). -/
def vLanes (r : List Byte) : Nat :=
  match (vStageList r).foldl (fun w s => max w (tyBits (vType r s))) 0 with
  | 64 => 32
  | 32 => 128
  | 16 => 256
  | _ => 512
/-- Lane groups of a run: the last may be short (R145). -/
def runGroups (r : List Byte) : Nat := (vExt r 0 + vLanes r - 1) / vLanes r
/-- Lane groups of the descriptor. -/
def vGroups (r : List Byte) : Nat := vRuns r * runGroups r
/-- The run of lane group `p`, its first point along dimension 0, and its points. -/
def groupAt (r : List Byte) (p : Nat) : Nat × Nat × Nat :=
  let i := p % runGroups r * vLanes r
  (p / runGroups r, i, min (vLanes r) (vExt r 0 - i))
/-- Lane group `p` is the last of its run. -/
def endsRun (r : List Byte) (p : Nat) : Bool := p % runGroups r + 1 == runGroups r

/-- A byte of the memory that view `i` reads: the operand file or the lines received for its port. -/
def viewByte (op : Mem) (got : List Got) (r : List Byte) (i : Nat) (a : Int) : Nat :=
  if vLoc r i = 1 then (op.rd a.toNat).toNat
  else match got.find? fun g => g.port == 6 + i && g.addr == wrapN 64 (a / 64 * 64) with
    | some g => (g.line.getD (wrapN 64 (a % 64)) 0).toNat
    | none => 0
/-- `w` bits at a bit address. -/
def viewBits (byte : Int → Nat) (w : Nat) (a : Int) : Nat :=
  if w < 8 then byte (a / 8) / (if a % 8 = 4 then 16 else 1) % 16
  else (List.range (w / 8)).foldl (fun v (k : Nat) => v + byte (a / 8 + (k : Int)) * 256 ^ k) 0
/-- The indices i1-i5 of run `o` (R145, R147). -/
def outerIx (r : List Byte) (o : Nat) : List Nat :=
  ([1, 2, 3, 4, 5].foldl (fun (p : List Nat × Nat) k => (p.1 ++ [p.2 % vExt r k], p.2 / vExt r k)) ([], o)).1
/-- The bit address of a view's element at (i0, run o); a queue view counts its stream (R146, R147). -/
def elemBit (r : List Byte) (i i0 o : Nat) : Int :=
  if vLoc r i = 6 then ((((if viewExt r i 0 = vExt r 0 then o * vExt r 0 + i0 else o) * fmtBits (vFmt r i)) : Nat) : Int)
  else ((outerIx r o).zipIdx).foldl (fun a p => a + p.1 * vBitStride r i (p.2 + 1)) (8 * (vBase r i : Int) + i0 * vBitStride r i 0)
/-- The byte address of an MX view's scale of group `g` of run `o` (R147). -/
def scaleByte (r : List Byte) (i g o : Nat) : Int := (vScaleBase r i : Int) + o * vScaleRow r i + g

/-- An element of format `k` with its MX scale, widened to TYPE `t`, and what it counts (R133, R152, R211). -/
def widen (k w scale t : Nat) : SVal × Ctr :=
  if !tyFloat t then (.i (decodeI k w), {})
  else if fmtInt k then (.f (Num.ofInt (decodeI k w) 0), {})
  else if k = 0x13 then (.f (scaleVal w), {})
  else if fmtMx k then
    let v := decodeMx k w scale
    if t = 1 then
      (match v.1 with
       | .fin s m e => if fp32.beyond m e then (.f (fp32.maxNum s), v.2.plus ctrSatConv) else (.f v.1, v.2)
       | _ => (.f v.1, v.2))
    else (.f v.1, v.2)
  else let v := decodeF k w; (.f v.1, v.2)

/-- The encodings of an input over `n` points from `i0` of run `o`, each with its scale byte. -/
def readGroup (op : Mem) (got : List Got) (r : List Byte) (i o i0 n : Nat) : List (Nat × Nat) :=
  (List.range n).map fun k =>
    (viewBits (viewByte op got r i) (fmtBits (vFmt r i)) (elemBit r i (i0 + k) o),
     if fmtMx (vFmt r i) then viewByte op got r i (scaleByte r i ((i0 + k) / 32) o) else 0)

/-- The constant `k` as TYPE `t` reads it (R211). -/
def constVal (r : List Byte) (k t : Nat) : SVal :=
  let w := vConst r k % 2 ^ tyBits t
  if tyFloat t then .f ((tyFmt t).decode w) else .i (sgn (tyBits t) w)

/-! ### Stages (R155-R158, R212, R214) -/

/-- Wraps or saturates an exact integer result (R134, R156). -/
def intResult (n : Nat) (sat : Bool) (z : Int) : SVal × Ctr :=
  if sat then let c := clampInt n z; (.i c.1, if c.2 then ctrSatInt else {}) else (.i (sgn n (wrapN n z)), {})
/-- A comparison of numbers (R130, R212). -/
def cmpNum (sub : Nat) (x y : Num) : Bool :=
  match sub with
  | 0 => x.eqv y
  | 1 => !x.eqv y
  | 2 => x.lt y
  | 3 => x.lt y || x.eqv y
  | 4 => y.lt x
  | 5 => y.lt x || x.eqv y
  | _ => x.isNan || y.isNan
/-- CONVERT to a format that is not MX, carried in TYPE (R131, R211). -/
def convertVal (k mode t : Nat) (x : SVal) : SVal × Ctr :=
  if fmtInt k then
    let z := convertInt (fmtBits k) mode x.num
    (if tyFloat t then .f (Num.ofInt z.1 0) else .i z.1, z.2)
  else if k = 0x13 then let z := convertE8M0 mode x.num; (.f (scaleVal z.1), z.2)
  else let z := (fmtF k).convert mode x.num; (.f z.1, z.2)
/-- A stage over floating-point operands in the layout `f`. -/
def floatStage (f : FFmt) (op sub : Nat) (a b c : Num) : SVal :=
  match op with
  | 0x01 => .f (f.arith (a.add b))
  | 0x02 => .f (f.arith (a.add b.neg))
  | 0x03 => .f (f.arith (a.mul b))
  | 0x04 => .f (f.arith ((a.mul b).add c))
  | 0x05 => .f (a.min b)
  | 0x06 => .f (a.max b)
  | 0x07 => .f a.abs
  | 0x08 => .f a.neg
  | 0x09 => .f ((a.max b).min c)
  | 0x0A => .p (cmpNum sub a b)
  | 0x0C => .f (recipF f a)
  | 0x0D => .f (rsqrtF f a)
  | _ => .f (transcF op a)
/-- A stage over `n`-bit integers; a shift count is a number below 256. -/
def intStage (n : Nat) (sat : Bool) (op sub : Nat) (a b c : Int) (count : Nat) : SVal × Ctr :=
  let u (z : Int) : BitVec n := BitVec.ofInt n z
  match op with
  | 0x01 => intResult n sat (a + b)
  | 0x02 => intResult n sat (a - b)
  | 0x03 => intResult n sat (a * b)
  | 0x05 => (.i (min a b), {})
  | 0x06 => (.i (max a b), {})
  | 0x07 => intResult n sat (a.natAbs : Int)
  | 0x08 => intResult n sat (-a)
  | 0x09 => (.i (min (max a b) c), {})
  | 0x0A => (.p (cmpNum sub (Num.ofInt a 0) (Num.ofInt b 0)), {})
  | 0x14 => (.i (u a <<< count).toInt, {})
  | 0x15 => (.i (u a >>> count).toInt, {})
  | 0x16 => (.i ((u a).sshiftRight count).toInt, {})
  | 0x17 => (.i (u a &&& u b).toInt, {})
  | 0x18 => (.i (u a ||| u b).toInt, {})
  | 0x19 => (.i (u a ^^^ u b).toInt, {})
  | _ => (.i (~~~(u a)).toInt, {})
/-- GATHER: the table element, or the fill constant and a miss (R158). -/
def gatherVal (op : Mem) (r : List Byte) (t : Nat) (ix : Int) : SVal × Ctr × Bool :=
  let k := vGtFmt r
  let w := fmtBits k
  if 0 ≤ ix ∧ ix < (vGtLen r : Int) then
    let v := widen k (viewBits (fun a => (op.rd a.toNat).toNat) w (8 * (vGtBase r : Int) + ix * w)) 0 t
    (v.1, v.2, false)
  else
    let v := widen k (fld r 0xE0 8 % 2 ^ w) 0 t
    (v.1, v.2, true)

/-- What the stages of one lane group have given. -/
structure RunVals where
  /-- Results by stage, from 1; for a reduction, the values that it takes. -/
  res   : List (List SVal) := []
  ctr   : Ctr := {}
  miss  : Nat := 0
  deriving Repr, Inhabited

/-- An operand of a stage at each of the `n` points of a lane group. -/
def operandRun (r : List Byte) (n : Nat) (ins : List (List (Nat × Nat))) (v : RunVals) (t : Nat) (k : Sel) : List SVal :=
  match k with
  | .x i => (ins.getD i []).map fun e => (widen (vFmt r i) e.1 e.2 t).1
  | .st n => v.res.getD (n - 1) []
  | .c j => List.replicate n (constVal r j t)
  | _ => List.replicate n (.i 0)
/-- A shift count: the low 8 bits of the operand, those of its encoding for a float (R156, R211). -/
def shiftCount (r : List Byte) (k : Sel) (x : SVal) : Nat :=
  match x, k with
  | .i z, _ => wrapN 8 z
  | .f y, .st n => (tyFmt (vType r n)).encode y % 256
  | .f y, _ => fp32.encode y % 256
  | .p b, _ => if b then 1 else 0

/-! ### Reductions (R159, R160) -/

/-- One combination. -/
def combine (sub t : Nat) (sat : Bool) (a b : SVal) : SVal × Ctr :=
  if sub = 3 then (.i (a.int + b.int), {})
  else if tyFloat t then
    ((match sub with
      | 0 => .f ((tyFmt (accType t)).arith (a.num.add b.num))
      | 2 => .f (a.num.min b.num)
      | _ => .f (a.num.max b.num)), {})
  else match sub with
    | 0 => intResult 32 sat (a.int + b.int)
    | 2 => (.i (min a.int b.int), {})
    | _ => (.i (max a.int b.int), {})
/-- One level of the tree: neighbours combined, an unpaired element unchanged. -/
def treeLevel (sub t : Nat) (sat : Bool) : List SVal → List SVal × Ctr
  | a :: b :: l =>
    let c := combine sub t sat a b
    let rest := treeLevel sub t sat l
    (c.1 :: rest.1, c.2.plus rest.2)
  | l => (l, {})
/-- The tree over at most 2^fuel values. -/
def treeOf (sub t : Nat) (sat : Bool) : Nat → List SVal → List SVal × Ctr
  | 0, l => (l, {})
  | fuel + 1, l =>
    if l.length ≤ 1 then (l, {})
    else
      let n := treeLevel sub t sat l
      let rest := treeOf sub t sat fuel n.1
      (rest.1, n.2.plus rest.2)
/-- A value of TYPE `t` as 64 bits: a float's encoding, an integer sign-extended. -/
def encVal (t : Nat) (x : SVal) : W64 :=
  match x with
  | .f y => BitVec.ofNat 64 ((tyFmt t).encode y)
  | .i z => BitVec.ofInt 64 z
  | .p b => if b then 1 else 0
/-- The value of TYPE `t` that 64 bits encode. -/
def decVal (t : Nat) (w : W64) : SVal := if tyFloat t then .f ((tyFmt t).decode w.toNat) else .i w.toInt
/-- The type in which the accumulator of stage `s` is held: a COUNT is an integer. -/
def redType (r : List Byte) (s : Nat) : Nat := if vSub r s = 3 then 4 else accType (vType r s)

/-- A chunk combined into the chunks before it (R159). -/
def redChunk (sub t : Nat) (sat : Bool) (acc : Option W64) (vs : List SVal) : Option W64 × Ctr :=
  let h := treeOf sub t sat 8 vs
  let x := h.1.headD (.i 0)
  match acc with
  | none => (some (encVal (accType t) x), h.2)
  | some a =>
    let q := combine sub t sat (decVal (accType t) a) x
    (some (encVal (accType t) q.1), h.2.plus q.2)
/-- The whole chunks of 128 in a list of values, and the values left over. -/
def redChunks (sub t : Nat) (sat : Bool) : Nat → Option W64 → List SVal → Option W64 × List SVal × Ctr
  | 0, acc, vs => (acc, vs, {})
  | n + 1, acc, vs =>
    if vs.length < 128 then (acc, vs, {})
    else
      let q := redChunk sub t sat acc (vs.take 128)
      let k := redChunks sub t sat n q.1 (vs.drop 128)
      (k.1, k.2.1, q.2.plus k.2.2)
/-- COUNT: a non-zero element or a true predicate; a NaN counts (R159). -/
def counts (x : SVal) : Bool :=
  match x with
  | .f y => !y.isZero
  | .i z => decide (z ≠ 0)
  | .p b => b
/-- A REDUCE takes the values of a lane group (R159). -/
def redTake (r : List Byte) (s : Nat) (q : RedAcc) (l : List SVal) : RedAcc × Ctr :=
  let sub := vSub r s
  let t := vType r s
  if sub = 3 then ({ q with acc := some (BitVec.ofNat 64 ((q.acc.getD 0).toNat + l.countP counts)) }, {})
  else
    let pre := l.map fun x => if sub = 4 then (if tyFloat t then (SVal.f x.num.abs, {}) else intResult (tyBits t) (vSat r s) (x.int.natAbs : Int)) else (x, ({} : Ctr))
    let k := redChunks sub t (vSat r s) 5 q.acc (q.part.map (decVal t) ++ pre.map Prod.fst)
    ({ acc := k.1, part := k.2.1.map (encVal t) }, pre.foldl (fun c p => c.plus p.2) k.2.2)
/-- The result of a REDUCE at the end of its run: the last chunk may be short; a COUNT is an unsigned 32-bit number. -/
def redEnd (r : List Byte) (s : Nat) (q : RedAcc) : W64 × Ctr :=
  if vSub r s = 3 then (BitVec.ofNat 64 ((q.acc.getD 0).toNat % 2 ^ 32), {})
  else if q.part.isEmpty then (q.acc.getD 0, {})
  else let k := redChunk (vSub r s) (vType r s) (vSat r s) q.acc (q.part.map (decVal (vType r s))); (k.1.getD 0, k.2)
/-- What a reduction of nothing carries (R160). -/
def identityVal (sub t : Nat) : SVal :=
  match sub with
  | 1 => if tyFloat t then .f (.inf true) else .i (-2147483648)
  | 2 => if tyFloat t then .f (.inf false) else .i 2147483647
  | 3 => .i 0
  | _ => if tyFloat t then .f Num.zero else .i 0

/-- A stage value of TYPE `t` as an MX quantisation takes it (R122): one of an FP64 stage is first converted to FP32. An integer
is taken as the exact number (DESIGN CHOICE, notes/assumptions/65). -/
def mxInput (t : Nat) (x : SVal) : Num × Ctr := if t = 0 then toFp32 x.num else (x.num, {})
/-- MX blocks of 32 over the values of TYPE `t` (R122). -/
def mxBlocks (k t : Nat) (l : List SVal) : List (Nat × List Nat × Ctr) :=
  (List.range ((l.length + 31) / 32)).map fun g =>
    let vs := ((l.drop (32 * g)).take 32).map (mxInput t)
    let q := mxQuantise k (vs.map fun v => some v.1)
    (q.1, q.2.1.take vs.length, vs.foldl (fun c v => c.plus v.2) q.2.2)
/-- CONVERT to an MX format over a lane group of values of TYPE `t`: quantised by 32 and read back (R121, R122, R212). -/
def convertMx (k t : Nat) (l : List SVal) : List SVal × Ctr :=
  let gs := mxBlocks k t l
  (gs.flatMap fun p => p.2.1.map fun w => .f (decodeMx k w p.1).1, gs.foldl (fun c p => c.plus p.2.2) {})

/-- The TYPE in which an operand reaches a CONVERT of TYPE `t`: an earlier stage's result keeps its own (R122, R211). -/
def operandType (r : List Byte) (t : Nat) : Sel → Nat
  | .st n => resultType r n
  | _ => t
/-- Stage `s` over one lane group of `n` points. A constant that indexes a GATHER is read as INT32, from its low 32 bits
(DESIGN CHOICE, notes/assumptions/66). -/
def runStage (op : Mem) (r : List Byte) (n : Nat) (ins : List (List (Nat × Nat))) (v : RunVals) (s : Nat) : RunVals :=
  let o := vOp r s
  let t := vType r s
  let sels := vSels r s
  let sel (k : Nat) : Sel := sels.getD k .none
  let a := operandRun r n ins v t (sel 0)
  let b := operandRun r n ins v t (sel 1)
  let c := operandRun r n ins v t (sel 2)
  let put (l : List (SVal × Ctr)) : RunVals := { v with res := v.res ++ [l.map Prod.fst], ctr := l.foldl (fun k p => k.plus p.2) v.ctr }
  if o = 0x0B then put ((a.zip (b.zip c)).map fun p => (if p.1.bool then p.2.1 else p.2.2, {}))
  else if o = 0x1B then
    (if fmtMx (vCfmt r s) then let q := convertMx (vCfmt r s) (operandType r t (sel 0)) a; { v with res := v.res ++ [q.1], ctr := v.ctr.plus q.2 }
     else put (a.map (convertVal (vCfmt r s) (vMode r s) t)))
  else if o = 0x1C then
    -- the index keeps its own integer type
    let ix := operandRun r n ins v 4 (sel 0)
    let g := ix.map fun x => gatherVal op r t x.int
    { v with res := v.res ++ [g.map fun p => p.1], ctr := g.foldl (fun k p => k.plus p.2.1) v.ctr,
             miss := v.miss + (g.filter fun p => p.2.2).length }
  else if o = 0x1D then put (a.map fun x => (x, {}))
  else if tyFloat t then
    put ((a.zip (b.zip c)).map fun p => (floatStage (tyFmt t) o (vSub r s) p.1.num p.2.1.num p.2.2.num, {}))
  else put ((a.zip (b.zip c)).map fun p => intStage (tyBits t) (vSat r s) o (vSub r s) p.1.int p.2.1.int p.2.2.int (shiftCount r (sel 1) p.2.1))

/-! ### Outputs (R149, R153) -/

/-- An output element: its encoding, whether it is a NaN or an infinity, and what it counts. -/
structure OutElem where
  w   : Nat
  nan : Bool
  inf : Bool
  ctr : Ctr
  deriving Repr, Inhabited

/-- A conversion into an output format that is not MX (R131, R153). -/
def outVal (k mode : Nat) (x : SVal) : OutElem :=
  if fmtInt k then let z := convertInt (fmtBits k) mode x.num; { w := wrapN (fmtBits k) z.1, nan := false, inf := false, ctr := z.2 }
  else if k = 0x13 then let z := convertE8M0 mode x.num; { w := z.1, nan := z.1 == 0xFF, inf := false, ctr := z.2 }
  else
    let z := (fmtF k).convert mode x.num
    { w := (fmtF k).encode z.1, nan := z.1.isNan, inf := !z.1.isNan && !z.1.isFin, ctr := z.2 }

/-- Output `i` over values of TYPE `t`: the elements and, for an MX view, the scale bytes (R122, R153). -/
def outRun (r : List Byte) (i t : Nat) (l : List SVal) : List OutElem × List Nat :=
  let k := vFmt r i
  if fmtMx k then
    let gs := mxBlocks k t l
    (gs.flatMap fun p => p.2.1.zipIdx.map fun e =>
        ({ w := e.1, nan := p.1 == 0xFF, inf := false, ctr := if e.2 = 0 then p.2.2 else {} } : OutElem),
     gs.map fun p => p.1)
  else (l.map (outVal k (vOutMode r i)), [])

/-- Bytes that an output writes: a byte address, the bytes, and the coordinates of NaN elements in them. -/
abbrev OutBytes := List (Nat × List Byte × List (List Nat))

/-- The bytes that elements of run `o` from point `i0` on write; 4-bit elements fill bytes from bits [3:0] and leave zeros
above a last one; in a queue's stream each takes its own half byte (R120, R146, R147). -/
def elemBytes (r : List Byte) (i o i0 : Nat) (es : List OutElem) : OutBytes :=
  let w := fmtBits (vFmt r i)
  let at_ (k : Nat) : Int := elemBit r i (i0 + k) o
  let nan (k : Nat) (e : OutElem) : List (List Nat) := if e.nan then [(i0 + k) :: outerIx r o] else []
  es.zipIdx.filterMap fun p =>
    if w ≠ 4 then some (wrapN 64 (at_ p.2 / 8), leBytes (w / 8) p.1.w, nan p.2 p.1)
    else if vLoc r i = 6 then some (wrapN 64 (at_ p.2 / 8), [BitVec.ofNat 8 (p.1.w * if at_ p.2 % 8 = 4 then 16 else 1)], nan p.2 p.1)
    -- an element in bits [7:4] leaves with the one below it
    else if p.2 % 2 = 1 ∧ vBitStride r i 0 ≠ 0 then none
    else
      let up := if vBitStride r i 0 = 0 then none else es[p.2 + 1]?
      some (wrapN 64 (at_ p.2 / 8), [BitVec.ofNat 8 (p.1.w + 16 * ((up.map fun e => e.w).getD 0))],
            nan p.2 p.1 ++ (match up with
              | some e => nan (p.2 + 1) e
              | none => []))
/-- The scale bytes of the groups from point `i0` of run `o` on. A scale byte 0xFF is a NaN at the coordinates of its group's
first element (R136; DESIGN CHOICE, notes/assumptions/62). -/
def scaleBytes (r : List Byte) (i o i0 : Nat) (scales : List Nat) : OutBytes :=
  scales.zipIdx.map fun p =>
    (wrapN 64 (scaleByte r i (i0 / 32 + p.2) o), leBytes 1 p.1, if p.1 = 0xFF then [(i0 + 32 * p.2) :: outerIx r o] else [])

/-- A byte on its way into the line that an output fills: the line as it now stands, and the line that leaves because it is
full or because the byte belongs to another one (R149). In a queue's stream half bytes join, and a line leaves when the next
one begins. When a line leaves that is not full, and that the last message of a queue ends in zeros, is a DESIGN CHOICE
(notes/assumptions/84). -/
def pushByte (queue : Bool) (l : Option OutLine) (a : Nat) (b : Byte) (nan : List (List Nat)) : Option OutLine × List OutLine :=
  let base := a / 64 * 64
  let p : OutLine × List OutLine := match l with
    | some l => if l.addr = base then (l, []) else ({ addr := base, line := List.replicate 64 0, en := 0, nans := [] }, [l])
    | none => ({ addr := base, line := List.replicate 64 0, en := 0, nans := [] }, [])
  let k := a % 64
  let n : OutLine := { p.1 with line := p.1.line.set k (if queue then p.1.line.getD k 0 ||| b else b), en := p.1.en ||| (1#64 <<< k), nans := p.1.nans ++ nan }
  if n.en = BitVec.allOnes 64 ∧ queue = false then (none, p.2 ++ [n]) else (some n, p.2)
/-- The bytes of elements on their way into lines. -/
def pushBytes (queue : Bool) (l : Option OutLine) (bs : OutBytes) : Option OutLine × List OutLine :=
  bs.foldl (fun (q : Option OutLine × List OutLine) e =>
    (e.2.1.foldl (fun (p : (Option OutLine × List OutLine) × Nat × List (List Nat)) b =>
      let n := pushByte queue p.1.1 p.2.1 b p.2.2
      ((n.1, p.1.2 ++ n.2), p.2.1 + 1, [])) (q, e.1, e.2.2)).1) (l, [])
/-- Elements and scale bytes of an output that leaves the cell. -/
def VecOut.put (y : VecOut) (queue : Bool) (es ss : OutBytes) : VecOut :=
  let a := pushBytes queue y.elems es
  let b := pushBytes queue y.scales ss
  { y with elems := a.1, scales := b.1, lines := y.lines ++ a.2 ++ b.2 }
/-- The chain has ended: the lines that are not full leave too. -/
def VecOut.flush (y : VecOut) : VecOut :=
  { y with elems := none, scales := none, lines := y.lines ++ y.elems.toList ++ y.scales.toList }

/-- What a lane group comes to: the operand file, the run, what it counts, and the NaNs written to the operand file, as output
4 or 5 and coordinates. -/
structure GroupOut where
  op   : Mem
  run  : VecRun
  ctr  : Ctr := {}
  nans : List (Nat × List Nat) := []
  deriving Repr, Inhabited

/-- Output `i` takes values of TYPE `t` from point `i0` of run `o` on: they land in the operand file, or go into lines. -/
def emitOut (o i0 t : Nat) (l : List SVal) (i : Nat) (g : GroupOut) : GroupOut :=
  let r := g.run.raw
  let e := outRun r i t l
  let es := elemBytes r i o i0 e.1
  let ss := scaleBytes r i o i0 e.2
  let k := g.run.tot
  let v := { g.run with tot := { k with
    anyNan := k.anyNan || (e.1.any fun p => p.nan) || e.2.contains 0xFF
    anyInf := k.anyInf || e.1.any fun p => p.inf } }
  let ctr := e.1.foldl (fun (c : Ctr) (p : OutElem) => c.plus p.ctr) g.ctr
  if vLoc r i = 1 then
    { op := (es ++ ss).foldl (fun op b => op.wrN b.1 b.2.1) g.op, run := v, ctr := ctr
      nans := g.nans ++ (es ++ ss).flatMap fun b => b.2.2.map fun c => (i, c) }
  else if i = 4 then { g with run := { v with y0 := v.y0.put (vLoc r i == 6) es ss }, ctr := ctr }
  else { g with run := { v with y1 := v.y1.put (vLoc r i == 6) es ss }, ctr := ctr }

/-- What reading the inputs of a lane group counts: a subnormal read as zero, and an MX value that an FP32 stage saturates, each
once for its element (R131, R133, R152). -/
def readCtr (r : List Byte) (ins : List (List (Nat × Nat))) : Ctr :=
  (List.range 4).foldl (fun c i =>
    let ts := (takers r i).map (vType r)
    let t := if ts.contains 1 then 1 else ts.headD 1
    (ins.getD i []).foldl (fun c e => c.plus (widen (vFmt r i) e.1 e.2 t).2) c) {}

/-- REDUCE stage `s` takes its values of a lane group. -/
def reduceTake (v : RunVals) (g : GroupOut) (s : Nat) : GroupOut :=
  let q := redTake g.run.raw s (g.run.red.getD (s - 1) {}) (v.res.getD (s - 1) [])
  { g with run := { g.run with red := g.run.red.set (s - 1) q.1 }, ctr := g.ctr.plus q.2 }
/-- The result of REDUCE stage `s` at the end of a run, in its accumulation type. -/
def redResult (v : VecRun) (s : Nat) : W64 × Ctr := redEnd v.raw s (v.red.getD (s - 1) {})
/-- At the end of run `o`, output `i` takes the result of the REDUCE that it names (R211). -/
def emitReduce (o : Nat) (g : GroupOut) (i : Nat) : GroupOut :=
  let r := g.run.raw
  let t := redType r (vSrc r i)
  emitOut o 0 t [decVal t (redResult g.run (vSrc r i)).1] i g
/-- At the end of a run, the result of REDUCE stage `s` joins those of the runs before it, and the stage is ready for the next
run (R159, R161). -/
def reduceEnd (g : GroupOut) (s : Nat) : GroupOut :=
  let r := g.run.raw
  let t := redType r s
  let w := redResult g.run s
  let x := decVal t w.1
  let k := g.run.tot
  let n : W64 × Ctr := match k.acc.getD (s - 1) none with
    | none => (w.1, {})
    | some a =>
      if vSub r s = 3 then (a + w.1, {})
      else let c := combine (vSub r s) (vType r s) (vSat r s) (decVal t a) x; (encVal t c.1, c.2)
  { g with ctr := (g.ctr.plus w.2).plus n.2
           run := { g.run with red := g.run.red.set (s - 1) {}
                               tot := { k with acc := k.acc.set (s - 1) (some n.1)
                                               nanc := k.nanc.set (s - 1) (k.nanc.getD (s - 1) 0 + if x.num.isNan then 1 else 0) } } }
/-- NaN results of the element stages of a lane group, for summaries of kind NANCOUNT (R161). -/
def nanCounts (r : List Byte) (v : RunVals) (l : List Nat) : List Nat :=
  (vStageList r).foldl (fun l s =>
    if isReduce r s then l else l.set (s - 1) (l.getD (s - 1) 0 + (v.res.getD (s - 1) []).countP fun x => x.num.isNan)) l

/-- One lane group: inputs, stages, element outputs, and at the end of a run the reductions (R145, R211). Of two outputs that are
written in one cycle, Y0 is written first (DESIGN CHOICE, notes/assumptions/67). -/
def chainGroup (op : Mem) (v : VecRun) : GroupOut :=
  let r := v.raw
  let p := groupAt r v.pos
  let got := v.got.filter fun g => g.step == v.pos
  let ins := (List.range 4).map fun i => if (takers r i).isEmpty then [] else readGroup op got r i p.1 p.2.1 p.2.2
  let x := (vStageList r).foldl (runStage op r p.2.2 ins) {}
  let t := v.tot
  let g : GroupOut := { op := op, ctr := (readCtr r ins).plus x.ctr
                        run := { v with tot := { t with miss := t.miss + x.miss, nanc := nanCounts r x t.nanc } } }
  let g := ((vOuts r).filter fun i => !isReduce r (vSrc r i)).foldl
    (fun g i => emitOut p.1 p.2.1 (vType r (vSrc r i)) (x.res.getD (vSrc r i - 1) []) i g) g
  let rs := (vStageList r).filter (isReduce r)
  let g := rs.foldl (reduceTake x) g
  if endsRun r v.pos then rs.foldl reduceEnd (((vOuts r).filter fun i => isReduce r (vSrc r i)).foldl (emitReduce p.1) g) else g

/-- A summary word (R161) with the format and stage of a NaN it holds. -/
def sumWord (r : List Byte) (k : SumAcc) (i : Nat) : Nat × Option (Nat × Nat) :=
  let kind := bits (vSum r i) 15 12
  let g := bits (vSum r i) 11 8
  let t := vType r g
  match kind with
  | 0 => (0, none)
  | 6 => (k.nanc.getD (g - 1) 0 % 2 ^ 64, none)
  | 7 => (k.miss % 2 ^ 64, none)
  | _ =>
    let w := (k.acc.getD (g - 1) none).getD (encVal (redType r g) (identityVal (vSub r g) t))
    (w.toNat, if kind ≠ 4 ∧ (decVal (redType r g) w).num.isNan then some (g, tyCode (accType t)) else none)
/-- The summary message (R162). -/
def summaryBytes (r : List Byte) (k : SumAcc) (empty : Bool) : List Byte :=
  let n := ((List.range 4).filter fun i => bits (vSum r i) 15 12 != 0).length
  let flags := (if k.anyNan then 1 else 0) + (if k.anyInf then 2 else 0) + (if k.miss = 0 then 0 else 4) + (if empty then 8 else 0)
  let pts := if empty then 0 else vExt r 0 * vRuns r
  slice r 0x2A 2 ++ leBytes 1 n ++ leBytes 1 flags ++ leBytes 4 0 ++ leBytes 8 pts ++
  ((List.range 4).flatMap fun i => leBytes 8 (sumWord r k i).1) ++ leBytes 16 0
/-- The summary words that are NaN: word, stage and format (R137). -/
def summaryNans (r : List Byte) (k : SumAcc) : List (Nat × Nat × Nat) :=
  (List.range 4).filterMap fun i => (sumWord r k i).2.map fun p => (i, p.1, p.2)

end Sys2Proof.Machine
end

