-- ==== Sys2Proof/Machine/ConjAlu.lean ====
section
/-! DEFINITION. Conjunction integer arithmetic (R220-R222): one meaning per instruction over three shared forms. -/
namespace Sys2Proof.Machine

/-- A register instruction: destination `d` takes `f a b` (R220). -/
def conjReg2 (c : LCell) (i : Instr) (a b d : Reg) (f : W64 → W64 → W64) : Dev → Dev :=
  conjDo c i [a, b, d] fun s => conjNext c (setRegAt c d (f (regAt s c a) (regAt s c b)) s)

/-- A constant instruction: destination `d` takes `f a` (R222). -/
def conjReg1 (c : LCell) (i : Instr) (a d : Reg) (f : W64 → W64) : Dev → Dev :=
  conjDo c i [a, d] fun s => conjNext c (setRegAt c d (f (regAt s c a)) s)

/-- Shift left by a count of 8 bits (R220). -/
def shiftL (a b : W64) : W64 := a <<< (b.toNat % 256)
/-- Logical shift right. -/
def shiftR (a b : W64) : W64 := a >>> (b.toNat % 256)
/-- Arithmetic shift right. -/
def shiftA (a b : W64) : W64 := a.sshiftRight (b.toNat % 256)
/-- One or zero. -/
def flag64 (p : Bool) : W64 := if p then 1 else 0
/-- The smaller, signed. -/
def minS (a b : W64) : W64 := if b.slt a then b else a
/-- The larger, signed. -/
def maxS (a b : W64) : W64 := if a.slt b then b else a
/-- The smaller, unsigned. -/
def minU (a b : W64) : W64 := if b.ult a then b else a
/-- The larger, unsigned. -/
def maxU (a b : W64) : W64 := if a.ult b then b else a
/-- Bits 127 to 64 of the signed product. -/
def mulHiS (a b : W64) : W64 := BitVec.ofInt 64 (a.toInt * b.toInt / 18446744073709551616)
/-- Bits 127 to 64 of the unsigned product. -/
def mulHiU (a b : W64) : W64 := BitVec.ofNat 64 (a.toNat * b.toNat / 18446744073709551616)
/-- The overflow pair of signed division: the true quotient 2^63 saturates (R221). -/
def divOver (a b : W64) : Bool := decide (a = 0x8000000000000000#64) && decide (b = 0xFFFFFFFFFFFFFFFF#64)
/-- The signed quotient (R221). -/
def quoS (a b : W64) : W64 := if b = 0 then 0 else if divOver a b then 0x7FFFFFFFFFFFFFFF#64 else BitVec.ofInt 64 (a.toInt.tdiv b.toInt)
/-- The signed remainder (R221). -/
def rmdS (a b : W64) : W64 := if b = 0 then a else if divOver a b then 0xFFFFFFFFFFFFFFFF#64 else a - BitVec.ofInt 64 (a.toInt.tdiv b.toInt) * b
/-- The unsigned quotient (R221). -/
def quoU (a b : W64) : W64 := if b = 0 then 0 else BitVec.ofNat 64 (a.toNat / b.toNat)
/-- The unsigned remainder (R221). -/
def rmdU (a b : W64) : W64 := if b = 0 then a else BitVec.ofNat 64 (a.toNat % b.toNat)

/-- ADD (R220). -/
def execAdd (c : LCell) (a b d : Reg) (s : State) : Out := onDev (conjReg2 c (.add c a b d) a b d (fun a b => a + b)) s
/-- SUB (R220). -/
def execSub (c : LCell) (a b d : Reg) (s : State) : Out := onDev (conjReg2 c (.sub c a b d) a b d (fun a b => a - b)) s
/-- AND (R220). -/
def execAnd (c : LCell) (a b d : Reg) (s : State) : Out := onDev (conjReg2 c (.and c a b d) a b d (fun a b => a &&& b)) s
/-- IOR (R220). -/
def execIor (c : LCell) (a b d : Reg) (s : State) : Out := onDev (conjReg2 c (.ior c a b d) a b d (fun a b => a ||| b)) s
/-- XOR (R220). -/
def execXor (c : LCell) (a b d : Reg) (s : State) : Out := onDev (conjReg2 c (.xor c a b d) a b d (fun a b => a ^^^ b)) s
/-- LSL (R220). -/
def execLsl (c : LCell) (a b d : Reg) (s : State) : Out := onDev (conjReg2 c (.lsl c a b d) a b d (shiftL)) s
/-- LSR (R220). -/
def execLsr (c : LCell) (a b d : Reg) (s : State) : Out := onDev (conjReg2 c (.lsr c a b d) a b d (shiftR)) s
/-- ASR (R220). -/
def execAsr (c : LCell) (a b d : Reg) (s : State) : Out := onDev (conjReg2 c (.asr c a b d) a b d (shiftA)) s
/-- LTS (R220). -/
def execLts (c : LCell) (a b d : Reg) (s : State) : Out := onDev (conjReg2 c (.lts c a b d) a b d (fun a b => flag64 (a.slt b))) s
/-- LTU (R220). -/
def execLtu (c : LCell) (a b d : Reg) (s : State) : Out := onDev (conjReg2 c (.ltu c a b d) a b d (fun a b => flag64 (a.ult b))) s
/-- MINS (R220). -/
def execMins (c : LCell) (a b d : Reg) (s : State) : Out := onDev (conjReg2 c (.mins c a b d) a b d (minS)) s
/-- MAXS (R220). -/
def execMaxs (c : LCell) (a b d : Reg) (s : State) : Out := onDev (conjReg2 c (.maxs c a b d) a b d (maxS)) s
/-- MINU (R220). -/
def execMinu (c : LCell) (a b d : Reg) (s : State) : Out := onDev (conjReg2 c (.minu c a b d) a b d (minU)) s
/-- MAXU (R220). -/
def execMaxu (c : LCell) (a b d : Reg) (s : State) : Out := onDev (conjReg2 c (.maxu c a b d) a b d (maxU)) s
/-- MULLO (R220). -/
def execMullo (c : LCell) (a b d : Reg) (s : State) : Out := onDev (conjReg2 c (.mullo c a b d) a b d (fun a b => a * b)) s
/-- MULHS (R220). -/
def execMulhs (c : LCell) (a b d : Reg) (s : State) : Out := onDev (conjReg2 c (.mulhs c a b d) a b d (mulHiS)) s
/-- MULHU (R220). -/
def execMulhu (c : LCell) (a b d : Reg) (s : State) : Out := onDev (conjReg2 c (.mulhu c a b d) a b d (mulHiU)) s
/-- QUOS (R221). -/
def execQuos (c : LCell) (a b d : Reg) (s : State) : Out := onDev (conjReg2 c (.quos c a b d) a b d (quoS)) s
/-- QUOU (R221). -/
def execQuou (c : LCell) (a b d : Reg) (s : State) : Out := onDev (conjReg2 c (.quou c a b d) a b d (quoU)) s
/-- RMDS (R221). -/
def execRmds (c : LCell) (a b d : Reg) (s : State) : Out := onDev (conjReg2 c (.rmds c a b d) a b d (rmdS)) s
/-- RMDU (R221). -/
def execRmdu (c : LCell) (a b d : Reg) (s : State) : Out := onDev (conjReg2 c (.rmdu c a b d) a b d (rmdU)) s

/-- ADDK (R222). -/
def execAddk (c : LCell) (a d : Reg) (imm : BitVec 16) (s : State) : Out := onDev (conjReg1 c (.addk c a d imm) a d (fun a => a + imm.signExtend 64)) s
/-- ANDK (R222). -/
def execAndk (c : LCell) (a d : Reg) (imm : BitVec 16) (s : State) : Out := onDev (conjReg1 c (.andk c a d imm) a d (fun a => a &&& imm.setWidth 64)) s
/-- IORK (R222). -/
def execIork (c : LCell) (a d : Reg) (imm : BitVec 16) (s : State) : Out := onDev (conjReg1 c (.iork c a d imm) a d (fun a => a ||| imm.setWidth 64)) s
/-- XORK (R222). -/
def execXork (c : LCell) (a d : Reg) (imm : BitVec 16) (s : State) : Out := onDev (conjReg1 c (.xork c a d imm) a d (fun a => a ^^^ imm.setWidth 64)) s
/-- LTSK (R222). -/
def execLtsk (c : LCell) (a d : Reg) (imm : BitVec 16) (s : State) : Out := onDev (conjReg1 c (.ltsk c a d imm) a d (fun a => flag64 (a.slt (imm.signExtend 64)))) s
/-- LTUK (R222). -/
def execLtuk (c : LCell) (a d : Reg) (imm : BitVec 16) (s : State) : Out := onDev (conjReg1 c (.ltuk c a d imm) a d (fun a => flag64 (a.ult (imm.setWidth 64)))) s
/-- LSLK (R222). -/
def execLslk (c : LCell) (a d : Reg) (imm : BitVec 16) (s : State) : Out := onDev (conjReg1 c (.lslk c a d imm) a d (fun a => shiftL a (imm.setWidth 64))) s
/-- LSRK (R222). -/
def execLsrk (c : LCell) (a d : Reg) (imm : BitVec 16) (s : State) : Out := onDev (conjReg1 c (.lsrk c a d imm) a d (fun a => shiftR a (imm.setWidth 64))) s
/-- ASRK (R222). -/
def execAsrk (c : LCell) (a d : Reg) (imm : BitVec 16) (s : State) : Out := onDev (conjReg1 c (.asrk c a d imm) a d (fun a => shiftA a (imm.setWidth 64))) s
/-- KSH (R222). -/
def execKsh (c : LCell) (a d : Reg) (imm : BitVec 16) (s : State) : Out := onDev (conjReg1 c (.ksh c a d imm) a d (fun a => (a <<< 16) ||| imm.setWidth 64)) s
/-- KLD (R222). -/
def execKld (c : LCell) (d : Reg) (imm : BitVec 21) (s : State) : Out :=
  onDev (conjDo c (.kld c d imm) [d] fun s => conjNext c (setRegAt c d (imm.signExtend 64) s)) s

end Sys2Proof.Machine
end

