-- ==== Sys2Proof/Machine/ConjMem.lean ====
section
/-! DEFINITION. Conjunction loads and stores (R223), control transfer (R224, R225) and undefined encodings (R219). -/
namespace Sys2Proof.Machine

/-- The address of a load or store (R223). -/
def dataAddr (a : W64) (imm : BitVec 16) : W64 := a + imm.signExtend 64
/-- Whether the data store holds `size` bytes there, naturally aligned (R174). -/
def dataAddrOk (addr : W64) (size : Nat) : Bool := decide (addr.toNat < 0x10000) && decide (addr.toNat % size = 0)

/-- A load of `size` bytes, widened by `ext`, or DATA_ADDRESS (R223). -/
def conjLoad (c : LCell) (i : Instr) (a d : Reg) (imm : BitVec 16) (size : Nat) (ext : Nat → W64) : Dev → Dev :=
  conjDo c i [a, d] fun s =>
    let addr := dataAddr (regAt s c a) imm
    if dataAddrOk addr size then
      conjNext c (setRegAt c d (ext (leNat ((cellAt s c).conj.dmem.rdN addr.toNat size))) s)
    else conjFault c 0x0107 addr.toNat 0 s

/-- A store of the low `size` bytes of register `r`, or DATA_ADDRESS (R223). -/
def conjStore (c : LCell) (i : Instr) (a r : Reg) (imm : BitVec 16) (size : Nat) : Dev → Dev :=
  conjDo c i [a, r] fun s =>
    let addr := dataAddr (regAt s c a) imm
    if dataAddrOk addr size then
      conjNext c (updConj c (fun k => { k with dmem := k.dmem.wrN addr.toNat (leBytes size (regAt s c r).toNat) }) s)
    else conjFault c 0x0107 addr.toNat 0 s

/-- `n` bits sign-extended. -/
def sx (n : Nat) (v : Nat) : W64 := (BitVec.ofNat n v).signExtend 64
/-- Zero-extended. -/
def zx (v : Nat) : W64 := BitVec.ofNat 64 v

/-- LD8S (R223). -/
def execLd8s (c : LCell) (a d : Reg) (imm : BitVec 16) (s : State) : Out := onDev (conjLoad c (.ld8s c a d imm) a d imm 1 (sx 8)) s
/-- LD8U (R223). -/
def execLd8u (c : LCell) (a d : Reg) (imm : BitVec 16) (s : State) : Out := onDev (conjLoad c (.ld8u c a d imm) a d imm 1 (zx)) s
/-- LD16S (R223). -/
def execLd16s (c : LCell) (a d : Reg) (imm : BitVec 16) (s : State) : Out := onDev (conjLoad c (.ld16s c a d imm) a d imm 2 (sx 16)) s
/-- LD16U (R223). -/
def execLd16u (c : LCell) (a d : Reg) (imm : BitVec 16) (s : State) : Out := onDev (conjLoad c (.ld16u c a d imm) a d imm 2 (zx)) s
/-- LD32S (R223). -/
def execLd32s (c : LCell) (a d : Reg) (imm : BitVec 16) (s : State) : Out := onDev (conjLoad c (.ld32s c a d imm) a d imm 4 (sx 32)) s
/-- LD32U (R223). -/
def execLd32u (c : LCell) (a d : Reg) (imm : BitVec 16) (s : State) : Out := onDev (conjLoad c (.ld32u c a d imm) a d imm 4 (zx)) s
/-- LD64 (R223). -/
def execLd64 (c : LCell) (a d : Reg) (imm : BitVec 16) (s : State) : Out := onDev (conjLoad c (.ld64 c a d imm) a d imm 8 (zx)) s
/-- ST8 (R223). -/
def execSt8 (c : LCell) (a r : Reg) (imm : BitVec 16) (s : State) : Out := onDev (conjStore c (.st8 c a r imm) a r imm 1) s
/-- ST16 (R223). -/
def execSt16 (c : LCell) (a r : Reg) (imm : BitVec 16) (s : State) : Out := onDev (conjStore c (.st16 c a r imm) a r imm 2) s
/-- ST32 (R223). -/
def execSt32 (c : LCell) (a r : Reg) (imm : BitVec 16) (s : State) : Out := onDev (conjStore c (.st32 c a r imm) a r imm 4) s
/-- ST64 (R223). -/
def execSt64 (c : LCell) (a r : Reg) (imm : BitVec 16) (s : State) : Out := onDev (conjStore c (.st64 c a r imm) a r imm 8) s

/-- The target of a transfer relative to the program counter, as a uint64 (R225). -/
def relTarget {n : Nat} (d : Dev) (c : LCell) (off : BitVec n) : Nat := (BitVec.ofNat 64 (cellAt d c).conj.pc + off.signExtend 64).toNat

/-- A conditional branch (R224). -/
def conjBranch (c : LCell) (i : Instr) (a b : Reg) (off : BitVec 16) (p : W64 → W64 → Bool) : Dev → Dev :=
  conjDo c i [a, b] fun s => if p (regAt s c a) (regAt s c b) then conjGo c (relTarget s c off) s else conjNext c s

/-- JEQ (R224). -/
def execJeq (c : LCell) (a b : Reg) (off : BitVec 16) (s : State) : Out := onDev (conjBranch c (.jeq c a b off) a b off (fun a b => decide (a = b))) s
/-- JNE (R224). -/
def execJne (c : LCell) (a b : Reg) (off : BitVec 16) (s : State) : Out := onDev (conjBranch c (.jne c a b off) a b off (fun a b => decide (a ≠ b))) s
/-- JLTS (R224). -/
def execJlts (c : LCell) (a b : Reg) (off : BitVec 16) (s : State) : Out := onDev (conjBranch c (.jlts c a b off) a b off (fun a b => a.slt b)) s
/-- JGES (R224). -/
def execJges (c : LCell) (a b : Reg) (off : BitVec 16) (s : State) : Out := onDev (conjBranch c (.jges c a b off) a b off (fun a b => !a.slt b)) s
/-- JLTU (R224). -/
def execJltu (c : LCell) (a b : Reg) (off : BitVec 16) (s : State) : Out := onDev (conjBranch c (.jltu c a b off) a b off (fun a b => a.ult b)) s
/-- JGEU (R224). -/
def execJgeu (c : LCell) (a b : Reg) (off : BitVec 16) (s : State) : Out := onDev (conjBranch c (.jgeu c a b off) a b off (fun a b => !a.ult b)) s

/-- The link value: the offset of the next instruction (R224). -/
def linkVal (d : Dev) (c : LCell) : W64 := BitVec.ofNat 64 ((cellAt d c).conj.pc + 1)

/-- CALL (R224). -/
def execCall (c : LCell) (d : Reg) (imm : BitVec 21) (s : State) : Out :=
  onDev (conjDo c (.call c d imm) [d] fun s => conjGo c (relTarget s c imm) (setRegAt c d (linkVal s c) s)) s

/-- JMPR: the target is computed before the link is written (R224). -/
def execJmpr (c : LCell) (a d : Reg) (imm : BitVec 16) (s : State) : Out :=
  onDev (conjDo c (.jmpr c a d imm) [a, d] fun s =>
    conjGo c (regAt s c a + imm.signExtend 64).toNat (setRegAt c d (linkVal s c) s)) s

/-- JDNZ (R224): `a` is x0 reads 0, so the count is 2^64 - 1, the write is discarded and the branch is taken. -/
def execJdnz (c : LCell) (a : Reg) (off : BitVec 16) (s : State) : Out :=
  onDev (conjDo c (.jdnz c a off) [a] fun s =>
    let v := regAt s c a - 1
    let s' := setRegAt c a v s
    if v = 0 then conjNext c s' else conjGo c (relTarget s c off) s') s

/-- UNDEFINED_ENCODING: the word that the core fetches has no defined encoding (R174, R219); at or beyond the program
length the fetch itself records, with the details of R225. -/
def execUndefinedEncoding (c : LCell) (w : W32) (s : State) : Out :=
  onDev (fun d =>
    let x := cellAt d c
    if !coreRuns d c then d
    else if x.conj.pc < progLen x then
      (if fetched d c = some (.undefinedEncoding c w) then conjFault c 0x0106 w.toNat 0 d else d)
    else updCell c (fun y => { y with stopped := true, conj := { y.conj with stall := none } })
      (recCell 0x0106 1 c (activeId x) (some (x.conj.pc - 1)) 0xFFFFFFFF x.conj.pc d)) s

end Sys2Proof.Machine
end

