-- ==== Sys2Proof/Machine/ConjSys.lean ====
section
/-! DEFINITION. Conjunction cell state and time (R226), blocking waits (R227), signals (R228, R229), queue instructions
(R231-R233), launches and mover requests (R234), mailbox (R235) and system instructions (R236, R237). -/
namespace Sys2Proof.Machine

/-! ### Cell state and time -/

/-- BEAT_PHASE: the time since the edge over the beat period, as a 16-bit fraction (R336; notes/assumptions/3). -/
def beatPhase (d : Dev) : Nat := min 0xFFFF (d.beat.cyc * 65536 / max 1 (d.beat.period * 21 / 20))

/-- A cell-state word (R170). -/
def cellStateWord (d : Dev) (c : LCell) (w : Nat) : W64 :=
  match activeClause d c with
  | none => 0
  | some cl =>
    let x := cellAt d c
    match w with
    | 0 => zx ((c.row - cl.row0) * 0x100000000 + (c.col - cl.col0) * 0x10000 + (c.row / 4 * 16 + c.col / 4))
    | 1 => zx (cl.benchRows * 256 + cl.benchCols)
    | 2 => zx (cl.slot * 0x10000 + cl.id)
    | 3 => zx ((c.row - cl.row0) / 4 * cl.benchCols + (c.col - cl.col0) / 4)
    | 4 => zx x.conj.mbox.length
    | 5 => zx d.beat.period
    | 6 => zx cl.signals
    | _ => 0

/-- CSTATE (R226). -/
def execCstate (c : LCell) (d : Reg) (imm : BitVec 16) (s : State) : Out :=
  onDev (conjDo c (.cstate c d imm) [d] fun s => conjNext c (setRegAt c d (cellStateWord s c (imm.toNat % 8)) s)) s
/-- BEAT (R226). -/
def execBeat (c : LCell) (d : Reg) (s : State) : Out :=
  onDev (conjDo c (.beat c d) [d] fun s => conjNext c (setRegAt c d (zx s.beat.count) s)) s
/-- PHASE_READ (R226). -/
def execPhaseRead (c : LCell) (d : Reg) (s : State) : Out :=
  onDev (conjDo c (.phaseRead c d) [d] fun s => conjNext c (setRegAt c d (zx (beatPhase s)) s)) s

/-! ### Blocking waits (R181, R227) -/

/-- A mailbox entry's TAG (R235). -/
def tagOf (e : List Byte) : Nat := fld e 0 2

/-- Whether the condition of a wait that the cell itself decides holds (R227, R233, R235, R237). A signal wait ends by its
WAKE, which a held cell keeps until it resumes (R310). -/
def waitHolds (d : Dev) (c : LCell) (w : Wait) : Bool :=
  let x := cellAt d c
  match w with
  | .beat n => decide (n.toNat ≤ d.beat.count)
  | .signal _ _ _ _ _ _ woken => woken
  | .queue q _ => (takeMember x q).isSome
  | .mbox .. => !x.conj.mbox.isEmpty
  | .mboxTag _ tag _ _ => x.conj.mbox.any fun e => tagOf e == tag
  | .sync => x.sends.isEmpty && x.conj.launch.isNone && x.conj.sigs.isEmpty

/-- A wait completes with its result, and control passes on (R227). -/
def waitDone (c : LCell) (res : Reg) (v : W64) (d : Dev) : Dev :=
  conjNext c (setRegAt c res v (updConj c (fun k => { k with st := .running }) d))

/-- Copies a line of 64 B to the data store. -/
def copyLine (c : LCell) (a : W64) (bs : List Byte) (d : Dev) : Dev :=
  updConj c (fun k => { k with dmem := k.dmem.wrN a.toNat (padTo 64 (bs.take 64)) }) d

/-- A wait whose condition holds has its effect and completes with result 0: the head entry, or the mailbox entry with its
TAG, goes to the data store (R227, R233, R235). A queue entry that its check code shows upset is discarded instead, and the
wait goes on as `again` says (R259). -/
def waitTake (c : LCell) (w : Wait) (res : Reg) (e : Ecc) (again : Dev → Dev) (d : Dev) : Dev :=
  let x := cellAt d c
  match w with
  | .queue q a => match takeMember x q with
    | some m => if e == .upset then again (readEntry c m e (fun _ d => d) d)
                else waitDone c res 0 (readEntry c m e (copyLine c a) d)
    | none => d
  | .mbox a r _ => match x.conj.mbox with
    | e :: _ => waitDone c res 0 (resumeMailbox c (setRegAt c r (zx (tagOf e)) (updConj c (fun k => { k with mbox := k.mbox.drop 1 }) (copyLine c a e d))))
    | [] => d
  | .mboxTag a tag r _ => match x.conj.mbox.find? fun e => tagOf e == tag with
    | some e => waitDone c res 0 (resumeMailbox c (setRegAt c r (zx tag) (updConj c (fun k => { k with mbox := eraseFirst (fun e => tagOf e == tag) k.mbox }) (copyLine c a e d))))
    | none => d
  | _ => waitDone c res 0 d

/-- A wait whose condition does not hold: result 1 where the deadline has come, else the core waits (R227). -/
def waitStay (c : LCell) (w : Wait) (dl : W64) (res : Reg) (d : Dev) : Dev :=
  if dl ≠ 0 ∧ dl.toNat ≤ d.beat.count then waitDone c res 1 d
  else updConj c (fun k => { k with st := .waiting w dl res, stall := none }) d

/-- A blocking instruction at issue (R227). -/
def waitIssue (c : LCell) (w : Wait) (dl : W64) (res : Reg) (e : Ecc) (d : Dev) : Dev :=
  if waitHolds d c w then waitTake c w res e (waitStay c w dl res) d else waitStay c w dl res d

/-- A core that waits and may go on: the device is RUNNING and its cell is not stopped (R188, R446). -/
def coreWaits (d : Dev) (c : LCell) : Option (Wait × W64 × Reg) :=
  let x := cellAt d c
  if cellOk c && d.ctl.state == .running && !x.stopped && x.fence == .none then
    match x.conj.st with
    | .waiting w dl r => some (w, dl, r)
    | _ => none
  else none

/-- BLOCKING_WAIT_RESUME (R227); `e` is what the check code of a queue entry shows (R259). -/
def execBlockingWaitResume (c : LCell) (s : State) (e : Ecc := .good) : Out :=
  onDev (fun d => match coreWaits d c with
    | some (w, dl, r) => if waitHolds d c w then waitTake c w r e (waitStay c w dl r) d else d
    | none => d) s

/-- The flit that removes a wait's monitor (R305). -/
def sendCancel (c : LCell) (f w : Nat) (d : Dev) : Dev :=
  sendFlit (.cell c) (.store f) (.sigOp .cancel { src := .cell c, frame := f, word := w, v := 0, clause := activeId (cellAt d c), off := (cellAt d c).conj.pc }) d

/-- WAIT_DEADLINE: the instruction completes with result 1; a signal wait first sends CANCEL and completes on the reply that
comes first (R227, R305). `e` is what the check code of a queue entry that is there by then shows (R259). -/
def execWaitDeadline (c : LCell) (s : State) (e : Ecc := .good) : Out :=
  onDev (fun d => match coreWaits d c with
    | some (w, dl, r) =>
      if dl = 0 ∨ d.beat.count < dl.toNat then d
      else match w with
        | .signal f n v k cancelled ab woken =>
          if cancelled || woken then d
          else sendCancel c f n (updConj c (fun x => { x with st := .waiting (.signal f n v k true ab woken) dl r }) d)
        | _ => if waitHolds d c w then waitTake c w r e (waitStay c w dl r) d else waitDone c r 1 d
    | none => d) s

/-- BWAIT (R226). -/
def execBwait (c : LCell) (a dl d : Reg) (s : State) : Out :=
  onDev (conjDo c (.bwait c a dl d) [a, dl, d] fun s => waitIssue c (.beat (regAt s c a)) (regAt s c dl) d .good s) s

/-! ### Signals (R228, R229) -/

/-- The word of clause-relative signal `a`, where `a` lies below SIGNALS (R172, R229). -/
def signalAt (d : Dev) (c : LCell) (a : W64) : Option (Nat × Nat) :=
  match activeClause d c with
  | some cl => if a.toNat < cl.signals then runAt cl.runs a.toNat else none
  | none => none

/-- Sends a signal operation and remembers what its reply writes (R171, R300). -/
def sendSignal (c : LCell) (op : SigOp) (f w : Nat) (v : W64) (reg : Option Reg) (d : Dev) : Dev :=
  let x := cellAt d c
  updConj c (fun k => { k with sigs := k.sigs ++ [{ f := f, w := w, reg := reg }] })
    (sendFlit (.cell c) (.store f) (.sigOp op { src := .cell c, frame := f, word := w, v := v, clause := activeId x, off := x.conj.pc }) d)

/-- READ and ADD operations outstanding (R171). -/
def readsOut (x : Cell) : Nat := (x.conj.sigs.filter fun o => o.reg.isSome).length

/-- A READ or ADD: SIGNAL_RANGE, or the operation is sent; a fifth outstanding one stalls at issue (R171, R229). -/
def signalFetch (c : LCell) (op : SigOp) (a : W64) (v : W64) (r : Reg) (d : Dev) : Dev :=
  match signalAt d c a with
  | none => conjFault c 0x0402 a.toNat 0 d
  | some (f, w) => if readsOut (cellAt d c) < 4 then conjNext c (sendSignal c op f w v (some r) d) else d

/-- SREAD (R228). -/
def execSread (c : LCell) (a d : Reg) (s : State) : Out :=
  onDev (conjDo c (.sread c a d) [a, d] fun s => signalFetch c .read (regAt s c a) 0 d s) s
/-- SSET (R228). -/
def execSset (c : LCell) (a b : Reg) (s : State) : Out :=
  onDev (conjDo c (.sset c a b) [a, b] fun s => match signalAt s c (regAt s c a) with
    | none => conjFault c 0x0402 (regAt s c a).toNat 0 s
    | some (f, w) => conjNext c (sendSignal c .set f w (regAt s c b) none s)) s
/-- SADD (R228). -/
def execSadd (c : LCell) (a b d : Reg) (s : State) : Out :=
  onDev (conjDo c (.sadd c a b d) [a, b, d] fun s => signalFetch c .add (regAt s c a) (regAt s c b) d s) s
/-- SWAIT (R228): the WAIT goes to the store and the core waits for its reply. -/
def execSwait (c : LCell) (a b dl d : Reg) (cond : Cond) (s : State) : Out :=
  onDev (conjDo c (.swait c a b dl d cond) [a, b, dl, d] fun s => match signalAt s c (regAt s c a) with
    | none => conjFault c 0x0402 (regAt s c a).toNat 0 s
    | some (f, w) =>
      let x := cellAt s c
      updConj c (fun k => { k with st := .waiting (.signal f w (regAt s c b) cond false false false) (regAt s c dl) d, stall := none })
        (sendFlit (.cell c) (.store f) (.sigOp (.wait cond) { src := .cell c, frame := f, word := w, v := regAt s c b, clause := activeId x, off := x.conj.pc }) s)) s

/-- The oldest operation outstanding at store `f` is answered: its register takes `v` (R218, R300). -/
def signalAnswer (c : LCell) (f : Nat) (v : W64) (d : Dev) : Dev :=
  updConj c (fun k => match k.sigs.find? fun o => o.f == f with
    | some o =>
      let k := { k with sigs := eraseFirst (fun o => o.f == f) k.sigs }
      match o.reg with
      | some r => k.setReg r v
      | none => k
    | none => k) d

/-- A reply of store `f` to a cell. -/
def signalReply (dst : Src) (f : Nat) (res : SigRes) (v : W64) (g : LCell → Dev → Dev) : Dev → Dev :=
  arrive (.store f) dst [.sigReply f res v] fun d => match srcCell dst with
    | some c => g c d
    | none => d

/-- SIGNAL_REPLY_WAKE: the wait completes with result 0; a held cell keeps the WAKE and acts on it when it resumes (R310).
The CANCELLED reply to a CANCEL that it has overtaken is to be ignored (R305). -/
def execSignalReplyWake (dst : Src) (f : Nat) (v : W64) (s : State) : Out :=
  onDev (signalReply dst f .wake v (fun c d => match (cellAt d c).conj.st with
    | .waiting (.signal g n u k cancelled ab _) dl r =>
      if g = f then
        let d := updConj c (fun x => { x with ignore := if cancelled then x.ignore ++ [f] else x.ignore }) d
        if (cellAt d c).stopped || d.ctl.state != .running then updConj c (fun x => { x with st := .waiting (.signal g n u k cancelled ab true) dl r }) d
        else waitDone c r 0 d
      else d
    | _ => d)) s
/-- SIGNAL_REPLY_CANCELLED: result 1, or for a wait abandoned at a hold the instruction issues again (R188, R305); ignored
where a WAKE has ended the wait. -/
def execSignalReplyCancelled (dst : Src) (f : Nat) (s : State) : Out :=
  onDev (signalReply dst f .cancelled 0 (fun c d =>
    let x := cellAt d c
    if x.conj.ignore.contains f then updConj c (fun k => { k with ignore := k.ignore.erase f }) d
    else match x.conj.st with
    | .waiting (.signal g _ _ _ cancelled ab _) _ r =>
      if g = f ∧ cancelled then (if ab then updConj c (fun k => { k with st := .running }) d else waitDone c r 1 d) else d
    | _ => d)) s

/-! ### Queue instructions (R231-R233) -/

/-- Issues a message or control from a Conjunction send buffer: four buffers, a fifth stalls at issue (R232). -/
def conjSend (c : LCell) (m : Sent) (d : Dev) : Dev :=
  if (cellAt d c).sends.length < 4 then settleStall (.cell c) (conjNext c (sendMsg (.cell c) m d))
  else updConj c (fun k => { k with stall := some (m.dst, m.q) }) d

/-- A named cell outside the region that is a fenced cell of the device: no record is written for it (R173;
notes/assumptions/38). -/
def namesFenced (d : Dev) (cl : Clause) (n : W64) : Bool :=
  cellOk (nameCell cl n) && (cellAt d (nameCell cl n)).fence != .none
/-- An instruction that names a cell: TARGET_OUTSIDE, or `f` with the named cell (R173, R230). -/
def withName (c : LCell) (n : W64) (f : LCell → Dev → Dev) (d : Dev) : Dev :=
  match activeClause d c with
  | none => d
  | some cl =>
    if nameOk cl n then f (nameCell cl n) d
    else if namesFenced d cl n then conjNext c d
    else conjFault c 0x0105 (relCode (nameRow n) (nameCol n)) 0 d

/-- A queue-control instruction (R231). -/
def conjCtl (c : LCell) (i : Instr) (a : Reg) (op : QOp) : Dev → Dev :=
  conjDo c i [a] fun d =>
    withName c (regAt d c a) (fun t d => conjSend c { dst := t, q := nameQ (regAt d c a), ctl := some op, off := (cellAt d c).conj.pc } d) d

/-- QOPEN (R231). -/
def execQopen (c : LCell) (a : Reg) (s : State) : Out := onDev (conjCtl c (.qopen c a) a .qopen) s
/-- QCLOSE (R231). -/
def execQclose (c : LCell) (a : Reg) (s : State) : Out := onDev (conjCtl c (.qclose c a) a .qclose) s
/-- QRESET (R231). -/
def execQreset (c : LCell) (a : Reg) (s : State) : Out := onDev (conjCtl c (.qreset c a) a .qreset) s

/-- QSEND: the checks run name, then address; the 64 B are copied at issue (R231, R232). -/
def execQsend (c : LCell) (a b : Reg) (strict : Bool) (s : State) : Out :=
  onDev (conjDo c (.qsend c a b strict) [a, b] fun d =>
    withName c (regAt d c a) (fun t d =>
      let addr := regAt d c b
      if lineAddrOk addr then
        conjSend c { dst := t, q := nameQ (regAt d c a), strict := strict, pay := (cellAt d c).conj.dmem.rdN addr.toNat 64,
                     off := (cellAt d c).conj.pc } d
      else conjFault c 0x0107 addr.toNat 0 d) d) s

/-- QRECV (R233): binding, then address, then the wait. -/
def execQrecv (c : LCell) (a b dl d : Reg) (s : State) (e : Ecc := .good) : Out :=
  onDev (conjDo c (.qrecv c a b dl d .good) [a, b, dl, d] fun s =>
    let q := bits (regAt s c a).toNat 5 0
    let addr := regAt s c b
    if qPort (activeData (cellAt s c)) q ≠ 10 then conjFault c 0x0303 q 0 s
    else if lineAddrOk addr then waitIssue c (.queue q addr) (regAt s c dl) d e s
    else conjFault c 0x0107 addr.toNat 0 s) s

/-! ### Launches and mover requests (R175-R178, R234) -/

/-- The engine that a launch selects at its target, where it has one (R234). -/
def launchEngine (t : LCell) (smm : Bool) : Option Engine :=
  match kindAt t.row t.col with
  | .verb => if smm then none else some .verb
  | .adverb => if smm then some .smm else some .vec
  | _ => none
/-- LAUNCH (R234): a launch that finds the launch buffer taken stalls at issue (R176). -/
def execLaunch (c : LCell) (idx : BitVec 10) (t p0 p1 : Reg) (smm : Bool) (s : State) : Out :=
  onDev (conjDo c (.launch c idx t p0 p1 smm) [t, p0, p1] fun d =>
    let n := regAt d c t
    withName c n (fun tc d => match launchEngine tc smm with
      | none => conjFault c 0x0109 (relCode (nameRow n) (nameCol n)) 0 d
      | some eng =>
        if (cellAt d c).conj.launch.isSome then updConj c (fun k => { k with stall := some (tc, 64) }) d
        else
          let l : Launch := { idx := idx.toNat, eng := eng, p0 := regAt d c p0, p1 := regAt d c p1, src := c, off := (cellAt d c).conj.pc, born := d.mesh.stamp }
          settleStall (.cell c) (conjNext c (updConj c (fun k => { k with launch := some (tc, l) })
            (sendFlit (.cell c) (.cell tc) (.launch idx.toNat eng l.p0 l.p1) d)))) d) s

/-- The request queue of a frame (R320). -/
def frameQueue (d : Dev) (f : Nat) : List MReq := NMap.get [] d.movers.queue f
/-- Mover requests of a cell that have not started on a mover (R178). -/
def notStarted (d : Dev) (c : LCell) : Nat :=
  (cellAt d c).conj.mreqs.length + ((frameQueue d (frameOf c)).filter fun r => decide (r.cell = c)).length
/-- MOVE (R234): a ninth request not started stalls at issue (R178); a request that finds the frame's queue full waits in
its cell (R320). -/
def execMove (c : LCell) (idx : BitVec 10) (p0 p1 : Reg) (s : State) : Out :=
  onDev (conjDo c (.move c idx p0 p1) [p0, p1] fun d =>
    if 8 ≤ notStarted d c then updConj c (fun k => { k with stall := some (c, 65) }) d
    else
      let x := cellAt d c
      let r : MReq := { cell := c, clause := activeId x, slot := (activeSlot x).getD 0, idx := idx.toNat, p0 := regAt d c p0, p1 := regAt d c p1 }
      let f := frameOf c
      settleStall (.cell c) <| conjNext c (if (frameQueue d f).length < 64 then { d with movers := { d.movers with queue := NMap.set [] d.movers.queue f (frameQueue d f ++ [r]) } }
                  else updConj c (fun k => { k with mreqs := k.mreqs ++ [r] }) d)) s

/-! ### Mailbox (R184, R235) -/

/-- MBPOP (R235). -/
def execMbpop (c : LCell) (a dl d e : Reg) (s : State) : Out :=
  onDev (conjDo c (.mbpop c a dl d e) [a, dl, d, e] fun s =>
    let addr := regAt s c a
    if lineAddrOk addr then waitIssue c (.mbox addr d e) (regAt s c dl) e .good s else conjFault c 0x0107 addr.toNat 0 s) s
/-- MBTAKE (R235). -/
def execMbtake (c : LCell) (a b dl d e : Reg) (s : State) : Out :=
  onDev (conjDo c (.mbtake c a b dl d e) [a, b, dl, d, e] fun s =>
    let addr := regAt s c a
    if lineAddrOk addr then waitIssue c (.mboxTag addr ((regAt s c b).toNat % 65536) d e) (regAt s c dl) e .good s
    else conjFault c 0x0107 addr.toNat 0 s) s
/-- The sender of a summary learns that the cell `c` has taken it (R163, R167). -/
def summaryTaken (src : Src) (c : LCell) (d : Dev) : Dev :=
  match srcCell src with
  | some a => updCell a (fun x => { x with vecs := mapFirst (fun r => decide (r.sumWait = some c)) (fun r => { r with sumWait := none }) x.vecs }) d
  | none => d
/-- A summary at a fenced cell: discarded and counted, and its sender records CELL_FENCED, as for a message (R88; DEDUCED,
notes/assumptions/59). -/
def summaryFenced (c : LCell) (src : Src) (d : Dev) : Dev :=
  let d := updCell c (fun x => { x with win := { x.win with queueDiscarded := satAdd 32 x.win.queueDiscarded 1 } }) d
  let off := match srcCell src with
    | some a => ((cellAt d a).vecs.find? fun (r : VecRun) => decide (r.sumWait = some c)).map fun (r : VecRun) => r.off
    | none => none
  summaryTaken src c (recSender 0x0102 src (senderClause d src) (off.getD 0) (lcellCode c) 0 d)
/-- MAILBOX_SUMMARY: the record enters M, or waits at its sender while M is full (R163, R183). -/
def execMailboxSummary (c : LCell) (src : Src) (pay : List Byte) (s : State) : Out :=
  onDev (fun d =>
    if (cellAt d c).fence != .none then arrive src (.cell c) [.summary pay] (summaryFenced c src) d
    else if (cellAt d c).conj.mbox.length < 16 then
      arrive src (.cell c) [.summary pay] (fun d =>
        summaryTaken src c (updConj c (fun k => { k with mbox := k.mbox ++ [padTo 64 (pay.take 64)] }) d)) d
    else d) s

/-! ### System instructions (R236, R237) -/

/-- NOP. -/
def execNop (c : LCell) (s : State) : Out := onDev (conjDo c (.nop c) [] (conjNext c)) s
/-- CEND: fetch stops until the slot is next made ACTIVE (R186). -/
def execCend (c : LCell) (s : State) : Out :=
  onDev (conjDo c (.cend c) [] (updConj c fun k => { k with st := .ended, stall := none })) s
/-- SYNC (R237). -/
def execSync (c : LCell) (s : State) : Out := onDev (conjDo c (.sync c) [] (waitIssue c .sync 0 0 .good)) s
/-- The record of a FAULT instruction (R187). -/
def progFault (c : LCell) (sev : Nat) (a b : Reg) (d : Dev) : Dev :=
  let x := cellAt d c
  recCell 0x0108 sev c (activeId x) (some x.conj.pc) (x.conj.reg a).toNat (x.conj.reg b).toNat d
/-- FAULT_NOTICE (R236). -/
def execFaultNotice (c : LCell) (a b : Reg) (s : State) : Out :=
  onDev (conjDo c (.faultNotice c a b) [a, b] fun d => conjNext c (progFault c 0 a b d)) s
/-- FAULT_FATAL: no later instruction issues until a RELEASE names the clause (R236, R480). -/
def execFaultFatal (c : LCell) (a b : Reg) (s : State) : Out :=
  onDev (conjDo c (.faultFatal c a b) [a, b] fun d =>
    updCell c (fun y => { y with stopped := true, conj := { y.conj with pc := y.conj.pc + 1, stall := none } }) (progFault c 1 a b d)) s

end Sys2Proof.Machine
end

