-- ==== Sys2Proof/Machine/Stage.lean ====
section
/-! DEFINITION. STAGE descriptors of Verb and Adverb cells (R206, R207). -/
namespace Sys2Proof.Machine

/-- The field that a STAGE's declarations may name (R195). -/
def stageFields : List ParamField := [{ code := 0x10, off := 0x30, size := 4, opnd := 0 }]
/-- SPORT. -/
def gSport (r : List Byte) : Nat := fld r 0x28 1
/-- PORT. -/
def gPort (r : List Byte) : Nat := fld r 0x2C 4
/-- SRC_BASE. -/
def gBase (r : List Byte) : Nat := fld r 0x30 4
/-- DST_LINE. -/
def gLine (r : List Byte) : Nat := fld r 0x38 2
/-- LINES. -/
def gLines (r : List Byte) : Nat := fld r 0x3A 2
/-- The port code of SPORT (R207, R266). -/
def gCode (r : List Byte) : Nat := gSport r + 4

/-- The operand-file area that a STAGE writes. -/
def stageArea (r : List Byte) : Area := { start := 64 * gLine r, len := 64 * gLines r, opnd := 4 }
/-- The checks of R194 on a STAGE of a cell of kind `k`. -/
def stageChecks (k : Kind) (cl : Clause) (s : SlotData) (raw : List Byte) (p0 p1 : W64) : List Byte × Check :=
  let pr := applyParams stageFields raw p0 p1
  let r := withSignal pr.1 p0 p1
  let hi : Int := (gBase r : Int) + 64 * gLines r - 1
  (r, firstFail [
    failIf (fld raw 0 2 != 2) (formFail 0 (fld raw 0 2)),
    failIf (fld raw 2 2 != 64) (formFail 2 (fld raw 2 2)),
    headerCheck raw stageFields,
    failIf (match k with
      | .verb => decide (1 < gSport raw)
      | _ => decide (gSport raw < 2) || decide (5 < gSport raw)) (formFail 0x28 (gSport raw)),
    inPortCheck s (gCode raw) 0x2C (gPort raw) true,
    failIf (gBase raw % 64 != 0) (formFail 0x30 (gBase raw)),
    failIf (decide (4096 < gLines raw)) (formFail 0x3A (gLines raw)),
    pr.2,
    signalCheck cl.signals (signalUsed raw p0 p1),
    if gLines r = 0 then none
    else firstFail [
      (if pwMode (gPort r) = 1 then extentCheck 0 (gBase r : Int) hi (gBase r) (fld r 0x34 4) neighbourBytes else none),
      areaExtents [stageArea r]]])

/-- A neighbour-fed STAGE asks for the lines that it may now have in flight (R98). -/
def stageAsk (c : LCell) (d : Dev) : Dev :=
  match (cellAt d c).stage with
  | none => d
  | some g => match usable d c (pwDir (gPort g.raw)) with
    | none => d
    | some t =>
      let ls := g.left.take (portFlight - g.need.length)
      if pwMode (gPort g.raw) = 2 then d
      else askLines c t (pwDir (gPort g.raw)) g.off ls
        (updCell c (fun x => { x with stage := some { g with
          need := g.need ++ ls.map fun a => { port := gCode g.raw, frm := some t, addr := a }
          left := g.left.drop ls.length } }) d)
/-- Starts a STAGE that has passed its checks: reads of its lines go to the neighbour, or messages are awaited. -/
def stageBegin (c : LCell) (off : Nat) (r : List Byte) (d : Dev) : Dev :=
  let n := gLines r
  let w := gPort r
  let ls := (List.range n).map fun i => gBase r + 64 * i
  if n = 0 then raiseSignal c off (fld r 4 2) d
  else if pwMode w = 2 then
    updCell c (fun x => { x with stage := some { off := off, raw := r, need := ls.map fun a => { port := gCode r, frm := none, addr := a } } }) d
  else match usable d c (pwDir w) with
    | none => refuseDesc c (some off) (neighbourFail c (pwDir w)) d
    | some _ => stageAsk c (updCell c (fun x => { x with stage := some { off := off, raw := r, need := [], left := ls } }) d)
/-- The operand-file buffers of an SMM. -/
def smmAreas (r : List Byte) : List Area :=
  [{ start := fld r 0x38 4, len := fld r 0x3C 4, opnd := 0 }, { start := fld r 0x48 4, len := fld r 0x4C 4, opnd := 1 },
   { start := fld r 0x58 4, len := fld r 0x5C 4, opnd := 2 }]
/-- Whether the running SMM keeps a STAGE from starting (R165, R216). -/
def stageClash (x : Cell) (r : List Byte) : Bool :=
  match x.smm with
  | some m => (smmAreas m.raw).any (stageArea r).meets
  | none => false

/-- STAGE_START (R206, R207): every earlier descriptor of the engine has completed. -/
def execStageStart (c : LCell) (s : State) : Out :=
  onDev (fun d =>
    let x := cellAt d c
    let sd := activeData x
    let k := kindAt c.row c.col
    let e : Engine := if k = .verb then .verb else .vec
    match headLaunch d c k e, activeClause d c with
    | some l, some cl =>
      if (k != .verb && k != .adverb) || !x.mats.isEmpty || !x.vecs.isEmpty || x.stage.isSome then d
      else if descKind sd.secA l.idx = some (if k = .verb then 1 else 0x10) then d
      else match descAt sd.secA l.idx 64 with
        | none => refuseDesc c none (0x0506, 0xFFFF, l.idx) (takePending c e d)
        | some (off, raw) =>
          let ch := stageChecks k cl sd raw l.p0 l.p1
          match ch.2 with
          | some f => refuseDesc c (some off) f (takePending c e d)
          | none => if stageClash x ch.1 then d else stageBegin c off ch.1 (takePending c e d)
    | _, _ => d) s

/-- A line of a STAGE lands in the operand file (R207). -/
def stageLand (c : LCell) (n : Need) (line : List Byte) (d : Dev) : Dev :=
  (fun e => if engineGoes e c then stageAsk c e else e) <| updCell c (fun x => match x.stage with
    | some g => { x with
        opfile := x.opfile.wrN (64 * gLine g.raw + (n.addr - gBase g.raw)) (padTo 64 (line.take 64))
        stage := some { g with need := eraseFirst (fun k => decide (k = n)) g.need, landed := g.landed + 1 } }
    | none => x) d

/-- STAGE_COMPLETE (R206): the last line has landed. -/
def execStageComplete (c : LCell) (s : State) : Out :=
  onDev (fun d => match (cellAt d c).stage with
    | some g => if g.need.isEmpty && g.left.isEmpty then raiseSignal c g.off (fld g.raw 4 2) (updCell c (fun x => { x with stage := none }) d) else d
    | none => d) s

end Sys2Proof.Machine
end

