-- ==== Sys2Proof/Machine/Verb.lean ====
section
/-! DEFINITION. Verb cells (R92-R114, R199-R206): the checks of a MATMUL, its blocks, K steps, drains, epilogue and output. -/
namespace Sys2Proof.Machine

/-! ### Fields (R199) -/

/-- The modes of R99. -/
inductive MatMode where
  | fp8 | int8 | mx | half | fp19 | pair | limb
  deriving DecidableEq, Repr

/-- The mode of a format pair; none where R99 does not list it. -/
def matMode (a b : Nat) : Option MatMode :=
  if (a == 7 || a == 8) && (b == 7 || b == 8) then some .fp8
  else if a == 0x0E && b == 0x0E then some .int8
  else if fmtMx a && fmtMx b then some .mx
  else if a == b && (a == 5 || a == 6) then some .half
  else if (a == 3 || a == 4) && (b == 3 || b == 4) then some .fp19
  else if a == 0x12 && b == 0x12 then some .pair
  else if a == 1 && b == 1 then some .limb
  else none
/-- Paired precision and the FP64 limb path (R104 timeline). -/
def MatMode.wide : MatMode → Bool
  | .pair => true
  | .limb => true
  | _ => false

/-- FMT_A. -/
def mFmtA (r : List Byte) : Nat := fld r 0x28 1
/-- FMT_B. -/
def mFmtB (r : List Byte) : Nat := fld r 0x29 1
/-- FMT_O. -/
def mFmtO (r : List Byte) : Nat := fld r 0x2A 1
/-- PRELOAD. -/
def mPreload (r : List Byte) : Bool := bit (fld r 0x2B 1) 0
/-- M_INNER. -/
def mInner (r : List Byte) : Nat := fld r 0x2C 4
/-- M_OUTER. -/
def mOuter (r : List Byte) : Nat := fld r 0x30 4
/-- M_ORIGIN. -/
def mOrigin (r : List Byte) : Nat := fld r 0x34 4
/-- M_COUNT. -/
def mCount (r : List Byte) : Nat := fld r 0x38 4
/-- N. -/
def mN (r : List Byte) : Nat := fld r 0x3C 4
/-- K. -/
def mK (r : List Byte) : Nat := fld r 0x40 4
/-- The port words A, B0, B1, O by number 0-3. -/
def mPort (r : List Byte) (i : Nat) : Nat := fld r (0x48 + 4 * i) 4
/-- B_OUTER_STRIDE. -/
def mBOuter (r : List Byte) : Int := fldS r 0x80 8
/-- EPI_COUNT. -/
def mEpis (r : List Byte) : Nat := fld r 0xB2 1
/-- The descriptor's mode; a running descriptor has passed R99. -/
def mMode (r : List Byte) : MatMode := (matMode (mFmtA r) (mFmtB r)).getD .fp8
/-- Field `f` at offset `o` of epilogue stage `s` (R203). -/
def epiFld (r : List Byte) (s o n : Nat) : Nat := fld r (0xB8 + 16 * s + o) n
/-- OP. -/
def epiOp (r : List Byte) (s : Nat) : Nat := epiFld r s 0 1
/-- Bytes of an element of E: FP32 or BF16 (R204). -/
def epiSize (r : List Byte) (s : Nat) : Nat := if epiFld r s 2 1 = 2 then 4 else 2
/-- Whether a stage reads an operand area. -/
def epiReads (r : List Byte) (s : Nat) : Bool := (epiOp r s == 1 || epiOp r s == 2) && epiFld r s 1 1 != 0
/-- Bytes of an output element (R200). -/
def mOutSize (r : List Byte) : Nat := fmtBits (mFmtO r) / 8

/-- The fields that a MATMUL's declarations may name (R195). -/
def matFields : List ParamField :=
  [{ code := 0x01, off := 0x34, size := 4, opnd := 0 }, { code := 0x10, off := 0x58, size := 4, opnd := 0 },
   { code := 0x11, off := 0x70, size := 4, opnd := 1 }, { code := 0x12, off := 0x88, size := 4, opnd := 2 }]

/-! ### Blocks (R201) -/

/-- Row blocks that a run of `n` rows makes. -/
def rowBlocks (n : Nat) : Nat := (n + 63) / 64
/-- Row blocks of the descriptor: where B advances by slice no row block spans two slices (R110). -/
def mRowBlocks (r : List Byte) : Nat :=
  if mBOuter r = 0 then rowBlocks (mCount r)
  else
    let head := min (mCount r) (mInner r - mOrigin r % mInner r)
    let rest := mCount r - head
    rowBlocks head + rest / mInner r * rowBlocks (mInner r) + rowBlocks (rest % mInner r)
/-- Column blocks. -/
def mColBlocks (r : List Byte) : Nat := (mN r + 127) / 128
/-- Groups of 32 along K. -/
def mGroups (r : List Byte) : Nat := (mK r + 31) / 32
/-- Block halves of column block `cb` that hold an in-extent column. -/
def mHalves (r : List Byte) (cb : Nat) : Nat := if mN r - 128 * cb ≤ 64 then 1 else 2

/-- The row blocks from row `m` to `e`: first row and rows; `fuel` bounds their number. -/
def rowSpans (inner : Nat) (split : Bool) (e : Nat) : Nat → Nat → List (Nat × Nat)
  | 0, _ => []
  | fuel + 1, m =>
    if m < e then
      let lim := if split then min e ((m / inner + 1) * inner) else e
      let rows := min 64 (lim - m)
      (m, rows) :: rowSpans inner split e fuel (m + rows)
    else []
/-- The blocks in execution order. -/
def matBlocks (r : List Byte) : List Blk :=
  let spans := rowSpans (mInner r) (decide (mBOuter r ≠ 0)) (mOrigin r + mCount r) (mCount r) (mOrigin r)
  let cbs := mColBlocks r
  (spans.zipIdx).flatMap fun p => (List.range cbs).map fun cb =>
    { m0 := p.1.1, rows := p.1.2, n0 := 128 * cb, cols := min 128 (mN r - 128 * cb), rb := p.2, cb := cb, q := p.2 * cbs + cb }

/-- sl(m). -/
def mSlice (r : List Byte) (m : Nat) : Int := ((m / mInner r : Nat) : Int) - (mOrigin r / mInner r : Nat)
/-- ri(m). -/
def mRow (r : List Byte) (m : Nat) : Int := ((m % mInner r : Nat) : Int) - (mOrigin r % mInner r : Nat)
/-- bitA(m, k) of R201: A_LD counts bytes, so MXFP4 elements that share a byte are neighbours along the rows of one K step;
the container table of R100 names the lower K index for bits [3:0] instead (DESIGN CHOICE, notes/assumptions/61). -/
def bitA (r : List Byte) (m k : Nat) : Int :=
  8 * ((fld r 0x58 4 : Nat) + mSlice r m * fldS r 0x68 8 + k * fldS r 0x60 8) + mRow r m * fmtBits (mFmtA r)
/-- bitB(m, k, n): MXFP4 elements that share a byte are neighbours along the columns (DESIGN CHOICE, notes/assumptions/61). -/
def bitB (r : List Byte) (m k n : Nat) : Int :=
  8 * ((fld r 0x70 4 : Nat) + mSlice r m * mBOuter r + k * fldS r 0x78 8) + n * fmtBits (mFmtB r)
/-- byteO(m, n). -/
def byteO (r : List Byte) (m n : Nat) : Int :=
  (fld r 0x88 4 : Nat) + mSlice r m * fldS r 0x98 8 + mRow r m * fldS r 0x90 8 + n * mOutSize r

/-! ### Checks (R194, R200, R203) -/

/-- The codes of an epilogue stage (R203). -/
def epiCheck (r : List Byte) (s : Nat) : Check :=
  let o := 0xB8 + 16 * s
  let op := epiOp r s
  let f := epiFld r s 1 1
  let e := epiFld r s 2 1
  let c := epiFld r s 3 1
  firstFail [
    failIf (decide (op < 1) || decide (5 < op)) (formFail o op),
    failIf ((op == 1 || op == 2) && decide (3 < f)) (formFail (o + 1) f),
    failIf ((op == 1 || op == 2) && f != 0 && e != 2 && e != 6) (formFail (o + 2) e),
    failIf (op == 5 && !([2, 5, 6, 7, 8, 9, 0x0A, 0x0E].contains c)) (formFail (o + 3) c)]
/-- The FMT_O that R200 asks for. -/
def wantFmtO (r : List Byte) (m : MatMode) : Nat :=
  let n := mEpis r
  if n = 0 then (match m with
    | .int8 => 0x10
    | .limb => 1
    | _ => 2)
  else if epiOp r (n - 1) = 5 then epiFld r (n - 1) 3 1 else 2
/-- R194 step 1 of a MATMUL, codes in field order, then combinations. -/
def matForm (cl : Clause) (s : SlotData) (r : List Byte) : Check :=
  let n := mEpis r
  let wide := ((matMode (mFmtA r) (mFmtB r)).map MatMode.wide).getD false
  firstFail [
    headerCheck r matFields,
    failIf (mInner r == 0) (formFail 0x2C 0),
    failIf (mOuter r == 0) (formFail 0x30 0),
    inPortCheck s 1 0x48 (mPort r 0) true,
    inPortCheck s 2 0x4C (mPort r 1) true,
    inPortCheck s 3 0x50 (mPort r 2) (decide (64 < mN r)),
    failIf (pwMode (mPort r 3) == 0 || pwMode (mPort r 3) == 3) (formFail 0x54 (mPort r 3)),
    (if pwMode (mPort r 3) = 2 then outPortCheck cl (pwRow (mPort r 3)) (pwCol (mPort r 3)) else none),
    failIf (fld r 0xA8 2 % 512 != 0) (formFail 0xA8 (fld r 0xA8 2)),
    failIf (fld r 0xAA 2 % 512 != 0) (formFail 0xAA (fld r 0xAA 2)),
    failIf (decide (4 < n)) (formFail 0xB2 n),
    firstFail ((List.range (min 4 n)).map (epiCheck r)),
    -- combinations: CONVERT before the last stage, an epilogue in a wide mode, FMT_O
    firstFail ((List.range (min 4 n)).map fun i => failIf (epiOp r i == 5 && i + 1 != n) (formFail (0xB8 + 16 * i) 5)),
    failIf (wide && n != 0) (formFail 0xB2 n),
    (match matMode (mFmtA r) (mFmtB r) with
     | some m => failIf (mFmtO r != wantFmtO r m) (formFail 0x2A (mFmtO r))
     | none => none)]
/-- R194 step 2 of a MATMUL: FORMAT_PAIR, then LIMB_DISABLED (R99, R113). -/
def matPair (cl : Clause) (r : List Byte) : Check :=
  match matMode (mFmtA r) (mFmtB r) with
  | none => some (0x0504, mFmtA r * 256 + mFmtB r, 0)
  | some .limb => failIf (!(bit (fld cl.contract 3 1) 0)) (0x0502, 0, 0)
  | some _ => none

/-- The operand-file areas of a MATMUL (R93, R201, R204); detail words count lines. -/
def matAreas (r : List Byte) : List Area :=
  let rb := mRowBlocks r
  let cb := mColBlocks r
  let g := mGroups r
  let wide := (mMode r).wide
  let line (o n k : Nat) : Area := { start := 64 * fld r o 2, len := 64 * n, opnd := k }
  let h := ((List.range cb).map (mHalves r)).foldl (· + ·) 0
  [line 0xA8 512 4] ++ (if fld r 0xA8 2 = fld r 0xAA 2 then [] else [line 0xAA 512 4]) ++
  (if mMode r == .mx then [line 0xAC (rb * g) 5, line 0xAE (h * g) 5] else []) ++
  (if mPreload r then [line 0xB0 (rb * cb * (if wide then 1024 else 512)) 4] else []) ++
  ((List.range (mEpis r)).filter (epiReads r)).map fun s =>
    let n := match epiFld r s 1 1 with
      | 1 => mN r
      | 2 => mCount r
      | _ => rb * cb * 8192
    { start := 64 * epiFld r s 4 2, len := upTo 64 (n * epiSize r s), opnd := 4 }

/-- The slices whose elements can be extreme: the first two and the last two; the row range of each. -/
def mSlices (r : List Byte) : List (Nat × Nat) :=
  let o := mOrigin r
  let e := o + mCount r
  let s0 := o / mInner r
  let s1 := (e - 1) / mInner r
  ([s0, s0 + 1, s1 - 1, s1].filter fun s => decide (s0 ≤ s) && decide (s ≤ s1)).map fun s =>
    (max o (s * mInner r), min (e - 1) ((s + 1) * mInner r - 1))
/-- lo and hi over elements given by their bit addresses (R483). -/
def spanOf (w : Nat) (as : List Int) : Int × Int := (byteOf (minInt as), byteOf (maxInt as + w - 1))
/-- The first and last columns that a neighbour-fed B0 or B1 reads: B0 the first half of every column block, B1 the second;
the extent rule does not apply to a queue-fed port (R199). -/
def bColumns (r : List Byte) : List Nat :=
  let n := mN r
  let last := (n - 1) / 128 * 128
  (if pwMode (mPort r 1) = 1 then [0, min (n - 1) (last + 63)] else []) ++
  (if pwMode (mPort r 2) = 1 ∧ 64 < n then [64, if last + 64 < n then n - 1 else last - 1] else [])
/-- R194 step 6 of a MATMUL, in ascending operand number. -/
def matExtents (r : List Byte) : Check :=
  let sl := mSlices r
  let ks := [0, mK r - 1]
  let ns := [0, mN r - 1]
  let ms := sl.flatMap fun p => [p.1, p.2]
  let a := spanOf (fmtBits (mFmtA r)) (ms.flatMap fun m => ks.map fun k => bitA r m k)
  let bs := (bColumns r).flatMap fun n => ms.flatMap fun m => ks.map fun k => bitB r m k n
  let b := spanOf (fmtBits (mFmtB r)) bs
  let pairs : List Int := if mMode r == .pair then [0, (fld r 0xA0 4 : Nat)] else [0]
  let o := spanOf (8 * mOutSize r) (ms.flatMap fun m => ns.flatMap fun n => pairs.map fun p => 8 * (byteO r m n + p))
  let blocks := mRowBlocks r * mColBlocks r
  let lastRows := match (matBlocks r).getLast? with
    | some k => k.rows
    | none => 1
  let os := fld r 0xA4 4
  let top := mOrigin r + mCount r
  firstFail [
    failIf (decide (mInner r * mOuter r < top)) (0x0601, 4, top % 2 ^ 32),
    (if pwMode (mPort r 0) = 1 then extentCheck 0 a.1 a.2 (fld r 0x58 4) (fld r 0x5C 4) neighbourBytes else none),
    (if !bs.isEmpty then extentCheck 1 b.1 b.2 (fld r 0x70 4) (fld r 0x74 4) neighbourBytes else none),
    (if pwMode (mPort r 3) = 1 then extentCheck 2 o.1 o.2 (fld r 0x88 4) (fld r 0x8C 4) neighbourBytes else none),
    (if pwMode (mPort r 3) = 1 ∧ (mFmtO r = 9 ∨ mFmtO r = 0x0A) then
       extentCheck 3 os ((os + (blocks - 1) * 256 + 4 * (lastRows - 1) + (min 128 (mN r - 128 * (mColBlocks r - 1)) - 1) / 32 : Nat) : Int)
         (fld r 0x88 4) (fld r 0x8C 4) neighbourBytes
     else none),
    areaExtents (matAreas r)]

/-- An empty MATMUL (R482). -/
def matEmpty (r : List Byte) : Bool := mCount r == 0 || mN r == 0 || mK r == 0

/-! ### K steps (R102, R112, R114) -/

/-- Elements per operand of a K step: the bit addresses of A's rows and of the columns of B0 and B1. -/
def stepBits (r : List Byte) (b : Blk) (k port : Nat) : List Int :=
  match port with
  | 1 => (List.range b.rows).map fun i => bitA r (b.m0 + i) k
  | 2 => (List.range (min 64 b.cols)).map fun j => bitB r b.m0 k (b.n0 + j)
  | _ => (List.range (b.cols - 64)).map fun j => bitB r b.m0 k (b.n0 + 64 + j)
/-- Width of a port's elements. -/
def portBits (r : List Byte) (port : Nat) : Nat := if port = 1 then fmtBits (mFmtA r) else fmtBits (mFmtB r)

/-- The lines that a port reads for a K step, rising (R202). -/
def stepLines (r : List Byte) (b : Blk) (port k : Nat) : List Nat :=
  (linesOf (portBits r port) (stepBits r b k port)).map (wrapN 64)
/-- Replaces the descriptor that takes operands: the last of those that run. -/
def setLastMat (c : LCell) (r : Option MatRun) (d : Dev) : Dev :=
  updCell c (fun x => { x with mats := x.mats.dropLast ++ r.toList }) d
/-- A port that a block uses without a usable neighbour (R67). -/
def matOutside (d : Dev) (c : LCell) (r : List Byte) (b : Blk) : Check :=
  firstFail ([1, 2, 3].map fun p =>
    let w := mPort r (p - 1)
    failIf (!(stepBits r b 0 p).isEmpty && pwMode w != 2 && (usable d c (pwDir w)).isNone) (neighbourFail c (pwDir w)))
/-- A neighbour-fed port asks for the lines that it may now have in flight (R98). -/
def askPort (c : LCell) (b : Blk) (p : Nat) (d : Dev) : Dev :=
  match (cellAt d c).mats.getLast? with
  | none => d
  | some m =>
    let w := mPort m.raw (p - 1)
    match usable d c (pwDir w) with
    | none => d
    | some n =>
      if (stepBits m.raw b 0 p).isEmpty || pwMode w == 2 then d
      else
        let q := portAsks (stepLines m.raw b p) (mK m.raw) m.k p m.need m.got (m.asks.getD (p - 1) {})
        askLines c n (pwDir w) m.off (q.1.map fun t => t.2)
          (setLastMat c (some { m with
            need := m.need ++ q.1.map fun t => { port := p, frm := some n, addr := t.2, step := t.1 }
            asks := m.asks.set (p - 1) q.2 }) d)
/-- The block at hand asks for what its neighbour-fed ports may have in flight. -/
def askBlock (c : LCell) (b : Blk) (d : Dev) : Dev := askPort c b 3 (askPort c b 2 (askPort c b 1 d))
/-- The messages that the queue-fed ports await for a K step: one for each line that they would have read (R202). -/
def queueNeeds (r : List Byte) (b : Blk) (k : Nat) : List Need :=
  [1, 2, 3].flatMap fun p =>
    if pwMode (mPort r (p - 1)) = 2 ∧ !(stepBits r b k p).isEmpty then
      (stepLines r b p k).map fun a => { port := p, frm := none, addr := a, step := k }
    else []

/-- A byte of the lines received for a port. -/
def gotByte (got : List Got) (port : Nat) (a : Int) : Byte :=
  match got.find? fun g => g.port == port && g.addr == wrapN 64 (a / 64 * 64) with
  | some g => g.line.getD (wrapN 64 (a % 64)) 0
  | none => 0
/-- The encoding of `w` bits at a bit address. -/
def gotElem (got : List Got) (port w : Nat) (a : Int) : Nat :=
  if w < 8 then (gotByte got port (a / 8)).toNat / (if a % 8 = 4 then 16 else 1) % 16
  else leNat ((List.range (w / 8)).map fun (i : Nat) => gotByte got port (a / 8 + (i : Int)))

/-- An operand element of a K step: its value, its low part in paired precision, and what it counts (R124, R125, R133). -/
def operand (m : MatMode) (fmt w scale : Nat) : Num × Num × Ctr :=
  match m with
  | .fp19 => let r := narrow19 fmt (fp32.decode w); (r.1, Num.zero, r.2)
  | .pair => splitPair (fp32.decode w)
  | .mx => let r := decodeMx fmt w scale; (r.1, Num.zero, r.2)
  | .int8 => (Num.ofInt (decodeI fmt w) 0, Num.zero, {})
  | _ => let r := decodeF fmt w; (r.1, Num.zero, r.2)

/-- One accumulation: the new accumulator and compensation, and whether an INT32 sum saturated (R102, R112, R114, R125). -/
def accumulate (m : MatMode) (acc comp : W64) (a b : Num × Num × Ctr) : W64 × W64 × Nat :=
  match m with
  | .int8 =>
    let p := match a.1, b.1 with
      | .fin s x e, .fin t y f => sigInt s x * sigInt t y * 2 ^ (e + f).toNat
      | _, _ => 0
    let s := clampInt 32 (sgn 32 acc.toNat + p)
    (BitVec.ofNat 64 (wrapN 32 s.1), comp, if s.2 then 1 else 0)
  | .limb => (BitVec.ofNat 64 (fp64.encode (fp64.arith ((fp64.decode acc.toNat).add (a.1.mul b.1)))), comp, 0)
  | .pair =>
    let s := fp32.arith ((fp32.decode acc.toNat).add (a.1.mul b.1))
    let c := fp32.decode comp.toNat
    let c := if a.1.isFin && b.1.isFin then fp32.arith ((fp32.arith (c.add (a.1.mul b.2.1))).add (a.2.1.mul b.1)) else fp32.arith (c.add Num.zero)
    (BitVec.ofNat 64 (fp32.encode s), BitVec.ofNat 64 (fp32.encode c), 0)
  | _ => (BitVec.ofNat 64 (fp32.encode (fp32.arith ((fp32.decode acc.toNat).add (a.1.mul b.1)))), comp, 0)

/-- Sums counts. -/
def sumCtr (l : List Ctr) : Ctr := l.foldl Ctr.plus {}

/-- The K step over the lines received: accumulators, compensation and counts. -/
def matStep (op : Mem) (m : MatRun) (b : Blk) : List W64 × List W64 × Ctr :=
  let r := m.raw
  let md := mMode r
  let g := mGroups r
  let got := m.got.filter fun g => g.step == m.k
  let sa (i : Nat) : Nat := if md == .mx then (op.rd (64 * (fld r 0xAC 2 + b.rb * g + m.k / 32) + i)).toNat else 0
  let sb (j : Nat) : Nat :=
    if md == .mx then (op.rd (64 * (fld r 0xAE 2 + b.cb * 2 * g + m.k / 32 * mHalves r b.cb + j / 64) + j % 64)).toNat else 0
  let as := ((stepBits r b m.k 1).zipIdx).map fun p => operand md (mFmtA r) (gotElem got 1 (portBits r 1) p.1) (sa p.2)
  let bs := (((stepBits r b m.k 2).zipIdx).map fun p => operand md (mFmtB r) (gotElem got 2 (portBits r 2) p.1) (sb p.2)) ++
    (((stepBits r b m.k 3).zipIdx).map fun p => operand md (mFmtB r) (gotElem got 3 (portBits r 3) p.1) (sb (64 + p.2)))
  let ps := as.flatMap fun a => bs.map fun b => (a, b)
  let os := (ps.zip (m.acc.zip m.comp)).map fun p => accumulate md p.2.1 p.2.2 p.1.1 p.1.2
  (os.map fun o => o.1, os.map fun o => o.2.1,
   ((sumCtr (as.map fun a => a.2.2)).plus (sumCtr (bs.map fun b => b.2.2))).plus { satInt := os.foldl (fun n o => n + o.2.2) 0 })

/-- Byte of accumulator (i, j) in a drain or preload image (R201): second results follow at line 512. -/
def imageByte (r : List Byte) (i j : Nat) : Nat := (if mMode r == .limb then 8 else 4) * (128 * i + j)
/-- The accumulators of a block at its first K step: +0, or the preload image (R103, R201). -/
def initAcc (op : Mem) (r : List Byte) (b : Blk) : List W64 × List W64 :=
  let ijs := (List.range b.rows).flatMap fun i => (List.range b.cols).map fun j => (i, j)
  if mPreload r then
    let base := 64 * (fld r 0xB0 2 + b.q * (if (mMode r).wide then 1024 else 512))
    let n := if mMode r == .limb then 8 else 4
    (ijs.map fun p => BitVec.ofNat 64 (leNat (op.rdN (base + imageByte r p.1 p.2) n)),
     ijs.map fun p => if mMode r == .pair then BitVec.ofNat 64 (leNat (op.rdN (base + 32768 + imageByte r p.1 p.2) 4)) else 0)
  else (ijs.map fun _ => 0, ijs.map fun _ => 0)

/-! ### Segments (R105-R107) -/

/-- Half cycles of a K step (R99). -/
def stepHalves (r : List Byte) : Nat :=
  match mMode r with
  | .mx => if fmtBits (mFmtA r) = 4 ∧ fmtBits (mFmtB r) = 4 then 1 else 2
  | .half => 4
  | .fp19 => 8
  | .pair => 12
  | .limb => 128
  | _ => 2
/-- Cycles of a drain. -/
def drainCycles (r : List Byte) : Nat := if (mMode r).wide then 128 else 64
/-- Cycles of the fill of a block's first segment, or of its preload. -/
def fillCycles (r : List Byte) : Nat := if mPreload r then drainCycles r else 14
/-- K steps of a segment (R106). -/
def segSteps (r : List Byte) : Nat :=
  let n := 2 * (4078 - fillCycles r - drainCycles r) / stepHalves r
  if mMode r == .mx then n / 32 * 32 else n
/-- A segment that is over: by count, or by time where one more K step would end too late (R106). -/
def segOver (m : MatRun) : Bool :=
  decide (segSteps m.raw ≤ m.seg) || decide (2 * (4078 - drainCycles m.raw) < 2 * m.age + stepHalves m.raw)

/-- The drain buffers a block takes: one that is free, both in the wide modes; none while no buffer is free (R105). Where both
are free a block takes DRAIN0 (DESIGN CHOICE, notes/assumptions/80). -/
def drainBuffers (x : Cell) (r : List Byte) : Option (List Nat) :=
  let a := fld r 0xA8 2
  let b := fld r 0xAA 2
  let busy (l : Nat) : Bool := x.mats.any fun m => m.outs.any fun o => o.bufs.contains l
  if (mMode r).wide then (if busy a || busy b then none else some [a, b])
  else if !busy a then some [a]
  else if !busy b then some [b]
  else none
/-- No block of the cell waits for its drain: the drain latches are empty. -/
def latchesEmpty (x : Cell) : Bool := x.mats.all fun m => m.latch.isNone
/-- What the last K step of a block waits for (R105). -/
def mayFinish (x : Cell) (r : List Byte) : Bool := latchesEmpty x && (drainBuffers x r).isSome
/-- The K step at hand waits under R105. -/
def finishWaits (x : Cell) (m : MatRun) : Bool := m.k + 1 == mK m.raw && !mayFinish x m.raw

/-- Begins the first of the blocks that remain: its accumulators are set, and its ports ask for their first lines (R103,
R105). A port without a usable neighbour ends the descriptor (R67). -/
def beginBlock (c : LCell) (b : Blk) (m : MatRun) (d : Dev) : Dev :=
  let a := initAcc (cellAt d c).opfile m.raw b
  match matOutside d c m.raw b with
  | some f => setLastMat c none (refuseDesc c (some m.off) f d)
  | none =>
    askBlock c b (setLastMat c (some { m with
      k := 0, acc := a.1, comp := a.2, need := queueNeeds m.raw b 0, got := [], fresh := false, seg := 0, age := 0
      asks := [1, 2, 3].map fun p =>
        if pwMode (mPort m.raw (p - 1)) = 2 ∨ (stepBits m.raw b 0 p).isEmpty then { step := mK m.raw } else { left := stepLines m.raw b p 0 } }) d)
/-- Runs the K step at hand over the lines received (R102). After the last one the block's accumulators are its result, and
the cell stands at a segment boundary (R105, R107). -/
def runStep (c : LCell) (b : Blk) (rest : List Blk) (m : MatRun) (d : Dev) : Dev :=
  let o := matStep (cellAt d c).opfile m b
  let d := addCtr c o.2.2 d
  let k := m.k + 1
  if k < mK m.raw then
    askBlock c b (setLastMat c (some { m with
      k := k, acc := o.1, comp := o.2.1, seg := m.seg + 1
      need := m.need ++ queueNeeds m.raw b k, got := m.got.filter fun g => decide (k ≤ g.step) }) d)
  else
    setLastMat c (some { m with
      blocks := rest, k := 0, acc := [], comp := [], got := [], asks := [], fresh := true
      latch := some { blk := b, acc := o.1, comp := o.2.1 } }) d

/-- What a Verb cell does next, where it can go on: it begins a segment, ends one in a wait of R105, or runs a K step whose
operands have all come (R105, R106). At a segment boundary a hold keeps it (R107). -/
def matNext (c : LCell) (d : Dev) : Option Dev :=
  let x := cellAt d c
  match x.mats.getLast? with
  | none => none
  | some m => match m.blocks with
    | [] => none
    | b :: rest =>
      if !engineGoes d c then none
      else if m.fresh then
        if holdDue d (phys d c) then none
        else if m.acc.isEmpty then (if (mMode m.raw).wide && !latchesEmpty x then none else some (beginBlock c b m d))
        else if finishWaits x m then none
        else some (askBlock c b (setLastMat c (some { m with fresh := false, seg := 0, age := 0 }) d))
      else if segOver m then none
      else if finishWaits x m then some (setLastMat c (some { m with fresh := true }) d)
      else if stepReady m.need m.asks m.k then some (runStep c b rest m d)
      else none
/-- Up to `n` of these. -/
def matGo (c : LCell) : Nat → Dev → Dev
  | 0, d => d
  | n + 1, d => match matNext c d with
    | some e => matGo c n e
    | none => d
/-- A Verb cell goes on as far as the operands that have come let it: a port is never more than 64 lines ahead. -/
def matAdvance (c : LCell) (d : Dev) : Dev := matGo c 140 d
/-- A line has landed: the port may ask for a further one, and the cell may go on. -/
def matLanded (c : LCell) (d : Dev) : Dev :=
  match (cellAt d c).mats.getLast? with
  | some m => match m.blocks with
    | b :: _ => if m.acc.isEmpty then d else matAdvance c (if engineGoes d c then askBlock c b d else d)
    | [] => d
  | none => d
/-- A Verb cell stands where it acts on a hold: its segment is over and no drain is in progress (R107). -/
def matBoundary (x : Cell) : Bool :=
  latchesEmpty x && (match x.mats.getLast? with
    | some m => m.blocks.isEmpty || m.fresh || segOver m || finishWaits x m
    | none => true)

/-! ### Commands -/

/-- Where a MATMUL's output goes: the neighbour of port O, or a queue of a cell of the region; none where the neighbour is
not usable. -/
def matDest (c : LCell) (cl : Clause) (r : List Byte) : LCell × Nat :=
  let w := mPort r 3
  if pwMode w = 2 then (cl.absolute (pwRow w) (pwCol w), pwQueue w) else ((neighbour c (pwDir w)).getD c, 64)

/-- The checks of R194 on a MATMUL: the record with its parameters, or the first check that fails. -/
def matChecks (cl : Clause) (s : SlotData) (raw : List Byte) (p0 p1 : W64) : List Byte × Check :=
  let pr := applyParams matFields raw p0 p1
  let r := withSignal pr.1 p0 p1
  (withSignal pr.1 p0 p1, firstFail [
    failIf (fld raw 0 2 != 1) (formFail 0 (fld raw 0 2)),
    failIf (fld raw 2 2 != 256) (formFail 2 (fld raw 2 2)),
    matForm cl s raw,
    matPair cl raw,
    pr.2,
    signalCheck cl.signals (signalUsed raw p0 p1),
    overlapCheck 64 (fun _ _ => false) (matAreas r),
    if matEmpty r then none else matExtents r])

/-- R206: a MATMUL may begin behind the last K step of the one before only where neither is wide and no area overlaps but
drain buffers at identical lines. -/
def mayOverlap (old new : List Byte) : Bool :=
  !(mMode old).wide && !(mMode new).wide &&
  (matAreas old).all fun a => (matAreas new).all fun b =>
    !a.meets b || (a.opnd == 4 && b.opnd == 4 && a.start == b.start &&
      [64 * fld old 0xA8 2, 64 * fld old 0xAA 2].contains a.start && [64 * fld new 0xA8 2, 64 * fld new 0xAA 2].contains b.start)

/-- MATMUL_START (R194, R201, R206). -/
def execMatmulStart (c : LCell) (s : State) : Out :=
  onDev (fun d =>
    let x := cellAt d c
    let sd := activeData x
    match headLaunch d c .verb .verb, activeClause d c with
    | some l, some cl =>
      if descKind sd.secA l.idx = some 2 ∨ x.stage.isSome then d
      else match descAt sd.secA l.idx 256 with
        | none => refuseDesc c none (0x0506, 0xFFFF, l.idx) (takePending c .verb d)
        | some (off, raw) =>
          let ch := matChecks cl sd raw l.p0 l.p1
          match ch.2 with
          | some f => refuseDesc c (some off) f (takePending c .verb d)
          | none =>
            let r := ch.1
            let free := x.mats.all fun m => m.blocks.isEmpty && mayOverlap m.raw r
            if matEmpty r then raiseSignal c off (fld r 4 2) (takePending c .verb d)
            else if free then
              let m : MatRun := { off := off, raw := r, blocks := matBlocks r, dest := matDest c cl r }
              matAdvance c (updCell c (fun x => { x with mats := x.mats ++ [m] }) (takePending c .verb d))
            else d
    | _, _ => d) s

/-- The running segment of a Verb cell ends. -/
def endSegment (c : LCell) (d : Dev) : Dev :=
  updCell c (fun x => { x with mats := x.mats.dropLast ++ (x.mats.getLast?.map fun m => { m with fresh := true }).toList }) d
/-- MATMUL_SEGMENT_END (R106, R107): where the segment is over, a hold given to the cell is acted on once no drain is in
progress; without one the next segment begins. -/
def execMatmulSegmentEnd (c : LCell) (s : State) : Out :=
  onDev (fun d => match (cellAt d c).mats.getLast? with
    | none => d
    | some m =>
      if !engineGoes d c || m.blocks.isEmpty || !(m.fresh || segOver m || finishWaits (cellAt d c) m) then d
      else
        let d := endSegment c d
        if holdDue d (phys d c) then (if latchesEmpty (cellAt d c) then stopCell c d else d) else matAdvance c d) s

/-- The value e(s, i, j) of R204. -/
def epiOperand (op : Mem) (r : List Byte) (b : Blk) (s i j : Nat) : Num :=
  let k := match epiFld r s 1 1 with
    | 1 => b.n0 + j
    | 2 => b.m0 + i - mOrigin r
    | _ => 8192 * b.q + 128 * i + j
  if epiFld r s 1 1 = 0 then fp32.decode (epiFld r s 8 4)
  else (if epiSize r s = 4 then fp32 else bf16).decode (leNat (op.rdN (64 * epiFld r s 4 2 + k * epiSize r s) (epiSize r s)))
/-- The epilogue stages but CONVERT over one element (R204). -/
def epiValue (op : Mem) (r : List Byte) (b : Blk) (i j : Nat) (x : Num) : Num :=
  (List.range (mEpis r)).foldl (fun x s => match epiOp r s with
    | 1 => fp32.arith (x.add (epiOperand op r b s i j))
    | 2 => fp32.arith (x.mul (epiOperand op r b s i j))
    | 3 => x.max Num.zero
    | 4 => (x.max (fp32.decode (epiFld r s 8 4))).min (fp32.decode (epiFld r s 12 4))
    | _ => x) x

/-- An output element: its bytes, whether it is a NaN, and its counts (R136, R200, R204). -/
def outElem (r : List Byte) (x : Num) : List Byte × Bool × Ctr :=
  let f := mFmtO r
  if f = 0x0E then let z := convertInt 8 0 x; (leBytes 1 (wrapN 8 z.1), false, z.2)
  else
    let z := (fmtF f).convert 0 x
    (leBytes (mOutSize r) ((fmtF f).encode z.1), z.1.isNan, z.2)

/-- The rows of a drained block: for each row the elements' addresses, bytes and NaN coordinates, and the counts. -/
def drainRow (op : Mem) (r : List Byte) (b : Blk) (img : Nat → Nat → List Nat) (i : Nat) : List (Nat × List Byte × List (List Nat)) × Ctr :=
  let m := b.m0 + i
  let at_ (j : Nat) (p : Int) : Nat := wrapN 64 (byteO r m (b.n0 + j) + p)
  let nan (j : Nat) (y : Bool) : List (List Nat) := if y then [[b.n0 + j, m, 0, 0, 0, 0]] else []
  match mMode r with
  | .limb =>
    ((List.range b.cols).map fun j => let v := (img i j).headD 0; (at_ j 0, leBytes 8 v, nan j (fp64.decode v).isNan), {})
  | .pair =>
    ((List.range b.cols).flatMap fun j =>
      let v := (img i j).headD 0
      let w := (img i j).getD 1 0
      [(at_ j 0, leBytes 4 v, nan j (fp32.decode v).isNan), (at_ j (fld r 0xA0 4 : Nat), leBytes 4 w, nan j (fp32.decode w).isNan)], {})
  | md =>
    if md == .int8 && mEpis r == 0 then ((List.range b.cols).map fun j => (at_ j 0, leBytes 4 ((img i j).headD 0), []), {})
    else
      let val (j : Nat) : Num :=
        let v := (img i j).headD 0
        epiValue op r b i j (if md == .int8 then fp32.arith (Num.ofInt (sgn 32 v) 0) else fp32.decode v)
      if mFmtO r = 9 ∨ mFmtO r = 0x0A then
        let gs := (List.range ((b.cols + 31) / 32)).map fun g =>
          (g, mxQuantise (mFmtO r) ((List.range (min 32 (b.cols - 32 * g))).map fun t => some (val (32 * g + t))))
        (gs.flatMap fun p => (p.2.2.1.zipIdx).map fun e => (at_ (32 * p.1 + e.2) 0, leBytes 1 e.1, nan (32 * p.1 + e.2) (p.2.1 == 0xFF)),
         sumCtr (gs.map fun p => p.2.2.2))
      else
        let es := (List.range b.cols).map fun j => let e := outElem r (val j); ((at_ j 0, e.1, nan j e.2.1), e.2.2)
        (es.map Prod.fst, sumCtr (es.map Prod.snd))
/-- The scale bytes of an MXFP8 block's rows (R202), with their counts left out: they were counted with the elements. A scale
byte 0xFF is a NaN at the coordinates of its group's first element (R136; DESIGN CHOICE, notes/assumptions/62). -/
def drainScales (op : Mem) (r : List Byte) (b : Blk) (img : Nat → Nat → List Nat) : List (Nat × List Byte × List (List Nat)) :=
  if mFmtO r = 9 ∨ mFmtO r = 0x0A then
    (List.range b.rows).flatMap fun i => (List.range ((b.cols + 31) / 32)).map fun g =>
      let val (j : Nat) : Num :=
        let v := (img i j).headD 0
        epiValue op r b i j (if mMode r == .int8 then fp32.arith (Num.ofInt (sgn 32 v) 0) else fp32.decode v)
      let q := mxQuantise (mFmtO r) ((List.range (min 32 (b.cols - 32 * g))).map fun t => some (val (32 * g + t)))
      (fld r 0xA4 4 + (b.rb * mColBlocks r + b.cb) * 256 + 4 * i + g, leBytes 1 q.1,
       if q.1 = 0xFF then [[b.n0 + 32 * g, b.m0 + i, 0, 0, 0, 0]] else [])
  else []

/-- The operand-file byte of byte `y` of a drain image: its second half stands in the second buffer. -/
def imageAt (bufs : List Nat) (y : Nat) : Nat := if y < 32768 then 64 * bufs.headD 0 + y else 64 * bufs.getD 1 0 + (y - 32768)
/-- Writes a block's accumulators into its drain buffers: in-extent elements alone (R103, R111, R201). -/
def drainImage (r : List Byte) (k : DoneBlk) (bufs : List Nat) (op : Mem) : Mem :=
  let ijs := (List.range k.blk.rows).flatMap fun i => (List.range k.blk.cols).map fun j => (i, j)
  let n := if mMode r == .limb then 8 else 4
  let op := (ijs.zip k.acc).foldl (fun op p => op.wrN (imageAt bufs (imageByte r p.1.1 p.1.2)) (leBytes n p.2.toNat)) op
  if mMode r == .pair then (ijs.zip k.comp).foldl (fun op p => op.wrN (imageAt bufs (32768 + imageByte r p.1.1 p.1.2)) (leBytes 4 p.2.toNat)) op else op
/-- What the epilogue makes of a drained block: its output lines in the order in which they leave, and what it counts (R202,
R204). -/
def epilogue (r : List Byte) (b : Blk) (bufs : List Nat) (op : Mem) : List OutLine × Ctr :=
  let n := if mMode r == .limb then 8 else 4
  let img (i j : Nat) : List Nat :=
    let y := imageByte r i j
    [leNat (op.rdN (imageAt bufs y) n), if mMode r == .pair then leNat (op.rdN (imageAt bufs (32768 + y)) 4) else 0]
  let rows := (List.range b.rows).map (drainRow op r b img)
  ((rows.flatMap fun p => layRow p.1) ++ layRow (drainScales op r b img), sumCtr (rows.map Prod.snd))

/-- VERB_BLOCK_DRAIN (R105): the finished block leaves its latches for a free drain buffer, and its epilogue shapes its output
lines; what waited for the latches goes on. -/
def execVerbBlockDrain (c : LCell) (s : State) : Out :=
  onDev (fun d =>
    let x := cellAt d c
    match x.mats.find? fun m => m.latch.isSome with
    | none => d
    | some m => match m.latch, drainBuffers x m.raw with
      | some k, some bufs =>
        if !engineGoes d c then d
        else
          let op := drainImage m.raw k bufs x.opfile
          let e := epilogue m.raw k.blk bufs op
          let n := { m with latch := none, outs := m.outs ++ [{ bufs := bufs, lines := e.1 }] }
          matAdvance c (addCtr c e.2 (updCell c (fun x => { x with opfile := op, mats := mapFirst (fun r => decide (r = m)) (fun _ => n) x.mats }) d))
      | _, _ => d) s

/-- VERB_OUTPUT_WRITE (R202): the next line of the oldest descriptor leaves port O; NaN watch looks at it (R136). -/
def execVerbOutputWrite (c : LCell) (s : State) : Out :=
  onDev (fun d =>
    let x := cellAt d c
    match x.mats.find? fun m => !m.outs.isEmpty with
    | none => d
    | some m => match m.outs with
      | [] => d
      | o :: os =>
        match o.lines with
        | [] => d
        | l :: ls =>
          if !engineGoes d c then d
          else
            let w := mPort m.raw 3
            if pwMode w = 1 ∧ (usable d c (pwDir w)).isNone then
              refuseDesc c (some m.off) (neighbourFail c (pwDir w)) (updCell c (fun x => { x with mats := eraseFirst (fun r => decide (r = m)) x.mats }) d)
            else
              let m' := { m with outs := (if ls.isEmpty then os else { o with lines := ls } :: os), acks := m.acks ++ [l.addr] }
              let d := updCell c (fun x => { x with mats := mapFirst (fun r => decide (r = m)) (fun _ => m') x.mats }) d
              watchNans c m.off (l.nans.map fun k => { coords := k, output := 0, stage := 0, format := mFmtO m.raw, d0 := k.getD 1 0, d1 := k.headD 0 })
                (matAdvance c (sendLine c m.dest (pwDir w) m.off l d))) s

/-- MATMUL_COMPLETE (R108): every block has run, every line has left and is acknowledged. -/
def execMatmulComplete (c : LCell) (s : State) : Out :=
  onDev (fun d =>
    let x := cellAt d c
    match x.mats with
    | [] => d
    | m :: ms =>
      if m.blocks.isEmpty && m.latch.isNone && m.outs.isEmpty && m.acks.isEmpty then
        raiseSignal c m.off (fld m.raw 4 2) (updCell c (fun x => { x with mats := ms }) d)
      else d) s

end Sys2Proof.Machine
end

