-- ==== Sys2Proof/Machine/Adverb.lean ====
section
/-! DEFINITION. The vector engine and the small matrix unit of Adverb cells (R141-R167, R215, R216), and the port D, QUEUE
and Noun deliveries to Verb and Adverb engines (R202, R262, R267). -/
namespace Sys2Proof.Machine

/-! ### The small matrix unit's descriptor (R164, R215) -/

/-- The fields that an SMM's declarations may name (R195). -/
def smmFields : List ParamField :=
  [{ code := 0x10, off := 0x38, size := 4, opnd := 0 }, { code := 0x11, off := 0x48, size := 4, opnd := 1 },
   { code := 0x12, off := 0x58, size := 4, opnd := 2 }]
/-- M, N and K by number 0-2. -/
def sExt (r : List Byte) (i : Nat) : Nat := fld r (0x2C + 4 * i) 4
/-- FMT_A. -/
def sFmtA (r : List Byte) : Nat := fld r 0x28 1
/-- FMT_B. -/
def sFmtB (r : List Byte) : Nat := fld r 0x29 1
/-- The mode of an SMM's format pair: those of R164. -/
def smmMode (a b : Nat) : Option MatMode :=
  match matMode a b with
  | some .fp8 => some .fp8
  | some .int8 => some .int8
  | some .half => some .half
  | some .fp19 => some .fp19
  | _ => none
/-- Byte address of element (m, k) of A. -/
def sAddrA (r : List Byte) (m k : Nat) : Int := (fld r 0x38 4 : Nat) + k * fldS r 0x40 8 + m * (fmtBits (sFmtA r) / 8 : Nat)
/-- Byte address of element (k, n) of B. -/
def sAddrB (r : List Byte) (k n : Nat) : Int := (fld r 0x48 4 : Nat) + k * fldS r 0x50 8 + n * (fmtBits (sFmtB r) / 8 : Nat)
/-- Byte address of element (m, n) of O. -/
def sAddrO (r : List Byte) (m n : Nat) : Int := (fld r 0x58 4 : Nat) + m * fldS r 0x60 8 + 4 * n
/-- An empty SMM (R482). -/
def smmEmpty (r : List Byte) : Bool := (List.range 3).any fun i => sExt r i == 0
/-- R194 step 6 of an SMM. -/
def smmExtents (r : List Byte) : Check :=
  let m := sExt r 0
  let n := sExt r 1
  let k := sExt r 2
  let view (op : Nat) (w : Nat) (dims : List (Nat × Int)) : Check :=
    let b := viewBounds (8 * (fld r (0x38 + 0x10 * op) 4 : Int)) w dims
    extentCheck op b.1 b.2 (fld r (0x38 + 0x10 * op) 4) (fld r (0x3C + 0x10 * op) 4) opfileBytes
  firstFail [
    view 0 (fmtBits (sFmtA r)) [(m, (fmtBits (sFmtA r) : Nat)), (k, 8 * fldS r 0x40 8)],
    view 1 (fmtBits (sFmtB r)) [(n, (fmtBits (sFmtB r) : Nat)), (k, 8 * fldS r 0x50 8)],
    view 2 32 [(n, 32), (m, 8 * fldS r 0x60 8)]]
/-- The checks of R194 on an SMM. Every overlap of its buffers fails: R148's in-place update is of inputs and outputs of one
stride per dimension (DESIGN CHOICE, notes/assumptions/85). -/
def smmChecks (cl : Clause) (raw : List Byte) (p0 p1 : W64) : List Byte × Check :=
  let pr := applyParams smmFields raw p0 p1
  let r := withSignal pr.1 p0 p1
  (r, firstFail [
    failIf (fld raw 0 2 != 0x11) (formFail 0 (fld raw 0 2)),
    failIf (fld raw 2 2 != 112) (formFail 2 (fld raw 2 2)),
    headerCheck raw smmFields,
    (match smmMode (sFmtA raw) (sFmtB raw) with
     | some md => failIf (fld raw 0x2A 1 != (if md = .int8 then 0x10 else 2)) (formFail 0x2A (fld raw 0x2A 1))
     | none => none),
    failIf (smmMode (sFmtA raw) (sFmtB raw)).isNone (0x0504, sFmtA raw * 256 + sFmtB raw, 0),
    pr.2,
    signalCheck cl.signals (signalUsed raw p0 p1),
    overlapCheck 1 (fun _ _ => false) (smmAreas r),
    if smmEmpty r then none else smmExtents r])

/-- Column blocks of an SMM. -/
def smmCols (r : List Byte) : Nat := (sExt r 1 + 31) / 32
/-- Blocks of 16 rows and 32 columns. -/
def smmBlocks (r : List Byte) : Nat := (sExt r 0 + 15) / 16 * smmCols r
/-- First row, rows, first column and columns of block `b`: row blocks, then column blocks (R215). -/
def smmBlock (r : List Byte) (b : Nat) : Nat × Nat × Nat × Nat :=
  let m := 16 * (b / smmCols r)
  let n := 32 * (b % smmCols r)
  (m, min 16 (sExt r 0 - m), n, min 32 (sExt r 1 - n))
/-- K steps of a segment (R164). -/
def smmSegLen (r : List Byte) : Nat := if smmMode (sFmtA r) (sFmtB r) = some .fp19 then 2000 else 4000
/-- The accumulators of a block at its first K step. -/
def smmZero (r : List Byte) (b : Nat) : List W64 := let k := smmBlock r b; List.replicate (k.2.1 * k.2.2.2) 0
/-- One K step of the block at hand (R102, R164). -/
def smmStep (op : Mem) (m : SmmRun) : SmmRun × Ctr :=
  let r := m.raw
  let md := (smmMode (sFmtA r) (sFmtB r)).getD .fp8
  let b := smmBlock r m.blk
  let el (fmt : Nat) (a : Int) : Num × Num × Ctr := operand md fmt (leNat (op.rdN a.toNat (fmtBits fmt / 8))) 0
  let as := (List.range b.2.1).map fun i => el (sFmtA r) (sAddrA r (b.1 + i) m.k)
  let bs := (List.range b.2.2.2).map fun j => el (sFmtB r) (sAddrB r m.k (b.2.2.1 + j))
  let ps := as.flatMap fun a => bs.map fun b => (a, b)
  let os := (ps.zip m.acc).map fun p => accumulate md p.2 0 p.1.1 p.1.2
  ({ m with k := m.k + 1, acc := os.map fun o => o.1 },
   ((sumCtr (as.map fun a => a.2.2)).plus (sumCtr (bs.map fun b => b.2.2))).plus { satInt := os.foldl (fun n o => n + o.2.2) 0 })
/-- Up to `n` K steps of the block at hand. -/
def smmSteps (op : Mem) : Nat → SmmRun → SmmRun × Ctr
  | 0, m => (m, {})
  | n + 1, m =>
    if m.k < sExt m.raw 2 then
      let o := smmStep op m
      let k := smmSteps op n o.1
      (k.1, o.2.plus k.2)
    else (m, {})
/-- A block's accumulators as they drain into the operand file (R164, R215). -/
def smmDrain (op : Mem) (m : SmmRun) : Mem :=
  let b := smmBlock m.raw m.blk
  let ijs := (List.range b.2.1).flatMap fun i => (List.range b.2.2.2).map fun j => (i, j)
  (ijs.zip m.acc).foldl (fun op p => op.wrN (sAddrO m.raw (b.1 + p.1.1) (b.2.2.1 + p.1.2)).toNat (leBytes 4 p.2.toNat)) op
/-- One segment of an SMM: its K steps, and after a block's last one the drain and the next block (R164). -/
def smmSegment (op : Mem) (m : SmmRun) : Mem × SmmRun × Ctr :=
  let o := smmSteps op (smmSegLen m.raw) m
  if o.1.k < sExt m.raw 2 then (op, o.1, o.2)
  else (smmDrain op o.1, { o.1 with blk := m.blk + 1, k := 0, acc := smmZero m.raw (m.blk + 1) }, o.2)
/-- The cell's SMM runs one segment. -/
def smmAdvance (c : LCell) (d : Dev) : Dev :=
  match (cellAt d c).smm with
  | none => d
  | some m =>
    if smmBlocks m.raw ≤ m.blk then d
    else
      let r := smmSegment (cellAt d c).opfile m
      addCtr c r.2.2 (updCell c (fun x => { x with opfile := r.1, smm := some r.2.1 }) d)
/-- Up to `n` segments. -/
def smmGo (c : LCell) : Nat → Dev → Dev
  | 0, d => d
  | n + 1, d => smmGo c n (smmAdvance c d)
/-- Segments that an SMM has still to run. -/
def smmLeft (m : SmmRun) : Nat := (smmBlocks m.raw - m.blk) * ((sExt m.raw 2 + smmSegLen m.raw - 1) / smmSegLen m.raw)

/-! ### Ordering between the engines (R165) -/

/-- Whether two descriptors' operand-file areas meet where one of them is written. -/
def areasClash (a b : List Area) (aw bw : Area → Bool) : Bool :=
  a.any fun x => b.any fun y => x.meets y && (aw x || bw y)
/-- The written areas of a VECTOR: its outputs and their scales. -/
def vecWrites (a : Area) : Bool := a.opnd == 4 || a.opnd == 5 || a.opnd == 0x14 || a.opnd == 0x15
/-- The written area of an SMM. -/
def smmWrites (a : Area) : Bool := a.opnd == 2

/-! ### The vector engine -/

/-- The input views that a stage reads from a Noun neighbour or a queue. -/
def vStreams (r : List Byte) : List Nat := (List.range 4).filter fun i => decide (2 ≤ vLoc r i) && !(takers r i).isEmpty
/-- The lines, rising, that hold the elements and scales of lane group `p` of a streamed input. -/
def groupLines (r : List Byte) (i p : Nat) : List Nat :=
  let g := groupAt r p
  let es := linesOf (fmtBits (vFmt r i)) ((List.range g.2.2).map fun k => elemBit r i (g.2.1 + k) g.1)
  let ss := if fmtMx (vFmt r i) then linesOf 8 ((List.range ((g.2.2 + 31) / 32)).map fun k => 8 * scaleByte r i (g.2.1 / 32 + k) g.1) else []
  (ss.foldl (fun l a => insertInt a l) es).map (wrapN 64)
/-- The lines that a streamed input takes for lane group `p`: one that the group before it holds too is kept (R147; DESIGN
CHOICE, notes/assumptions/13). -/
def newLines (r : List Byte) (i p : Nat) : List Nat :=
  if p = 0 then groupLines r i p else (groupLines r i p).filter fun a => !(groupLines r i (p - 1)).contains a
/-- The messages that queue-fed inputs await for lane group `p`. -/
def vecQueueNeeds (r : List Byte) (p : Nat) : List Need :=
  if vGroups r ≤ p then []
  else ((vStreams r).filter fun i => vLoc r i == 6).flatMap fun i =>
    (newLines r i p).map fun a => { port := 6 + i, frm := none, addr := a, step := p }
/-- The lines that stay at the ports after lane group `p`: those read ahead, and those that the next group holds too. -/
def keepGot (r : List Byte) (p : Nat) (got : List Got) : List Got :=
  got.filterMap fun g =>
    if p < g.step then some g
    else if p + 1 < vGroups r ∧ (groupLines r (g.port - 6) (p + 1)).contains g.addr then some { g with step := p + 1 } else none
/-- Where output `i` goes: its Noun neighbour, or a queue of a cell of the region. -/
def vecDest (c : LCell) (cl : Clause) (r : List Byte) (i : Nat) : LCell × Nat :=
  if vLoc r i = 6 then (cl.absolute (vByte r i 5) (vByte r i 6), vByte r i 4)
  else ((neighbour c (dirOf (vLoc r i - 2))).getD c, if vLoc r i = 0 ∨ vLoc r i = 1 then 65 else 64)

/-- A chain whose every lane group has run. -/
def VecRun.evald (v : VecRun) : Bool := decide (vGroups v.raw ≤ v.pos)
/-- Nothing of a chain's outputs is left to send. -/
def VecRun.sent (v : VecRun) : Bool := v.evald && v.y0.lines.isEmpty && v.y1.lines.isEmpty
/-- R167: every line is acknowledged, every write has landed, the summary is accepted. -/
def VecRun.complete (v : VecRun) : Bool := v.sent && v.y0.acks.isEmpty && v.y1.acks.isEmpty && v.summary.isNone && v.sumWait.isNone

/-- Replaces the descriptor that takes operands: the last of those that run. -/
def setLastVec (c : LCell) (r : Option VecRun) (d : Dev) : Dev :=
  updCell c (fun x => { x with vecs := x.vecs.dropLast ++ r.toList }) d
/-- A neighbour-fed input asks for the lines that it may now have in flight (R98, R144). -/
def askVecPort (c : LCell) (i : Nat) (d : Dev) : Dev :=
  match (cellAt d c).vecs.getLast? with
  | none => d
  | some v =>
    let o := dirOf (vLoc v.raw i - 2)
    match usable d c o with
    | none => d
    | some n =>
      let q := portAsks (newLines v.raw i) (vGroups v.raw) v.pos (6 + i) v.need v.got (v.asks.getD i {})
      askLines c n o v.off (q.1.map fun t => t.2)
        (setLastVec c (some { v with
          need := v.need ++ q.1.map fun t => { port := 6 + i, frm := some n, addr := t.2, step := t.1 }
          asks := v.asks.set i q.2 }) d)
/-- The neighbour-fed inputs of the chain at hand ask for what they may have in flight. -/
def askVec (c : LCell) (d : Dev) : Dev :=
  match (cellAt d c).vecs.getLast? with
  | none => d
  | some v => ((vStreams v.raw).filter fun i => vLoc v.raw i != 6).foldl (fun d i => askVecPort c i d) d

/-- The chain has run its last lane group: the lines that it fills leave, and its summary is made up (R163). -/
def chainEnd (cl : Option Clause) (v : VecRun) : VecRun :=
  let dest := cl.bind fun cl => if vSumDest v.raw = 0xFFFF then none else sumCell cl v.raw
  { v with y0 := v.y0.flush, y1 := v.y1.flush, summary := dest.map fun t => (t, summaryBytes v.raw v.tot false), sumNans := summaryNans v.raw v.tot }
/-- Runs the lane group at hand (R145, R149, R211); NaN watch sees what it writes to the operand file. -/
def runGroup (c : LCell) (v : VecRun) (d : Dev) : Dev :=
  let r := v.raw
  let g := chainGroup (cellAt d c).opfile v
  let p := v.pos + 1
  let n := { g.run with pos := p, need := v.need ++ vecQueueNeeds r p, got := keepGot r v.pos v.got }
  let n := if vGroups r ≤ p then chainEnd (activeClause d c) n else n
  let d := askVec c (addCtr c g.ctr (setLastVec c (some n) (updCell c (fun x => { x with opfile := g.op }) d)))
  watchNans c v.off (g.nans.map fun n => { coords := n.2, output := n.1 - 3, stage := vSrc r n.1, format := vFmt r n.1, d0 := n.2.getD 1 0, d1 := n.2.headD 0 }) d
/-- Up to `n` lane groups whose lines have all come; the cell stops between two of them (R166). -/
def vecGo (c : LCell) : Nat → Dev → Dev
  | 0, d => d
  | n + 1, d => match (cellAt d c).vecs.getLast? with
    | none => d
    | some v =>
      if !v.evald && engineGoes d c && stepReady v.need v.asks v.pos then vecGo c n (runGroup c v d) else d
/-- The vector engine goes on as far as the lines that have come let it. -/
def vecAdvance (c : LCell) (d : Dev) : Dev :=
  match (cellAt d c).vecs.getLast? with
  | none => d
  | some v => vecGo c (vGroups v.raw - v.pos) (if engineGoes d c then askVec c d else d)

/-- A chain as it starts. -/
def newRun (c : LCell) (cl : Clause) (off : Nat) (r : List Byte) : VecRun :=
  let n := min 8 (vStages r)
  let dest := if vSumDest r = 0xFFFF then none else sumCell cl r
  let v : VecRun := { off := off, raw := r, y0 := { dest := vecDest c cl r 4 }, y1 := { dest := vecDest c cl r 5 },
                      red := List.replicate n {}, tot := { acc := List.replicate n none, nanc := List.replicate n 0 } }
  if vecEmpty r then { v with summary := dest.map fun t => (t, summaryBytes r v.tot true) }
  else { v with
    need := vecQueueNeeds r 0
    asks := (List.range 4).map fun i =>
      if (vStreams r).contains i && vLoc r i != 6 then { left := groupLines r i 0 } else { step := vGroups r } }

/-- Whether the areas of a chain and of the running SMM keep the chain from starting (R165). -/
def vecClash (x : Cell) (r : List Byte) : Bool :=
  match x.smm with
  | some m => areasClash (vecAreas r) (smmAreas m.raw) vecWrites smmWrites
  | none => false
/-- Whether what the vector engine runs, a STAGE included, keeps an SMM from starting (R165, R216). -/
def smmClash (x : Cell) (r : List Byte) : Bool :=
  (x.vecs.any fun v => areasClash (vecAreas v.raw) (smmAreas r) vecWrites smmWrites) ||
  (match x.stage with
   | some g => areasClash [stageArea g.raw] (smmAreas r) (fun _ => true) smmWrites
   | none => false)

/-- VECTOR_START (R148, R165, R194). -/
def execVectorStart (c : LCell) (s : State) : Out :=
  onDev (fun d =>
    let x := cellAt d c
    let sd := activeData x
    match headLaunch d c .adverb .vec, activeClause d c with
    | some l, some cl =>
      if descKind sd.secA l.idx = some 2 ∨ x.stage.isSome ∨ x.vecs.any (fun v => !v.evald) then d
      else match descAt sd.secA l.idx 712 with
        | none => refuseDesc c none (0x0506, 0xFFFF, l.idx) (takePending c .vec d)
        | some (off, raw) =>
          let ch := vecChecks cl sd raw l.p0 l.p1
          let r := ch.1
          match ch.2 with
          | some f => refuseDesc c (some off) f (takePending c .vec d)
          | none =>
            let v := newRun c cl off r
            if vecEmpty r ∧ v.summary.isNone then raiseSignal c off (fld r 4 2) (takePending c .vec d)
            else if !vecEmpty r && vecClash x r then d
            else
              -- a streamed input whose neighbour is not usable ends the descriptor (R67)
              match (if vecEmpty r then none else (vStreams r).find? fun i => vLoc r i != 6 && (usable d c (dirOf (vLoc r i - 2))).isNone) with
              | some i => refuseDesc c (some off) (neighbourFail c (dirOf (vLoc r i - 2))) (takePending c .vec d)
              | none => vecAdvance c (updCell c (fun x => { x with vecs := x.vecs ++ [v] }) (takePending c .vec d))
    | _, _ => d) s

/-- Output 0 or 1 of a run. -/
def VecRun.out (v : VecRun) (y : Nat) : VecOut := if y = 0 then v.y0 else v.y1
/-- The run with that output changed. -/
def VecRun.setOut (v : VecRun) (y : Nat) (o : VecOut) : VecRun := if y = 0 then { v with y0 := o } else { v with y1 := o }

/-- ADVERB_OUTPUT_WRITE (R149): the next line of output Y0 or Y1 leaves. -/
def execAdverbOutputWrite (c : LCell) (y : Nat) (s : State) : Out :=
  onDev (fun d =>
    let x := cellAt d c
    match x.vecs.find? fun v => !(v.out y).lines.isEmpty with
    | none => d
    | some v => match (v.out y).lines with
      | [] => d
      | l :: ls =>
        if !engineGoes d c then d
        else
          let i := if y = 0 then 4 else 5
          let o := dirOf (vLoc v.raw i - 2)
          if vLoc v.raw i ≠ 6 ∧ (usable d c o).isNone then
            refuseDesc c (some v.off) (neighbourFail c o) (updCell c (fun x => { x with vecs := eraseFirst (fun r => decide (r = v)) x.vecs }) d)
          else
            let k := v.out y
            let n := v.setOut y { k with lines := ls, acks := k.acks ++ [l.addr] }
            let d := updCell c (fun x => { x with vecs := mapFirst (fun r => decide (r = v)) (fun _ => n) x.vecs }) d
            watchNans c v.off (l.nans.map fun k => { coords := k, output := i - 3, stage := vSrc v.raw i, format := vFmt v.raw i, d0 := k.getD 1 0, d1 := k.headD 0 })
              (sendLine c k.dest o v.off l d)) s

/-- SUMMARY_SEND (R163): after the last output line. NaN watch looks at its words (R137). -/
def execSummarySend (c : LCell) (s : State) : Out :=
  onDev (fun d => match (cellAt d c).vecs.find? fun v => v.sent && v.summary.isSome with
    | none => d
    | some v => match v.summary with
      | none => d
      | some (t, pay) =>
        if !engineGoes d c then d
        else
          let n := { v with summary := none, sumWait := some t }
          let d := updCell c (fun x => { x with vecs := mapFirst (fun r => decide (r = v)) (fun _ => n) x.vecs }) d
          watchNans c v.off (v.sumNans.map fun n => { coords := List.replicate 6 0, output := 3, stage := n.2.1, format := n.2.2, d0 := n.1, d1 := 0 })
            (sendFlit (.cell c) (.cell t) (.summary pay) d)) s

/-- VECTOR_COMPLETE (R167): the first descriptor that meets the three conditions completes. -/
def execVectorComplete (c : LCell) (s : State) : Out :=
  onDev (fun d => match (cellAt d c).vecs.find? VecRun.complete with
    | none => d
    | some v => raiseSignal c v.off (fld v.raw 4 2) (updCell c (fun x => { x with vecs := eraseFirst VecRun.complete x.vecs }) d)) s

/-! ### The small matrix unit -/

/-- SMM_START (R165, R194, R215). -/
def execSmmStart (c : LCell) (s : State) : Out :=
  onDev (fun d =>
    let x := cellAt d c
    let sd := activeData x
    match headLaunch d c .adverb .smm, activeClause d c with
    | some l, some cl =>
      if x.smm.isSome then d
      else match descAt sd.secA l.idx 112 with
        | none => refuseDesc c none (0x0506, 0xFFFF, l.idx) (takePending c .smm d)
        | some (off, raw) =>
          let ch := smmChecks cl raw l.p0 l.p1
          match ch.2 with
          | some f => refuseDesc c (some off) f (takePending c .smm d)
          | none =>
            if smmEmpty ch.1 then raiseSignal c off (fld ch.1 4 2) (takePending c .smm d)
            else if smmClash x ch.1 then d
            else updCell c (fun x => { x with smm := some { off := off, raw := ch.1, acc := smmZero ch.1 0 } }) (takePending c .smm d)
    | _, _ => d) s

/-- SMM_COMPLETE (R216): the segments that are left have run, the results have landed, and the completion signal is raised. -/
def execSmmComplete (c : LCell) (s : State) : Out :=
  onDev (fun d => match (cellAt d c).smm with
    | none => d
    | some m =>
      if !engineGoes d c then d
      else raiseSignal c m.off (fld m.raw 4 2) (updCell c (fun x => { x with smm := none }) (smmGo c (smmLeft m) d))) s

/-- An engine cell that has been given a hold runs up to its next boundary: the small matrix unit ends its segment; the vector
engine stands at one (R166). -/
def runToBoundary (c : LCell) (d : Dev) : Dev := if (cellAt d c).smm.isSome then smmAdvance c d else d

/-! ### Deliveries to the engines -/

/-- The first line that an engine of the cell awaits and that satisfies `p`. -/
def needOf (x : Cell) (p : Need → Bool) : Option Need :=
  let m := (x.mats.getLast?.map fun r => r.need).getD []
  let g := (x.stage.map fun r => r.need).getD []
  let v := (x.vecs.getLast?.map fun r => r.need).getD []
  (g ++ m ++ v).find? p
/-- A line lands where its engine awaits it; a STAGE writes it, a MATMUL or VECTOR goes on once it has all (R202, R207). -/
def landNeed (c : LCell) (n : Need) (line : List Byte) (d : Dev) : Dev :=
  let x := cellAt d c
  let l := padTo 64 (line.take 64)
  let has (ns : List Need) : Bool := ns.any fun k => decide (k = n)
  let g : Got := { port := n.port, addr := n.addr, line := l, step := n.step }
  if (x.stage.map fun r => has r.need).getD false then stageLand c n l d
  else match x.mats.getLast? with
    | some m =>
      if has m.need then matLanded c (setLastMat c (some { m with need := eraseFirst (fun k => decide (k = n)) m.need, got := m.got ++ [g] }) d)
      else d
    | none => match x.vecs.getLast? with
      | some v =>
        if has v.need then vecAdvance c (setLastVec c (some { v with need := eraseFirst (fun k => decide (k = n)) v.need, got := v.got ++ [g] }) d)
        else d
      | none => d
/-- A refused access ends its descriptor: no further access, no completion, no signal (R249). -/
def dropEngine (c : LCell) (n : Need) (d : Dev) : Dev :=
  updCell c (fun x =>
    let has (ns : List Need) : Bool := ns.any fun k => decide (k = n)
    if (x.stage.map fun r => has r.need).getD false then { x with stage := none }
    else match x.mats.getLast? with
      | some m => if has m.need then { x with mats := x.mats.dropLast } else x
      | none => match x.vecs.getLast? with
        | some v => if has v.need then { x with vecs := x.vecs.dropLast } else x
        | none => x) d
/-- Read data of a Noun cell reaches a Verb or Adverb cell (R271). -/
def cellReadData (c frm : LCell) (addr : Nat) (refused : Bool) (line : List Byte) (d : Dev) : Dev :=
  match needOf (cellAt d c) fun n => decide (n.frm = some frm) && n.addr == addr with
  | none => d
  | some n => if refused then dropEngine c n d else landNeed c n line d
/-- A write acknowledgement of the line at `addr` of a Noun cell reaches a Verb or Adverb cell; a refused one ends the
descriptor that wrote the line (R249, R271). -/
def cellWriteAck (c frm : LCell) (addr : Nat) (refused : Bool) (d : Dev) : Dev :=
  let t := (frm, 64)
  if !refused then engineAck (.cell c) t (some addr) d
  else updCell c (fun x => { x with
    mats := eraseFirst (fun r => decide (r.dest = t) && r.acks.contains addr) x.mats
    vecs := eraseFirst (fun r => r.y0.awaits t (some addr) || r.y1.awaits t (some addr)) x.vecs }) d

/-- The queue that a port's descriptor names (R198, R209). -/
def portQueue (x : Cell) (port : Nat) : Nat :=
  match x.stage with
  | some g => pwQueue (gPort g.raw)
  | none => match x.mats.getLast? with
    | some m => pwQueue (mPort m.raw (port - 1))
    | none => match x.vecs.getLast? with
      | some v => vByte v.raw (port - 6) 4
      | none => 0
/-- QUEUE_ENTRY_TAKEN (R262, R267): the port takes the head entry of the queue or select group that its running descriptor
names; port D completes a QRECV that waits (R233). A double-bit error discards the entry (R259). -/
def execQueueEntryTaken (c : LCell) (port : Nat) (e : Ecc) (s : State) : Out :=
  onDev (fun d =>
    let x := cellAt d c
    if port = 10 then
      match coreWaits d c with
      | some (.queue q a, _, r) => match takeMember x q with
        | some _ => waitTake c (.queue q a) r e id d
        | none => d
      | _ => d
    else match needOf x fun n => n.port == port && n.frm.isNone with
      | none => d
      | some n => match takeMember x (portQueue x port) with
        | none => d
        | some m =>
          if !engineGoes d c then d else readEntry c m e (landNeed c n) d) s

end Sys2Proof.Machine
end

