-- ==== Sys2Proof/Machine/NounMem.lean ====
section
/-! DEFINITION. Noun memory (R238-R258): the ownership check, bank grants, merged reads and errors. -/
namespace Sys2Proof.Machine

/-- Bytes of a Noun cell. -/
def nounBytes : Nat := 0x200000
/-- The bank of a byte address (R239). -/
def bankOf (a : Nat) : Nat := bits a 20 17
/-- The line of a byte address, as its first byte. -/
def lineOf (a : Nat) : Nat := a % nounBytes / 64 * 64
/-- The port bit of R245: N 0, S 1, E 2, W 3. -/
def portBit (p : Dir) : Nat := dirCode p

/-- What a bank-mode byte permits (R244, R245). -/
def modePermits (b : Nat) (p : Dir) (write : Bool) : Bool :=
  bit (b % 16) (portBit p) && (decide (b / 64 = 1) || (decide (b / 64 = 2) && !write))
/-- Whether a bank is SharedRead. -/
def modeShared (b : Nat) : Bool := decide (b / 64 = 2)
/-- A well-formed bank-mode byte (R245): Off with no port, Owned with one port, SharedRead with at least one; bits [5:4] are
reserved and ignored (R7). -/
def modeOk (b : Nat) : Bool :=
  let ports := b % 16
  (decide (b / 64 = 0) && decide (ports = 0)) || (decide (b / 64 = 1) && [1, 2, 4, 8].contains ports) || (decide (b / 64 = 2) && decide (ports ≠ 0))

/-- The bank-mode byte that governs an access: of the ACTIVE slot for a neighbour, and for a remote grant, which comes with no
clause (R388); for a mover's window access, of the requesting clause's slot where that slot is ACTIVE, else Off (R248, R258). -/
def bankMode (x : Cell) (src : Src) (clause bank : Nat) : Nat :=
  let ok := match srcCell src with
    | some _ => (activeSlot x).isSome
    | none => (activeSlot x).isSome && (clause == 0 || activeId x == clause)
  if ok then fld (activeData x).secA bank 1 else 0

/-- The answer to an access: read data or a write acknowledgement, with REFUSED (R271). -/
def nounAnswer (c : LCell) (r : NounReq) (refused : Bool) (line : List Byte) (d : Dev) : Dev :=
  sendFlit (.cell c) r.src (match r.wr with
    | none => .nounData c r.port r.addr refused line
    | some _ => .nounAck c r.port r.addr refused) d

/-- A refusal by the map: BANK_OWNERSHIP once per activation, then a count (R248, R249). -/
def refuseBank (c : LCell) (p : Dir) (addr clause off : Nat) (write : Bool) (d : Dev) : Dev :=
  let x := cellAt d c
  let d0 := bankOf addr * 256 + (if write then 16 else 0) + dirCode p
  if x.noun.refusedOnce then updCell c (fun x => { x with win := { x.win with bankRefused := satAdd 32 x.win.bankRefused 1 } }) d
  else recCell 0x0201 1 c clause (some off) d0 (addr % nounBytes) (updCell c (fun x => { x with noun := { x.noun with refusedOnce := true } }) d)
/-- A refused access and its answer. -/
def refuseNoun (c : LCell) (r : NounReq) (d : Dev) : Dev :=
  nounAnswer c r true [] (refuseBank c r.port r.addr r.clause r.off r.wr.isSome d)

/-- An access at a port of a Noun cell: refused by a fenced cell (R88), checked against the map, and then waiting for its
bank (R240, R248); under reload it waits unchecked (R425). -/
def nounArrive (c : LCell) (r : NounReq) (d : Dev) : Dev :=
  let x := cellAt d c
  let by_ := if r.clause = 0 then activeId x else r.clause
  if x.fence != .none then
    nounAnswer c r true [] (recSender 0x0102 r.src by_ r.off (lcellCode c) 0 d)
  else if nounWaits d (phys d c) then
    updCell c (fun x => { x with noun := { x.noun with reqs := x.noun.reqs ++ [{ r with waits := true }] } }) d
  else if modePermits (bankMode x r.src r.clause (bankOf r.addr)) r.port r.wr.isSome then
    updCell c (fun x => { x with noun := { x.noun with reqs := x.noun.reqs ++ [r] } }) d
  else refuseNoun c { r with clause := by_ } d

/-- NOUN_READ_REQUEST (R248). -/
def execNounReadRequest (c : LCell) (p : Dir) (addr : Nat) (src : Src) (clause off : Nat) (s : State) : Out :=
  onDev (arrive src (.cell c) [.nounRead p addr clause off]
    (nounArrive c { port := p, addr := addr, src := src, clause := clause, off := off, wr := none })) s
/-- NOUN_WRITE (R248, R271): the line and its enables have arrived. -/
def execNounWrite (c : LCell) (p : Dir) (addr : Nat) (src : Src) (clause off : Nat) (line : List Byte) (en : W64) (s : State) : Out :=
  onDev (arrive src (.cell c) [.nounWrite p addr clause off line, .nounEnables en]
    (nounArrive c { port := p, addr := addr, src := src, clause := clause, off := off, wr := some (padTo 64 (line.take 64), en) })) s

/-- The access that a port performs next, where it waits for bank `bank`: a port performs its accesses in the order they
arrive (R240). -/
def portHead (x : Cell) (bank : Nat) (p : Dir) : Option NounReq :=
  (x.noun.reqs.find? fun r => r.port == p).filter fun r => !r.waits && bankOf r.addr == bank
/-- Accesses that waited for a reload are checked under the map in force (R425 step 3). -/
def admitWaiting (c : LCell) (d : Dev) : Dev :=
  let x := cellAt d c
  let ws := x.noun.reqs.filter fun r => r.waits
  ws.foldl (fun d r => nounArrive c { r with waits := false } d)
    (updCell c (fun x => { x with noun := { x.noun with reqs := x.noun.reqs.filter fun r => !r.waits } }) d)
/-- The ports from `k` on in the order N, S, E, W (R254). -/
def portsFrom (k : Nat) : List Dir := (List.range 4).map fun i => dirOf (k + i)

/-- The granted group (R252, R254): the first requesting port at or after the pointer, and for a read the other ports'
reads of the same line, in the order N, S, E, W. -/
def grantGroup (x : Cell) (bank : Nat) : Option (NounReq × List NounReq) :=
  match (portsFrom (NMap.get 0 x.noun.ptr bank)).findSome? (portHead x bank) with
  | none => none
  | some r =>
    if r.wr.isSome then some (r, [r])
    else some (r, (portsFrom 0).filterMap fun p => (portHead x bank p).bind fun q =>
      if q.wr.isNone && lineOf q.addr == lineOf r.addr then some q else none)

/-- Enters a line in a merge buffer of the last 8 distinct lines (R253). -/
def mergeEnter (l : List Nat) (a : Nat) : List Nat := (a :: l.filter fun b => b != a).take 8
/-- The waiting reads that a SharedRead bank's merge buffer serves (R253). -/
def mergeHits (x : Cell) (bank : Nat) : List NounReq :=
  if modeShared (fld (activeData x).secA bank 1) then
    (portsFrom 0).filterMap fun p => (portHead x bank p).filter fun r => r.wr.isNone && (NMap.get [] x.noun.merge bank).contains (lineOf r.addr)
  else []
/-- The accesses of a group leave their ports. -/
def takeReqs (group : List NounReq) (n : Noun) : Noun :=
  { n with reqs := group.foldl (fun l q => eraseFirst (fun y => decide (y = q)) l) n.reqs }
/-- Read data of a line goes to every read of a group (R252). -/
def serveReads (c : LCell) (group : List NounReq) (d : Dev) : Dev :=
  group.foldl (fun d q => nounAnswer c q false ((cellAt d c).noun.mem.rdN (lineOf q.addr) 64) d) d

/-- A granted write (R239, R255). -/
def grantWrite (c : LCell) (r : NounReq) (line : List Byte) (en : W64) (n : Noun) (d : Dev) : Dev :=
  let la := lineOf r.addr
  let n := { n with mem := n.mem.wrLine la line en, bad := if en = BitVec.allOnes 64 then n.bad.filter (fun b => b != la) else n.bad }
  nounAnswer c r false [] (updCell c (fun x => { x with noun := n }) d)
/-- A granted read of a group: the line with its error corrected and counted, or a refusal of every read of it (R252, R255). -/
def grantRead (c : LCell) (bank : Nat) (r : NounReq) (group : List NounReq) (e : Ecc) (n : Noun) (d : Dev) : Dev :=
  let x := cellAt d c
  let la := lineOf r.addr
  if e == .upset || n.bad.contains la then
    let n := { n with bad := if n.bad.contains la then n.bad else n.bad ++ [la] }
    let lead := group.head?.getD r
    let d := recCell 0x0203 1 c (activeId x) (some lead.off) (bank * 256 + dirCode lead.port) (lead.addr % nounBytes) (updCell c (fun x => { x with noun := n }) d)
    group.foldl (fun d q => nounAnswer c q true [] d) d
  else
    let shared := modeShared (fld (activeData x).secA bank 1)
    let n := if shared then { n with merge := NMap.set [] n.merge bank (mergeEnter (NMap.get [] n.merge bank) la) } else n
    serveReads c group (updCell c (fun x => { x with noun := n, win := { x.win with nounCorrected := satAdd 32 x.win.nounCorrected (if e == .corrected then 1 else 0) } }) d)

/-- BANK_GRANT (R252-R255): the reads that the merge buffer holds are served and take no grant; else the bank's one access goes
to a waiting group, and the pointer moves past the port that it was found at. Nothing moves in a cell without power or clock (R510,
R511). -/
def execBankGrant (c : LCell) (bank : Nat) (e : Ecc) (s : State) : Out :=
  onDev (fun d =>
    let x := cellAt d c
    let hits := mergeHits x bank
    if d.ctl.state == .faulted || !halfOn d (phys d c) then d
    else if !hits.isEmpty then serveReads c hits (updCell c (fun x => { x with noun := takeReqs hits x.noun }) d)
    else match grantGroup x bank with
    | none => d
    | some (r, group) =>
      let n := takeReqs group { x.noun with ptr := NMap.set 0 x.noun.ptr bank ((dirCode r.port + 1) % 4) }
      match r.wr with
      | some (line, en) => grantWrite c r line en n d
      | none => grantRead c bank r group e n d) s

end Sys2Proof.Machine
end

