-- ==== Sys2Proof/Machine/FlitFmt.lean ====
section
/-! DEFINITION. The layout of a flit on the links (R269-R271, R300, R319): its 64-bit sideband header and its 64 bytes of payload.
The mesh of the model carries a flit as its fields (`Flit`); these definitions say which bits they are. -/
namespace Sys2Proof.Machine

/-- CLASS (R271, R300, R319). The second flit of a Noun write or of a mover memory write, or of a reply that carries a line, has the
class of the first (DEDUCED, notes/assumptions/74). -/
def Body.cls : Body → Nat
  | .qmsg .. => 0x0
  | .qctl .. => 0x1
  | .qcomp .. => 0x2
  | .nounRead .. => 0x3
  | .nounWrite .. => 0x4
  | .nounEnables _ => 0x4
  | .nounData .. => 0x5
  | .nounAck .. => 0x6
  | .launch .. => 0x7
  | .sigOp .. => 0x8
  | .sigReply .. => 0x9
  | .summary _ => 0xA
  | .memRead .. => 0xB
  | .memWrite .. => 0xB
  | .memLine _ => 0xB
  | .memData .. => 0xC
  | .memAck _ => 0xC
  | .memRefused _ => 0xC
/-- Whether a CLASS is defined; a flit of another is discarded and counted (R271). -/
def classDefined (cls : Nat) : Bool := decide (cls ≤ 0xC)

/-- OP of a queue control (R271). -/
def QOp.code : QOp → Nat
  | .qopen => 0
  | .qclose => 1
  | .qreset => 2
/-- RESULT of a queue completion (R271). -/
def QRes.code : QRes → Nat
  | .accepted => 0
  | .closed _ => 1
  | .full => 2
  | .resume => 3
  | .fenced => 4
/-- The engine of a launch (R271). -/
def engineCode : Engine → Nat
  | .verb => 0
  | .vec => 1
  | .smm => 2
/-- COND of a WAIT (R300). -/
def condCode : Cond → Nat
  | .ge => 0
  | .eq => 1
  | .any => 2
/-- OP and COND of a signal operation (R300). -/
def SigOp.code : SigOp → Nat × Nat
  | .read => (0, 0)
  | .set => (1, 0)
  | .add => (2, 0)
  | .wait c => (3, condCode c)
  | .cancel => (4, 0)
/-- RESULT of a signal reply (R300). -/
def SigRes.code : SigRes → Nat
  | .done => 0
  | .wake => 1
  | .cancelled => 2
  | .refused => 3
  | .absent => 4

/-- Port and byte address of a Noun access (R271). -/
def nounFields (p : Dir) (addr : Nat) : Nat := dirCode p * 2 ^ 28 + addr % 2 ^ 21 * 2 ^ 7
/-- Port and REFUSED of a Noun reply (R271). -/
def nounReply (p : Dir) (refused : Bool) : Nat := dirCode p * 2 ^ 28 + (if refused then 2 ^ 27 else 0)
/-- OP, TAG, RANK and KEY of a mover memory request, or RESULT and TAG of its reply (R319). -/
def memFields (op tag rank key : Nat) : Nat := op * 2 ^ 28 + tag % 256 * 2 ^ 20 + rank % 16 * 2 ^ 16 + min 0xFFFF key
/-- The class fields CF (R271, R300, R319); reserved bits are zero. -/
def Body.cf : Body → Nat
  | .qmsg q gen strict _ => q % 64 * 2 ^ 24 + gen % 256 * 2 ^ 16 + (if strict then 2 ^ 15 else 0)
  | .qctl q op => q % 64 * 2 ^ 24 + op.code * 2 ^ 22
  | .qcomp _ q gen res => q % 64 * 2 ^ 24 + gen % 256 * 2 ^ 16 + res.code * 2 ^ 13
  | .nounRead p addr _ _ => nounFields p addr
  | .nounWrite p addr _ _ _ => nounFields p addr
  | .nounEnables _ => 0
  | .nounData _ p _ refused _ => nounReply p refused
  | .nounAck _ p _ refused => nounReply p refused
  | .launch idx eng _ _ => idx % 1024 * 2 ^ 20 + engineCode eng * 2 ^ 18
  | .sigOp op r => op.code.1 * 2 ^ 27 + op.code.2 * 2 ^ 25 + r.frame % 4 * 2 ^ 23 + r.word % 4096 * 2 ^ 11
  | .sigReply _ res _ => res.code * 2 ^ 27
  | .summary _ => 0
  | .memRead tag rank key _ => memFields 0 tag rank key
  | .memWrite tag rank key _ _ => memFields 1 tag rank key
  | .memLine _ => 0
  | .memData tag _ => memFields 0 tag 0 0
  | .memAck tag => memFields 1 tag 0 0
  | .memRefused tag => memFields 2 tag 0 0
/-- Whether the codes of a CF are defined: OP, COND and RESULT of queue, signal and mover memory flits (R271, R300, R319). -/
def cfDefined (cls cf : Nat) : Bool :=
  match cls with
  | 0x1 => bits cf 23 22 != 3
  | 0x2 => decide (bits cf 15 13 ≤ 4)
  | 0x7 => bits cf 19 18 != 3
  | 0x8 => decide (bits cf 29 27 ≤ 4) && (bits cf 29 27 != 3 || bits cf 26 25 != 3)
  | 0x9 => decide (bits cf 29 27 ≤ 4)
  | 0xB => decide (bits cf 29 28 ≤ 1)
  | 0xC => bits cf 29 28 != 3
  | _ => true

/-- The 64 payload bytes, little-endian (R271, R300, R319). Of a read request of a Noun cell the manual gives none. -/
def Body.payload (b : Body) : List Byte :=
  padTo 64 (match b with
  | .qmsg _ _ _ pay => pay
  | .nounWrite _ _ _ _ line => line
  | .nounEnables en => leBytes 8 en.toNat
  | .nounData _ _ _ _ line => line
  | .launch _ _ p0 p1 => leBytes 8 p0.toNat ++ leBytes 8 p1.toNat
  | .sigOp _ r => leBytes 8 r.v.toNat ++ leBytes 2 r.clause ++ leBytes 4 r.off
  | .sigReply _ _ v => leBytes 8 v.toNat
  | .summary pay => pay
  | .memRead _ _ _ addr => leBytes 6 addr
  | .memWrite _ _ _ addr en => leBytes 6 addr ++ [0, 0] ++ leBytes 8 en.toNat
  | .memLine line => line
  | .memData _ line => line
  | _ => [])

/-- The sideband header (R269, R270). -/
def Flit.header (f : Flit) : Nat :=
  f.dmy % 64 * 2 ^ 58 + f.dmx % 128 * 2 ^ 51 + f.vc % 2 * 2 ^ 50 + f.body.cls * 2 ^ 46 + srcCode f.src % 0x10000 * 2 ^ 30 + f.body.cf

end Sys2Proof.Machine
end

