-- ==== Sys2Proof/Machine/Router.lean ====
section
/-! DEFINITION. Routers, detours and table changes (R68-R91). -/
namespace Sys2Proof.Machine

/-- The detour entry of a router's output: the fixed entries of the shim columns on the frame-boundary rows (R81), else the
table's (R79). -/
def detourAt (t : NMap DetEntry) (my mx : Nat) (o : Dir) : DetEntry :=
  if (my = 31 ∧ o = .s ∨ my = 32 ∧ o = .n) ∧ mx < 4 then { blocked := true, jog := .e, jogHops := 4 - mx, pass := 1 }
  else if (my = 31 ∧ o = .s ∨ my = 32 ∧ o = .n) ∧ 67 < mx then { blocked := true, jog := .w, jogHops := mx - 67, pass := 1 }
  else NMap.get {} t ((my * 72 + mx) * 4 + dirCode o)

/-- One hop from a mesh position. -/
def hop (my mx : Nat) : Dir → Nat × Nat
  | .n => (my - 1, mx)
  | .s => (my + 1, mx)
  | .e => (my, mx + 1)
  | .w => (my, mx - 1)

/-- Whether a router's output has a link: inside the mesh, and not from my 31 to my 32 in a shim column (R69, R70). -/
def linkAt (my mx : Nat) : Dir → Bool
  | .n => decide (0 < my) && !(my == 32 && (decide (mx < 4) || decide (67 < mx)))
  | .s => decide (my < 63) && !(my == 31 && (decide (mx < 4) || decide (67 < mx)))
  | .e => decide (mx < 71)
  | .w => decide (0 < mx)

/-- The output that R78 chooses towards a destination; none at the destination. -/
def outputTo (my mx dmy dmx : Nat) : Option Dir :=
  if mx < dmx then some .e else if dmx < mx then some .w
  else if my < dmy then some .s else if dmy < my then some .n else none

/-- A hop out of an output that has a link and is not BLOCKED: no flit leaves by another (R79). -/
def openHop (t : NMap DetEntry) (my mx : Nat) (o : Dir) (v : Option Detour) : Option (Dir × Option Detour) :=
  if linkAt my mx o && !(detourAt t my mx o).blocked then some (o, v) else none

/-- The direction of the next hop and the detour state after it (R78, R80). -/
def nextHop (t : NMap DetEntry) (my mx dmy dmx : Nat) (det : Option Detour) : Option (Dir × Option Detour) :=
  match det with
  | some v =>
    if v.jogLeft ≠ 0 then openHop t my mx v.jog (some { v with jogLeft := v.jogLeft - 1 })
    else if v.passLeft ≠ 0 then openHop t my mx v.pass (if v.passLeft = 1 then none else some { v with passLeft := v.passLeft - 1 })
    else none
  | none =>
    match outputTo my mx dmy dmx with
    | none => none
    | some o =>
      let e := detourAt t my mx o
      if e.blocked then openHop t my mx e.jog (some { jog := e.jog, jogLeft := e.jogHops - 1, pass := o, passLeft := e.pass })
      else openHop t my mx o none

/-- The clauses ACTIVE in a cell of a frame. -/
def activeInFrame (d : Dev) (fr : Nat) : List Nat :=
  (d.plan.clauses.filter fun c => c.cells.any fun x =>
    frameOf x == fr && (slotOf (cellAt d x) c.slot).st == .active && (slotOf (cellAt d x) c.slot).clause == c.id).map fun c => c.id

/-- Every output that leads into a router is BLOCKED: one that stays off where its bench is retired with dead routers (R89, R510). -/
def routerCut (t : NMap DetEntry) (my mx : Nat) : Bool :=
  [Dir.n, .s, .e, .w].all fun o => !linkAt my mx o || (let q := hop my mx o; (detourAt t q.1 q.2 (dirOpp o)).blocked)
/-- A router is powered: its half domain is on, and it is not cut off as a dead one is (R87, R510). -/
def routerOn (d : Dev) (p : Nat) : Bool := halfOn d p && !routerCut d.mesh.detour (meshPos p).1 (meshPos p).2

/-- The flits in a router's buffer of one input port and virtual channel (R74). -/
def bufferCount (fs : List Flit) (my mx inp vc : Nat) : Nat :=
  fs.countP fun g => g.inj && g.my == my && g.mx == mx && g.inp == inp && g.vc == vc
/-- Whether a buffer has room for one more of its 8 flits (R74). -/
def bufferRoom (fs : List Flit) (my mx inp vc : Nat) : Bool := decide (bufferCount fs my mx inp vc < 8)

/-- The output that an injected flit at the head of its buffer waits for. -/
def wants (t : NMap DetEntry) (fs : List Flit) (f : Flit) : Option Dir :=
  if f.inj && bufferHead fs f then (nextHop t f.my f.mx f.dmy f.dmx f.det).map fun x => x.1 else none
/-- Whether the rotation of an output grants a flit next among the heads that wait for the output (R77). -/
def granted (m : Mesh) (f : Flit) (o : Dir) : Bool :=
  rotationGrants m (dirCode o) (fun g => decide (wants m.detour m.flits g = some o)) f

/-- Which flit of its message a flit is: 1 the first of two, 2 the second, 0 the only one (R271, R319). -/
def flitPart : Body → Nat
  | .nounWrite .. | .memWrite .. => 1
  | .nounEnables _ | .memLine _ => 2
  | _ => 0
/-- The place of the other flit of a message of two. -/
def otherFlit (fs : List Flit) (n : Nat) : Option Nat :=
  match fs[n]? with
  | none => none
  | some f =>
    let k := if flitPart f.body = 1 then n + 1 else n - 1
    if flitPart f.body ≠ 0 ∧ (fs[k]?).any (fun g => between f.src f.dst g && flitPart g.body + flitPart f.body == 3) then some k else none
/-- The flits without the `n`-th and, where its message has two, without the other: a receiver has no use for one of them
(DESIGN CHOICE, notes/assumptions/79: R76 discards the flit in error and says nothing of the other). -/
def dropMessage (n : Nat) (fs : List Flit) : List Flit :=
  (fs.zipIdx.filter fun x => x.2 != n && otherFlit fs n != some x.2).map fun x => x.1

/-- A flit takes its place `g` in a buffer, or meets an error of its link at input `inp` of the physical position `q`: a
single-bit one is corrected and counted, a double-bit one discards the flit (R76). -/
def receive (n : Nat) (g : Flit) (q inp : Nat) (e : Ecc) (d : Dev) : Dev :=
  let m := { d.mesh with stamp := d.mesh.stamp + 1, flits := d.mesh.flits.set n { g with stamp := d.mesh.stamp, inp := inp } }
  match e with
  | .good => { d with mesh := m }
  | .corrected => { d with mesh := { m with corrected := m.corrected + 1 } }
  | .upset =>
    (activeInFrame d (physFrame q)).foldl (fun d id => recPhys 0x0104 1 q id inp 0 d)
      { d with mesh := { d.mesh with flits := dropMessage n d.mesh.flits } }

/-- Whether a waiting flit may be injected: no table change drains (R84), it is its sender's oldest there, and its router is
powered and has room (R74, R87). -/
def mayInject (d : Dev) (f : Flit) : Bool :=
  !d.mesh.drain && bufferHead d.mesh.flits f && routerOn d (physAt f.my f.mx) && bufferRoom d.mesh.flits f.my f.mx f.inp f.vc

/-- An injected flit moves by output `o`, where it heads its buffer, the rotation grants it, and the receiving router is
powered and has room (R74, R77, R80, R87). -/
def moveHop (n : Nat) (f : Flit) (o : Dir) (det : Option Detour) (e : Ecc) (d : Dev) : Dev :=
  let p := hop f.my f.mx o
  let inp := dirCode (dirOpp o)
  let vc := if det.isSome || f.det.isSome then 1 else f.vc
  let q := physAt p.1 p.2
  if bufferHead d.mesh.flits f && granted d.mesh f o && routerOn d q && bufferRoom d.mesh.flits p.1 p.2 inp vc then
    receive n { f with my := p.1, mx := p.2, det := det, vc := vc } q inp e
      { d with mesh := { d.mesh with grants := grantTo d.mesh (dirCode o) f } }
  else d

/-- ROUTER_FORWARD (R74, R76-R78, R80): the `n`-th flit is injected at its sender's router, or moves one hop. -/
def execRouterForward (n : Nat) (e : Ecc) (s : State) : Out :=
  onDev (fun d => match d.mesh.flits[n]? with
    | none => d
    | some f =>
      if !f.inj then (if mayInject d f then receive n { f with inj := true } (physAt f.my f.mx) f.inp e d else d)
      else match nextHop d.mesh.detour f.my f.mx f.dmy f.dmx f.det with
        | none => d
        | some (o, det) => moveHop n f o det e d) s

/-- BAD_FLIT: a flit of a CLASS that is not defined, 0xD-0xF, is discarded at the receiving router and counted (R271). -/
def execBadFlit (p : Nat) (cls : Nat) (s : State) : Out :=
  onDev (fun d => if classDefined cls = false ∧ cls ≤ 0xF ∧ p < 4608 then updP p (fun x => { x with win := { x.win with badFlits := satAdd 32 x.win.badFlits 1 } }) d else d) s

/-! ### Detour tables (R80, R82, R83) -/

/-- A physical bench as frame, bench row, physical bench column. -/
abbrev PBench := Nat × Nat × Nat

/-- The retirement map's benches with dead routers, or all its benches (R89, R494, R495). -/
def retiredBenches (m : List Nat) (deadOnly : Bool) : List PBench :=
  (m.filter fun e => bits e 63 60 == 1 && (!deadOnly || bit e 59)).map fun e =>
    (bits e 55 48, bits e 31 0 / 9, bits e 31 0 % 9)
/-- The physical bench of a physical cell. -/
def benchOfPhys (p : Nat) : PBench := (physFrame p, physRow p / 4, physCol p / 4)
/-- The unit number of a bench (R486). -/
def benchUnit (b : PBench) : Nat := b.2.1 * 9 + b.2.2

/-- A router that is dead. -/
def deadAt (dead : List PBench) (my mx : Nat) : Bool := dead.contains (benchOfPhys (physAt my mx))

/-- Dead routers met in a row in a direction. -/
def deadRun (dead : List PBench) (my mx : Nat) (o : Dir) : Nat → Nat
  | 0 => 0
  | n + 1 =>
    let p := hop my mx o
    if deadAt dead p.1 p.2 then 1 + deadRun dead p.1 p.2 o n else 0

/-- Whether `n` hops in a direction meet links and live routers alone (R70, R80). -/
def liveRun (dead : List PBench) (my mx : Nat) (o : Dir) : Nat → Bool
  | 0 => true
  | n + 1 =>
    let p := hop my mx o
    linkAt my mx o && !deadAt dead p.1 p.2 && liveRun dead p.1 p.2 o n

/-- Whether two mesh positions lie in one frame. -/
def sameFrame (a b : Nat × Nat) : Bool := a.1 / 32 == b.1 / 32 && decide (a.2 < 36) == decide (b.2 < 36)
/-- `n` hops in a direction. -/
def hops (my mx : Nat) (o : Dir) : Nat → Nat × Nat
  | 0 => (my, mx)
  | n + 1 => let p := hop my mx o; hops p.1 p.2 o n

/-- The fewest jog hops, 1 to 4, on one side, that stay in the frame and clear the dead area with a pass of at most 15 hops
(R79, R80). -/
def jogOn (dead : List PBench) (my mx : Nat) (o side : Dir) (pass : Nat) : Option Nat :=
  if 15 < pass then none
  else [1, 2, 3, 4].find? fun h =>
    liveRun dead my mx side h && sameFrame (my, mx) (hops my mx side h) &&
    (let p := hops my mx side h; liveRun dead p.1 p.2 o pass)

/-- The detour entry of an output (R80): fewer jog hops, on a tie north, or west for a north or south output. An output into a
dead router with no side to pass it on, or of a dead router itself, is BLOCKED (R89) and holds one hop each, which leads
no flit anywhere (DESIGN CHOICE, notes/assumptions/56). -/
def detourFor (dead : List PBench) (my mx : Nat) (o : Dir) : DetEntry :=
  let k := deadRun dead my mx o 72
  if !linkAt my mx o || k = 0 then {}
  else
    let sides : Dir × Dir := if o = .e ∨ o = .w then (.n, .s) else (.w, .e)
    let live := !deadAt dead my mx
    let a := if live then jogOn dead my mx o sides.1 (k + 1) else none
    let b := if live then jogOn dead my mx o sides.2 (k + 1) else none
    match a, b with
    | some i, some j => if j < i then { blocked := true, jog := sides.2, jogHops := j, pass := k + 1 } else { blocked := true, jog := sides.1, jogHops := i, pass := k + 1 }
    | some i, none => { blocked := true, jog := sides.1, jogHops := i, pass := k + 1 }
    | none, some j => { blocked := true, jog := sides.2, jogHops := j, pass := k + 1 }
    | none, none => { blocked := true, jog := sides.1, jogHops := 1, pass := 1 }

/-- The whole detour table for a set of dead benches; no entry where none is dead. -/
def detourTable (dead : List PBench) : NMap DetEntry :=
  if dead.isEmpty then []
  else (List.range (64 * 72)).foldl (fun t i => [Dir.n, .s, .e, .w].foldl (fun t o =>
    NMap.set {} t (i * 4 + dirCode o) (detourFor dead (i / 72) (i % 72) o)) t) []

/-- Follows a flit until its column is its destination's and no detour is under way, or to the end: position, hops and
dovetail crossings; none where the route fails. -/
def walk (t : NMap DetEntry) (toCol : Bool) : Nat → Nat → Nat → Nat → Nat → Option Detour → Nat → Nat → Option (Nat × Nat × Nat × Nat)
  | 0, _, _, _, _, _, _, _ => none
  | n + 1, my, mx, dmy, dmx, det, h, x =>
    if det.isNone && mx == dmx && (toCol || my == dmy) then some (my, mx, h, x)
    else match nextHop t my mx dmy dmx det with
      | none => none
      | some (o, det') =>
        let p := hop my mx o
        walk t toCol n p.1 p.2 dmy dmx det' (h + 1) (if sameFrame (my, mx) p then x else x + 1)

/-- Whether every route between cells of the listed benches keeps R82: 142 hops and 2 dovetails. -/
def routesOk (t : NMap DetEntry) (inUse : List PBench) : Bool :=
  let rows := List.range 64
  let cols := List.range 72
  let used (y x : Nat) : Bool := inUse.contains (benchOfPhys (physAt y x))
  cols.all fun x2 =>
    -- the column leg from each row, over the destinations of this column
    let legs := rows.map fun y => (rows.filter fun y2 => used y2 x2).map fun y2 => walk t false 200 y x2 y2 x2 none 0 0
    rows.all fun y => cols.all fun x => !used y x ||
      match walk t true 200 y x y x2 none 0 0 with
      | none => (rows.filter fun y2 => used y2 x2).isEmpty
      | some (y', _, h, c) => (legs.getD y' []).all fun l => match l with
        | some (_, _, h', c') => decide (h + h' ≤ 142) && decide (c + c' ≤ 2)
        | none => false

/-- Whether a physical bench is retired. -/
def benchRetired (m : List Nat) (b : PBench) : Bool := (retiredBenches m false).contains b

/-- The regular bench that the shim of a bench row is assigned to: the first of the row to be retired (R72). -/
def shimOwner (m : List Nat) (f r : Nat) : Option Nat :=
  ((retiredBenches m false).find? fun x => x.1 == f && x.2.1 == r && decide (x.2.2 < 8)).map fun x => x.2.2
/-- The remap tables (R72, R91): the first bench of a row to be retired takes its shim bench where that is working; an assigned
shim that fails leaves AVAIL 0. `assign` is whether a shim may come into use for a logical bench. -/
def remapTables (m : List Nat) (assign : Nat → Bool) (old : NMap Remap) : NMap Remap :=
  (List.range 256).foldl (fun t i =>
    let f := i / 64
    let r := i % 64 / 8
    let b := i % 8
    let cur := NMap.get ({} : Remap) t i
    if !benchRetired m (f, r, b) then t
    else if cur.shim then (if benchRetired m (f, r, 8) then NMap.set {} t i { avail := false, shim := true } else t)
    else if assign i && shimOwner m f r == some b && !benchRetired m (f, r, 8) then NMap.set {} t i { avail := true, shim := true }
    else NMap.set {} t i { avail := false }) old

/-- The physical benches that stand behind available logical benches. -/
def benchesInUse (t : NMap Remap) : List PBench :=
  (List.range 256).filterMap fun i =>
    let e := NMap.get ({} : Remap) t i
    if e.avail then some (i / 64, i % 64 / 8, if e.shim then 8 else i % 8) else none

/-- The channels, (router, output, virtual channel) as one number, that a flit takes from a position to its destination. -/
def channels (t : NMap DetEntry) (dmy dmx : Nat) : Nat → Nat → Nat → Nat → Option Detour → List Nat
  | 0, _, _, _, _ => []
  | n + 1, my, mx, vc, det =>
    match nextHop t my mx dmy dmx det with
    | none => []
    | some (o, det') =>
      let vc' := if det'.isSome || det.isSome then 1 else vc
      let p := hop my mx o
      (((my * 72 + mx) * 4 + dirCode o) * 2 + vc') :: channels t dmy dmx n p.1 p.2 vc' det'
/-- The mesh positions of the listed benches' routers. -/
def benchPlaces (bs : List PBench) : List (Nat × Nat) :=
  bs.flatMap fun b => (List.range 16).map fun i => meshPos (physIx b.1 (b.2.1 * 4 + i / 4) (b.2.2 * 4 + i % 4))
/-- The part of R83's freedom from routing deadlock that the model checks: no route waits for itself, taking one channel
twice (DESIGN CHOICE, notes/assumptions/57: the manual gives no criterion, and its own example of R86 has a cycle of channels
among different routes, so freedom from such cycles is not what it asks). -/
def deadlockFree (t : NMap DetEntry) (inUse : List PBench) : Bool :=
  let ps := benchPlaces inUse
  ps.all fun a => ps.all fun b => decide (channels t b.1 b.2 200 a.1 a.2 0 none).Nodup
/-- The tables that the engine accepts (R82, R83). -/
def tablesOk (t : NMap DetEntry) (inUse : List PBench) : Bool := routesOk t inUse && deadlockFree t inUse

/-- The first set of `n` numbers below `m`, joined to `s`, that satisfies `ok`: sets without the greater numbers come first. -/
def firstSet (ok : List Nat → Bool) : Nat → Nat → List Nat → Option (List Nat)
  | 0, _, s => if ok s then some s else none
  | _ + 1, 0, _ => none
  | n + 1, m + 1, s => match firstSet ok (n + 1) m s with
    | some r => some r
    | none => firstSet ok n m (m :: s)

/-- AVAIL 0 for the listed remap entries. -/
def withoutBenches (t : NMap Remap) (s : List Nat) : NMap Remap :=
  s.foldl (fun t i => NMap.set {} t i { (NMap.get ({} : Remap) t i) with avail := false }) t
/-- The fewest logical benches whose AVAIL must be 0 for the tables to be accepted (R82, R83), leaving out the benches
`away`, which no route needs; of several sets of that size the one that `firstSet` meets first (DESIGN CHOICE,
notes/assumptions/58). -/
def dropFor (t : NMap Remap) (det : NMap DetEntry) (away : List PBench) : List Nat :=
  let inUse (t : NMap Remap) : List PBench := (benchesInUse t).filter fun b => !away.contains b
  if det.isEmpty then []
  else ((List.range 257).findSome? fun n => firstSet (fun s => tablesOk det (inUse (withoutBenches t s))) n 256 []).getD []

/-- The benches under a bench slice: they are dead for routing (R90). -/
def slicingBenches (d : Dev) : List PBench :=
  (List.range 4).filterMap fun f => ((d.health.jigs.getD f {}).running.filter fun s => s.kind == 1).map fun s => (f, s.unit_ / 9, s.unit_ % 9)
/-- The remap tables that the next change starts from. -/
def comingRemap (d : Dev) : NMap Remap :=
  match d.mesh.next with
  | some x => x.1
  | none => d.mesh.remap
/-- No shim comes into use. -/
def noShims (_ : Nat) : Bool := false
/-- New tables for the map `m` (R83, R90). -/
def newTables (m : List Nat) (assign : Nat → Bool) (d : Dev) : NMap Remap × NMap DetEntry × List Nat :=
  let det := detourTable (retiredBenches m true ++ slicingBenches d)
  let t := remapTables m assign (comingRemap d)
  let drop := dropFor t det (slicingBenches d)
  (withoutBenches t drop, det, drop)

/-- Asks for a table change at the next phase 0 (R84). DETOUR_LIMIT is recorded for each bench that R83 takes away, which
detail word 0 names as frame * 64 + its remap entry (DESIGN CHOICE, notes/assumptions/58). -/
def askTables (m : List Nat) (assign : Nat → Bool) (d : Dev) : Dev :=
  let n := newTables m assign d
  let d := n.2.2.foldl (fun d i => recPlain 0x0103 0 0 i 0 d) d
  { d with mesh := { d.mesh with next := some (n.1, n.2.1) } }

/-- The detour entries in force of the router of a physical cell, as a slot's table image holds them (R79, R406). -/
def routerImage (t : NMap DetEntry) (p : Nat) : List DetEntry :=
  let (y, x) := meshPos p
  [Dir.n, .s, .e, .w].map fun o => NMap.get {} t ((y * 72 + x) * 4 + dirCode o)
/-- The remap table in force of the frame of a physical cell, as the engine area holds it (R71, R406). -/
def remapImage (t : NMap Remap) (p : Nat) : List Remap := (List.range 64).map fun i => NMap.get {} t (physFrame p * 64 + i)
/-- The slots of the loaded clauses in a logical cell that a shim comes to hold, without their data: ACTIVE where the retirement
ended an ACTIVE one, else FILLING until they are written (R52, R425). -/
def dueSlots (d : Dev) (c : LCell) : NMap Slot :=
  (d.plan.clauses.filter fun k => k.has c).foldl (fun m k =>
    NMap.set {} m k.slot { st := if k.gone.contains c then .active else .filling, clause := k.id }) []
/-- What a shim bench's cell takes over of the cell whose place it takes: slots without their data, queues, buffers and what
is awaited; its counters start at zero where a slot becomes ACTIVE in it (R140). Noun bytes, operand files and registers are the shim's own (R425; DESIGN CHOICE, notes/assumptions/16). -/
def takeOver (slots : NMap Slot) (a b : Cell) : Cell :=
  let n := { b.noun with reqs := a.noun.reqs }
  let b := match (List.range 4).find? fun i => (NMap.get ({} : Slot) slots i).st == .active with
    | some i => { b with ctr := {}, ctrBeat := {}, ctrOf := (NMap.get ({} : Slot) slots i).clause }
    | none => b
  let k := { b.conj with pc := a.conj.pc, st := a.conj.st, mbox := a.conj.mbox, sigs := a.conj.sigs, launch := a.conj.launch, mreqs := a.conj.mreqs, stall := a.conj.stall }
  { b with
    slots := slots
    stopped := a.stopped, queues := a.queues, waiters := a.waiters, rot := a.rot, sends := a.sends, gens := a.gens
    stall := a.stall, stallRec := a.stallRec, waitL := a.waitL, noun := n, conj := k }
/-- What is left in a cell whose place a shim takes. -/
def vacated (a : Cell) : Cell :=
  { fence := a.fence, clockOff := a.clockOff, badEntries := a.badEntries, win := a.win, opfile := a.opfile
    ctr := a.ctr, ctrBeat := a.ctrBeat, ctrOf := a.ctrOf
    noun := { a.noun with reqs := [] }, conj := { regs := a.conj.regs } }
/-- The cells of the benches that a new remap table puts on their shims move. -/
def moveCells (old : Dev) (d : Dev) : Dev :=
  (d.mesh.remap.filter fun e => e.2.shim && !(NMap.get ({} : Remap) old.mesh.remap e.1).shim).foldl (fun d e =>
    (List.range 16).foldl (fun d i =>
      let c : LCell := { row := e.1 / 128 * 32 + e.1 % 64 / 8 * 4 + i / 4, col := e.1 / 64 % 2 * 32 + e.1 % 8 * 4 + i % 4 }
      let a := phys old c
      let d := updP a vacated (updP (phys d c) (takeOver (dueSlots d c) (cellP d a)) d)
      { d with plan := { d.plan with clauses := d.plan.clauses.map fun k => { k with gone := k.gone.filter fun x => decide (x ≠ c) } } }) d) d
/-- The slots' table images follow the tables in force (R83, R406). -/
def refreshImages (d : Dev) : Dev :=
  { d with cells := NMap.mapVals {} (fun p x => { x with slots := NMap.mapVals {} (fun _ s =>
      if s.st == .empty then s
      else { s with tables := routerImage d.mesh.detour p, area := { s.area with remap := remapImage d.mesh.remap p } }) x.slots }) d.cells }
/-- Puts the tables that are asked for in force; the flits that wait to be injected take their places under them. -/
def applyTables (d : Dev) : Dev :=
  match d.mesh.next with
  | none => d
  | some (r, t) =>
    let old := d
    let d := refreshImages (moveCells old { d with mesh := { d.mesh with remap := r, detour := t, next := none, drain := false } })
    let place (f : Flit) : Flit := { newFlit f.src f.dst f.body d with stamp := f.stamp }
    { d with mesh := { d.mesh with flits := d.mesh.flits.map fun f => if f.inj then f else place f } }

end Sys2Proof.Machine
end

