-- ==== Sys2Proof/Machine/Alloc.lean ====
section
/-! DEFINITION. Placing a clause: the contract and its region (R43-R47), allocations (R296, R313), the check of R48. -/
namespace Sys2Proof.Machine

/-! ### Contract fields (R38, R39) -/

/-- A flag of FLAGS: 0 SCI, 1 STRADDLE_ROW, 2 STRADDLE_COL, 3 CARRY. -/
def ctFlag (k : List Byte) (i : Nat) : Bool := bit (fld k 3 1) i
/-- CLAUSE_ID. -/
def ctId (k : List Byte) : Nat := fld k 0 2
/-- BENCH_ROWS. -/
def ctRows (k : List Byte) : Nat := fld k 4 1
/-- BENCH_COLS. -/
def ctCols (k : List Byte) : Nat := fld k 5 1
/-- QUEUE_ENTRIES. -/
def ctEntries (k : List Byte) : Nat := fld k 8 2
/-- SIGNALS. -/
def ctSignals (k : List Byte) : Nat := fld k 0x0A 2
/-- DURABLE_REGIONS. -/
def ctRegions (k : List Byte) : Nat := fld k 0x0E 2
/-- HBM_BYTES. -/
def ctHbm (k : List Byte) : Nat := fld k 0x10 8
/-- LPDDR_BYTES. -/
def ctLp (k : List Byte) : Nat := fld k 0x18 8
/-- DURABLE_BYTES. -/
def ctDurable (k : List Byte) : Nat := fld k 0x20 8
/-- BEAT_MIN_NS. -/
def ctBeatMin (k : List Byte) : Nat := fld k 0x28 4
/-- BEAT_MAX_NS. -/
def ctBeatMax (k : List Byte) : Nat := fld k 0x2C 4

/-! ### Free memory (R313) -/

/-- The taken ranges of HBM: the image copy, the save areas and the clauses' ranges. -/
def hbmTaken (d : Dev) : List (Nat × Nat) :=
  ((d.tiers.copyBase, d.tiers.copyLen) :: d.tiers.reserved ++ d.plan.clauses.map fun c => (c.hbmBase, c.hbmBytes)).filter fun r => r.2 != 0
/-- The taken ranges of LPDDR5X. -/
def lpTaken (d : Dev) : List (Nat × Nat) :=
  (d.plan.clauses.map fun c => (c.lpBase, c.lpBytes)).filter fun r => r.2 != 0
/-- Inserts a number into an ascending list. -/
def insertNat (a : Nat) : List Nat → List Nat
  | [] => [a]
  | b :: l => if a ≤ b then a :: b :: l else b :: insertNat a l
/-- The addresses of a window at which a lowest free range can start, ascending, on 4 KiB boundaries. -/
def startsIn (taken : List (Nat × Nat)) (w : Nat × Nat) : List Nat :=
  (taken.map fun t => upTo 4096 (t.1 + t.2)).foldl (fun l a => if w.1 ≤ a ∧ a < w.2 then insertNat a l else l) [w.1]
/-- `n` bytes at `s` lie in one of the areas and in no taken range: no bytes fit anywhere (R43). -/
def rangeFits (taken areas : List (Nat × Nat)) (s n : Nat) : Bool :=
  (areas.any fun a => decide (a.1 ≤ s) && decide (s + n ≤ a.2)) &&
  (n == 0 || taken.all fun t => decide (s + n ≤ t.1) || decide (t.1 + t.2 ≤ s))
/-- The lowest start of `n` free bytes, trying the windows in order. -/
def allocRange (taken areas windows : List (Nat × Nat)) (n : Nat) : Option Nat :=
  windows.findSome? fun w => (startsIn taken w).find? fun s => rangeFits taken areas s n
/-- The longest free range in an area. -/
def largestFree (taken areas : List (Nat × Nat)) : Nat :=
  (areas.flatMap fun a => (startsIn taken a).map fun s =>
    if taken.all fun t => decide (s < t.1) || decide (t.1 + t.2 ≤ s) then
      (taken.foldl (fun e t => if s ≤ t.1 then min e t.1 else e) a.2) - s
    else 0).foldl max 0

/-- The frames that a region occupies, the origin's first, then ascending (R46). -/
def regionFrames (orow ocol rows cols : Nat) : List Nat :=
  let f0 := orow / 8 * 2 + ocol / 8
  f0 :: (List.range 4).filter fun f => f != f0 &&
    decide (f / 2 * 8 < orow + rows) && decide (orow < f / 2 * 8 + 8) &&
    decide (f % 2 * 8 < ocol + cols) && decide (ocol < f % 2 * 8 + 8)
/-- The home-stack window of a frame (R315). -/
def frameWindow (f : Nat) : Nat × Nat := (f * Config.hbmWindow, (f + 1) * Config.hbmWindow)
/-- Joins windows that follow one another, given in ascending order. -/
def joinAreas : List (Nat × Nat) → List (Nat × Nat)
  | [] => []
  | a :: l => match joinAreas l with
    | [] => [a]
    | b :: m => if a.2 = b.1 then (a.1, b.2) :: m else a :: b :: m
/-- The areas and, in order, the windows for a clause's HBM (R313, R315). -/
def hbmAreas (d : Dev) (orow ocol rows cols : Nat) : List (Nat × Nat) × List (Nat × Nat) :=
  if d.tiers.interleave = 0 then
    let fs := regionFrames orow ocol rows cols
    (joinAreas ((List.range 4).filterMap fun f => if fs.contains f then some (frameWindow f) else none), fs.map frameWindow)
  else ([(0, Config.hbmBytes)], [(0, Config.hbmBytes)])
/-- The same for LPDDR5X: the half of the I/O die adjacent to the origin's frame first. -/
def lpAreas (d : Dev) (ord orow : Nat) : List (Nat × Nat) :=
  let b := Config.lpBase
  let h := Config.lpBytes / 2
  if ord ≠ 0 then []
  else if d.tiers.interleave ≠ 0 then [(b, b + 2 * h)]
  else if orow < 8 then [(b, b + h), (b + h, b + 2 * h)] else [(b + h, b + 2 * h), (b, b + h)]

/-! ### Free signal words (R291, R293, R296) -/

/-- A word that is free: not owned and not failed (R43, R293). -/
def sigFree (d : Dev) (f w : Nat) : Bool := let x := sigWord d f w; !x.alloc && !x.failed
/-- The runs of free words of frame `f`, ascending, among the words below 4096 from `w`, with the run that is open. -/
def freeRunsFrom (d : Dev) (f : Nat) : Nat → Nat → Nat → List (Nat × Nat × Nat)
  | 0, w, n => if n = 0 then [] else [(f, w - n, n)]
  | k + 1, w, n =>
    if sigFree d f w then freeRunsFrom d f k (w + 1) (n + 1)
    else (if n = 0 then [] else [(f, w - n, n)]) ++ freeRunsFrom d f k (w + 1) 0
/-- The runs of free words of frame `f`; none where its store is unreachable (R291). -/
def freeRuns (d : Dev) (f : Nat) : List (Nat × Nat × Nat) := if storeReachable d f then freeRunsFrom d f 4096 0 0 else []
/-- The sixteen runs that a clause may use: the origin's frame first, then the others ascending (R296). -/
def runsFor (d : Dev) (orow ocol : Nat) : List (Nat × Nat × Nat) :=
  let f0 := orow / 8 * 2 + ocol / 8
  ((f0 :: (List.range 4).filter fun f => f != f0).flatMap (freeRuns d)).take 16
/-- The words of a list of runs. -/
def runWords (rs : List (Nat × Nat × Nat)) : Nat := rs.foldl (fun n r => n + r.2.2) 0
/-- Takes `n` words from the front of runs. -/
def takeRuns : List (Nat × Nat × Nat) → Nat → List (Nat × Nat × Nat)
  | [], _ => []
  | (f, w, m) :: rs, n => if n = 0 then [] else (f, w, min m n) :: takeRuns rs (n - min m n)

/-! ### The conditions of R43 -/

/-- Whether a slot of every cell of a region is free, `own` counting as free (R43, R425). -/
def slotFree (d : Dev) (own : Nat) (cells : List LCell) (k : Nat) : Bool :=
  cells.all fun c => let s := slotOf (cellAt d c) k; s.st == .empty || (own != 0 && s.clause == own)
/-- The slot number that is free in every cell (R49). -/
def findSlot (d : Dev) (own : Nat) (cells : List LCell) : Option Nat := (List.range 4).find? (slotFree d own cells)
/-- The durable regions and bytes of the loaded clauses. -/
def durableUsed (d : Dev) : Nat × Nat :=
  d.plan.clauses.foldl (fun p c => (p.1 + ctRegions c.contract, p.2 + ctDurable c.contract)) (0, 0)

/-- Why a region fails: the condition of R43, with the value that detail word 1 takes the largest of (conditions 6, 8, 9)
and, for condition 9, whether it is LPDDR_BYTES. -/
structure Unmet where
  cond : Nat
  val  : Nat := 0
  lp   : Bool := false
  deriving DecidableEq, Repr

/-- What a region that satisfies the contract gives a clause. -/
structure Placed where
  orow : Nat
  ocol : Nat
  slot : Nat
  hbm  : Nat
  lp   : Nat
  runs : List (Nat × Nat × Nat)
  deriving DecidableEq, Repr

/-- Conditions 1 to 3: those that no region changes (R43, R40). Other field values outside the ranges of R38, as HBM_BYTES that is no
multiple of 4 KiB or BEAT_MIN_NS below 500, are taken as they stand: the contract is met where the resources are there (DESIGN
CHOICE, notes/assumptions/73). -/
def contractUnmet (d : Dev) (k : List Byte) : Option Nat :=
  if fld k 2 1 < 1 ∨ 3 < fld k 2 1 then some 1
  else if ctFlag k 0 && !d.plan.sci then some 2
  else if d.beat.period < ctBeatMin k ∨ ctBeatMax k < d.beat.period then some 3
  else none
/-- Condition 4 (R43). -/
def shapeFits (k : List Byte) (orow ocol : Nat) : Bool :=
  decide (orow + ctRows k ≤ 16) && decide (ocol + ctCols k ≤ 16) &&
  (ctFlag k 1 || decide (8 ≤ orow) || decide (orow + ctRows k ≤ 8)) && (ctFlag k 2 || decide (8 ≤ ocol) || decide (ocol + ctCols k ≤ 8))

/-- Tries one origin: the first condition of R43 that its region fails, or the placement. A clause that is re-placed
(`own` not 0) keeps its memory and signals, which must be reachable, and its own region counts as free (R291, R425). -/
def tryOrigin (ord : Nat) (d : Dev) (k : List Byte) (own : Nat) (orow ocol : Nat) : Sum Unmet Placed :=
  let cells := rectCells orow ocol (ctRows k) (ctCols k)
  match contractUnmet d k with
  | some n => .inl { cond := n }
  | none =>
    if !shapeFits k orow ocol then .inl { cond := 4 }
    else if !cells.all (availOf d) then .inl { cond := 5 }
    else
      let least := cells.foldl (fun n c => min n (usableEntries (cellAt d c))) 1024
      if least < ctEntries k then .inl { cond := 6, val := least }
      else match findSlot d own cells with
        | none => .inl { cond := 7 }
        | some slot =>
          let mine := ((clauseOf d own).map fun c => c.runs).getD []
          let near := mine.filter fun r => storeReachable d r.1
          if own ≠ 0 then
            (if runWords near < runWords mine then .inl { cond := 8, val := runWords (near ++ runsFor d orow ocol) }
             else .inr { orow := orow, ocol := ocol, slot := slot, hbm := 0, lp := 0, runs := [] })
          else
            let runs := runsFor d orow ocol
            if runWords runs < ctSignals k then .inl { cond := 8, val := runWords runs }
            else
              let ha := hbmAreas d orow ocol (ctRows k) (ctCols k)
              match allocRange (hbmTaken d) ha.1 ha.2 (ctHbm k) with
              | none => .inl { cond := 9, val := largestFree (hbmTaken d) ha.1 }
              | some h =>
                let la := lpAreas d ord orow
                match (if ord ≠ 0 && ctLp k == 0 then some 0 else allocRange (lpTaken d) la la (ctLp k)) with
                | none => .inl { cond := 9, val := largestFree (lpTaken d) la, lp := true }
                | some l =>
                  let u := durableUsed d
                  if 64 < u.1 + ctRegions k ∨ 2 ^ 40 < u.2 + ctDurable k then .inl { cond := 10 }
                  else .inr { orow := orow, ocol := ocol, slot := slot, hbm := h, lp := l, runs := takeRuns runs (ctSignals k) }

/-- The candidate origins in order (R44). -/
def candidates (k : List Byte) : List (Nat × Nat) :=
  let r := fld k 6 1
  let c := fld k 7 1
  let rs := if r = 0xFF then List.range 16 else [r]
  let cs := if c = 0xFF then List.range 16 else [c]
  rs.flatMap fun r => cs.map fun c => (r, c)

/-- The further along of two failures: the later condition; for one condition the larger value, LPDDR_BYTES after HBM_BYTES. -/
def further (a b : Unmet) : Unmet :=
  if a.cond < b.cond then b else if b.cond < a.cond then a
  else if a.lp != b.lp then (if b.lp then b else a)
  else if a.val < b.val then b else a

/-- The search of R44: the first candidate that satisfies the contract, else the failure of R47. -/
def searchOrigins (ord : Nat) (d : Dev) (k : List Byte) (own : Nat) : List (Nat × Nat) → Option Unmet → Sum Unmet Placed
  | [], best => .inl (best.getD { cond := 4 })
  | (r, c) :: l, best =>
    match tryOrigin ord d k own r c with
    | .inr p => .inr p
    | .inl u => searchOrigins ord d k own l (some (match best with
      | some b => further b u
      | none => u))
/-- A place for a clause (R44). -/
def searchPlace (ord : Nat) (d : Dev) (k : List Byte) (own : Nat) : Sum Unmet Placed := searchOrigins ord d k own (candidates k) none

/-- The detail words of CONTRACT_UNMET (R47). -/
def unmetDetails (d : Dev) (k : List Byte) (u : Unmet) : Nat × Nat :=
  match u.cond with
  | 1 => (0x0002, 3)
  | 2 => (0x0003, 0)
  | 3 => (if d.beat.period < ctBeatMin k then 0x0028 else 0x002C, d.beat.period)
  | 4 => (0x0304, 0)
  | 5 => (0x0305, 0)
  | 6 => (0x0008, u.val)
  | 7 => (0x0307, 0)
  | 8 => (0x000A, u.val)
  | 9 => (if u.lp then 0x0018 else 0x0010, u.val / 4096)
  | _ =>
    let w := durableUsed d
    if 64 < w.1 + ctRegions k then (0x000E, 64 - w.1) else (0x0020, (2 ^ 40 - w.2) / Config.granuleBytes)

/-! ### The check of R48 -/

/-- Whether a loaded clause's own region still satisfies its contract, its slots, words and memory counting as its own
(R48, R291). -/
def stillMet (d : Dev) (cl : Clause) : Option Unmet :=
  match contractUnmet d cl.contract with
  | some n => some { cond := n }
  | none =>
    if !cl.cells.all (availOf d) then some { cond := 5 }
    else
      let least := cl.cells.foldl (fun n c => min n (usableEntries (cellAt d c))) 1024
      if least < ctEntries cl.contract then some { cond := 6, val := least }
      else if cl.runs.any fun r => !storeReachable d r.1 then some { cond := 8 }
      else none

end Sys2Proof.Machine
end

