-- ==== Sys2Proof/Machine/Slots.lean ====
section
/-! DEFINITION. Slots over a clause's region (R49-R57, R169, R247, R275, R297): filling, activation, closing out, and when a
clause is quiescent or ready. -/
namespace Sys2Proof.Machine

/-! ### Cell records (R406) -/

/-- Lengths of sections A, B and C of a cell record. -/
def recLens (r : List Byte) : Nat × Nat × Nat := (fld r 8 4, fld r 0xC 4, fld r 0x10 4)
/-- Where section B starts. -/
def recB (r : List Byte) : Nat := 64 + upTo 64 (recLens r).1
/-- Where section C starts. -/
def recC (r : List Byte) : Nat := recB r + upTo 64 (recLens r).2.1
/-- Where the queue configuration starts. -/
def recQ (r : List Byte) : Nat := recC r + upTo 64 (recLens r).2.2
/-- The slot data of a cell record. -/
def recData (r : List Byte) : SlotData :=
  { secA := slice r 64 (recLens r).1, secB := slice r (recB r) (recLens r).2.1, secC := slice r (recC r) (recLens r).2.2,
    qcfg := slice r (recQ r) 528 }

/-- The cells of a clause with their indices. -/
def Clause.indexed (c : Clause) : List (LCell × Nat) := c.cells.zipIdx

/-! ### Filling (R51, R52) -/

/-- Loads a slot's detour table image into its router (R55). -/
def loadImage (p : Nat) (im : List DetEntry) (d : Dev) : Dev :=
  let (y, x) := meshPos p
  { d with mesh := { d.mesh with detour := im.zipIdx.foldl (fun t e => NMap.set {} t ((y * 72 + x) * 4 + e.2) e.1) d.mesh.detour } }
/-- A slot with the slot data of cell `i` of a clause, for physical cell `p`, and the engine area that the engine makes (R406). -/
def Slot.written (cl : Clause) (i p : Nat) (d : Dev) (s : Slot) : Slot :=
  { s with data := recData (cl.recs.getD i []), tables := routerImage d.mesh.detour p
           area := { remap := remapImage d.mesh.remap p, sigMap := cl.runs, origin := (cl.orow, cl.ocol) } }

/-! ### The CRC of configuration memory (R421) -/

/-- One bit of a CRC-32 with polynomial 0x04C11DB7. -/
def crc32Bit (c : Nat) (b : Bool) : Nat :=
  let x := c * 2 % 2 ^ 32
  if bit c 31 != b then x ^^^ 0x04C11DB7 else x
/-- One byte of it, most significant bit first (DESIGN CHOICE, notes/assumptions/48). -/
def crc32Byte (c : Nat) (b : Byte) : Nat := (List.range 8).foldl (fun c i => crc32Bit c (bit b.toNat (7 - i))) c
/-- The CRC-32 of bytes, with initial value 0xFFFFFFFF and a final inversion. -/
def crc32 (bs : List Byte) : Nat := bs.foldl crc32Byte 0xFFFFFFFF ^^^ 0xFFFFFFFF
/-- The physical cells of frame `f` that hold slot data in slot `k`, in ascending order, and the CRC-32 of those data. -/
def sealOf (d : Dev) (f k : Nat) : List Nat × Nat :=
  let xs := d.cells.filter fun e => physFrame e.1 == f && (slotOf e.2 k).st != .empty
  (xs.map fun e => e.1, crc32 (xs.flatMap fun e => let s := (slotOf e.2 k).data; s.secA ++ s.secB ++ s.secC ++ s.qcfg))
/-- At a fill the engine computes the CRC of the slot in each frame. -/
def sealSlot (k : Nat) (d : Dev) : Dev :=
  { d with config := { d.config with seals := (List.range 4).foldl (fun m f => NMap.set none m (f * 4 + k) (some (sealOf d f k))) d.config.seals } }
/-- The CRC of a slot in a frame is no longer that of its fill; slot data that a retirement or a move has taken out or put in since
are compared from their next fill on (DESIGN CHOICE, notes/assumptions/48). -/
def sealBroken (d : Dev) (f k : Nat) : Bool :=
  match NMap.get none d.config.seals (f * 4 + k) with
  | some s => let n := sealOf d f k; decide (n.1 = s.1) && n.2 != s.2
  | none => false

/-! ### Writing slots -/

/-- Writes the slot data and the table image of a clause's cells that satisfy `p` from its records; data stores start from the
preset again. A slot that a retirement made EMPTY is not filled (R52). -/
def fillCells (cl : Clause) (p : LCell → Bool) (d : Dev) : Dev :=
  sealSlot cl.slot (cl.indexed.foldl (fun d ci =>
    if p ci.1 && (slotOf (cellAt d ci.1) cl.slot).st != .empty then updCell ci.1 (updSlot cl.slot fun s => { s.written cl ci.2 (phys d ci.1) d with
      st := if s.st == .active then .active else .resident, clause := cl.id, saved := none }) d
    else d) d)
/-- A clause's slots become FILLING, but those that a retirement made EMPTY (R52). -/
def beginFill (cl : Clause) (d : Dev) : Dev :=
  updClause cl.id (fun c => { c with filling := true })
    (cl.cells.foldl (fun d c => updCell c (updSlot cl.slot fun s => if s.st == .empty then s else { s with st := .filling }) d) d)
/-- A fill completes: the slots become RESIDENT, and the next activation is the first after a fill. -/
def endFill (cl : Clause) (d : Dev) : Dev :=
  updClause cl.id (fun c => { c with filling := false, activated := false }) (fillCells cl (fun _ => true) d)

/-! ### Data presets (R169, R411) -/

/-- Patches a field of a little-endian 64-bit window; none where the new value does not fit. -/
def patchField (bs : List Byte) (off lsb width : Nat) (f : Nat → Nat) : Option (List Byte) :=
  let w := fld bs off 8
  let v := f (bits w (lsb + width - 1) lsb)
  if v < 2 ^ width then some (setFld bs off 8 (w - bits w (lsb + width - 1) lsb * 2 ^ lsb + v * 2 ^ lsb)) else none
/-- The data preset of a cell: its data image with the BEAT relocations applied; one that overflows records CLAUSE_IMAGE and
leaves its field (DEDUCED, notes/assumptions/29). -/
def dataPreset (cl : Clause) (i : Nat) (d : Dev) : Mem × Dev :=
  let b := (recData (cl.recs.getD i [])).secB
  let r := (cl.beatRel.filter fun r => r.cell == i).foldl (fun (p : List Byte × Dev) r =>
    match patchField p.1 r.off r.lsb r.width (fun v => v + d.config.startBeat) with
    | some b => (b, p.2)
    | none => (p.1, recPlain 0x0807 0 cl.id r.ioff r.idx p.2)) (b, d)
  (Mem.wrN [] 0 r.1, r.2)

/-! ### Activation (R55, R169, R275, R297) -/

/-- The queues of a slot as it becomes ACTIVE (R275). -/
def openQueues (s : SlotData) (gen : Nat) (qs : NMap Queue) : NMap Queue :=
  (List.range 64).foldl (fun m q =>
    NMap.set {} m q (if qUsed s q then { st := .open, gen := gen } else { st := .closed, gen := (NMap.get {} m q).gen })) qs

/-- A cell as its slot becomes ACTIVE. -/
def activateCell (cl : Clause) (gen : Nat) (first : Bool) (c : LCell) (i : Nat) (d : Dev) : Dev :=
  let sl := slotOf (cellAt d c) cl.slot
  let p := if kindAt c.row c.col == .conj then
      (match sl.saved with
      | some m => if first then dataPreset cl i d else (m, d)
      | none => dataPreset cl i d)
    else ([], d)
  loadImage (phys d c) sl.tables <| updCell c (fun x =>
    let x := updSlot cl.slot (fun s => { s with st := .active }) x
    let n := { x.noun with merge := [], refusedOnce := false }
    let k := { x.conj with pc := 0, st := .off, dmem := p.1, mbox := [], stall := none, sigs := x.conj.sigs.map fun o => { o with reg := none } }
    { x with queues := openQueues sl.data gen x.queues, rot := [], gens := [], stall := 0, stallRec := false,
             ctr := {}, ctrBeat := {}, ctrOf := cl.id, noun := n, conj := k, stopped := cl.held }) p.2

/-- Writes INIT into every word of a clause that resets at activation (R297). -/
def resetWords (cl : Clause) (d : Dev) : Dev :=
  (cl.runs.flatMap fun r => (List.range r.2.2).map fun i => (r.1, r.2.1 + i)).foldl (fun d fw =>
    updSig fw.1 fw.2 (fun w => if w.resetOnAct then { w with value := w.init } else w) d) d

/-- A clause becomes ACTIVE in every cell of its region. -/
def activate (cl : Clause) (d : Dev) : Dev :=
  let gen := if cl.activated then (cl.actGen + 1) % 256 else 0
  let d := resetWords cl (updClause cl.id (fun c => { c with actGen := gen, activated := true, ceilRec := false, gone := [] }) d)
  cl.indexed.foldl (fun d ci => activateCell cl gen (!cl.activated) ci.1 ci.2 d) d

/-- The Conjunction cells of a clause begin at offset 0; those of a held clause stop there (R55, R480). -/
def startCores (cl : Clause) (d : Dev) : Dev :=
  cl.cells.foldl (fun d c =>
    if kindAt c.row c.col == .conj && slotOfClause (cellAt d c) cl.id == activeSlot (cellAt d c) && (activeSlot (cellAt d c)).isSome then
      updCell c (fun x => { x with stopped := x.stopped || cl.held, conj := { x.conj with pc := 0, st := .running, stall := none } }) d
    else d) d

/-! ### Leaving ACTIVE (R55, R169, R185, R253, R275) -/

/-- The queues of a cell all become CLOSED, and their entries are counted. -/
def closeQueues (x : Cell) : Cell :=
  let n := x.queues.foldl (fun n q => n + q.2.entries.length + q.2.ready.length) 0
  { x with
    queues := x.queues.foldl (fun m q => NMap.set {} m q.1 { q.2.restart with st := .closed, clamped := false, clampDead := false }) x.queues
    waiters := [], win := { x.win with queueDropped := satAdd 32 x.win.queueDropped n } }
/-- A cell as the slot of a clause leaves ACTIVE. -/
def closeCell (cl : Clause) (c : LCell) (d : Dev) : Dev :=
  let x := cellAt d c
  if (slotOf x cl.slot).st == .active && (slotOf x cl.slot).clause == cl.id then
    updCell c (fun x =>
      let x := closeQueues x
      let x := updSlot cl.slot (fun s => { s with st := .resident, saved := if kindAt c.row c.col == .conj then some x.conj.dmem else none }) x
      { x with noun := { x.noun with merge := [] }
               win := { x.win with mboxDiscarded := satAdd 32 x.win.mboxDiscarded x.conj.mbox.length }
               stopped := false
               conj := { x.conj with st := .off, mbox := [], stall := none } }) d
  else d
/-- A clause leaves ACTIVE in every cell of its region. -/
def closeOut (cl : Clause) (d : Dev) : Dev :=
  cl.cells.foldl (fun d c => closeCell cl c d) (updClause cl.id (fun c => { c with gone := [] }) d)

/-! ### Quiescent and ready (R54, R57, R480, R491) -/

/-- A clause under partial reload: clamped and not yet restarted (R57, R425). -/
def underReload (d : Dev) (id : Nat) : Bool := d.config.reloads.any fun r => r.clause == id && r.stage != .queued
/-- Whether the engines, buffers, signal operations and queues of a cell of an outgoing clause have come to rest (R54, R186). -/
def cellQuiet (d : Dev) (c : LCell) : Bool :=
  let x := cellAt d c
  (kindAt c.row c.col != .conj || (x.conj.st == .ended && x.conj.launch.isNone && x.conj.mreqs.isEmpty && x.conj.sigs.isEmpty)) &&
  x.pend.isEmpty && x.pendS.isEmpty && x.waitL.isEmpty && x.mats.isEmpty && x.stage.isNone && x.vecs.isEmpty && x.smm.isNone &&
  !stalled d c && x.queues.all fun q => q.2.st == .closed || (q.2.entries.isEmpty && q.2.ready.isEmpty)
/-- Whether no mover request of a clause waits or runs: each has completed (R54, R326); one that is refused leaves its mover once
nothing that it sent is awaited. -/
def moversQuiet (d : Dev) (id : Nat) : Bool :=
  (d.movers.queue.all fun q => q.2.all fun r => r.clause != id) &&
  d.movers.run.all fun r => match r.2 with
    | some r => r.req.clause != id || r.done
    | none => true
/-- A switch that has begun brings the clause in, and it is not yet ACTIVE with its cores begun (R55, R60). -/
def comingIn (d : Dev) (id : Nat) : Bool := d.plan.switches.any fun w => w.stage != .late && w.ins.contains id
/-- An outgoing clause is quiescent (R54); a clause that is not ACTIVE has nothing to wait for, but one that a switch is bringing
in is not quiescent (R60). -/
def quiescent (d : Dev) (id : Nat) : Bool :=
  match clauseOf d id with
  | none => true
  | some cl => !underReload d id && !comingIn d id && (!clauseActive d cl || (!cl.held && cl.cells.all (cellQuiet d) && moversQuiet d id))
/-- A self-test slice is in progress on a cell (R491). -/
def underTest (d : Dev) (p : Nat) : Bool :=
  match (d.health.jigs.getD (physFrame p) {}).running with
  | some s => if s.kind == 0 then s.unit_ == p % 1152 else s.unit_ == physRow p / 4 * 9 + physCol p / 4
  | none => false
/-- An incoming clause is ready: its slot is RESIDENT in every cell, none of them under test (R54, R491). -/
def clauseReady (d : Dev) (id : Nat) : Bool :=
  match clauseOf d id with
  | none => false
  | some cl => !underReload d id && cl.cells.all fun c => (slotOf (cellAt d c) cl.slot).st == .resident && (slotOf (cellAt d c) cl.slot).clause == id && !underTest d (phys d c)

/-- The first clause that holds a switch back, in the order OUT_ID, OUT_ID2, IN_ID, IN_ID2 (R57). -/
def holdsBack (d : Dev) (s : Switch) : Option Nat :=
  match s.outs.find? fun i => !quiescent d i with
  | some i => some i
  | none => s.ins.find? fun i => !clauseReady d i

end Sys2Proof.Machine
end

