-- ==== Sys2Proof/Machine/Jig.lean ====
section
/-! DEFINITION. The start of self-test slices (R486-R489, R497): units, the clause map, eligibility and deferral. -/
namespace Sys2Proof.Machine

/-- Beats that a slice reserves (R487): its duration in beats, rounded up, plus 1. -/
def sliceBeats (d : Dev) (kind : Nat) : Nat := ((if kind = 0 then 180000 else 2100000) + d.beat.period - 1) / d.beat.period + 1
/-- The physical cells of a unit of frame `f` (R486). -/
def unitCells (f kind unit_ : Nat) : List Nat :=
  if kind = 0 then [f * 1152 + unit_]
  else (List.range 16).map fun i => physIx f (unit_ / 9 * 4 + i / 4) (unit_ % 9 * 4 + i % 4)
/-- Units of a kind. -/
def unitCount (kind : Nat) : Nat := if kind = 0 then 1152 else 72
/-- A unit is retired (R486). -/
def unitRetired (m : List Nat) (f kind unit_ : Nat) : Bool :=
  if kind = 0 then
    benchRetired m (benchOfPhys (f * 1152 + unit_)) || m.any fun e => bits e 63 60 == 2 && bits e 55 48 == f && bits e 31 0 == unit_
  else benchRetired m (f, unit_ / 9, unit_ % 9)

/-! ### The clause map (R487) -/

/-- The clauses that a step names. -/
def stepClauses (s : Step) : List Nat := (if s.kind = 0 then [s.inId] else [s.outId, s.inId, s.outId2, s.inId2]).filter fun i => i != 0
/-- The clauses that the steps of a sentence started at `s0` name on beats from `a` to `b`. -/
def sentenceNames (q : Sentence) (s0 a b : Nat) : List Nat :=
  if q.p = 0 then []
  else (q.steps.filter fun st =>
      -- some repetition n has a ≤ s0 + n * P + OFFSET ≤ b
      let base := s0 + st.offset
      let n := if a ≤ base then 0 else (a - base + q.p - 1) / q.p
      decide (base + n * q.p ≤ b) && (q.repeats == 0 || decide (n < q.repeats))).flatMap stepClauses
/-- The beats from `a` to `b` on which an entry acts: the first of them, where there is one. -/
def entryBeat (e : SchedEntry) (a b : Nat) : Option Nat :=
  if !e.valid then none
  else
    let n := if e.beat < a then (if e.period = 0 then a + b + 1 else e.beat + (a - e.beat + e.period - 1) / e.period * e.period) else e.beat
    if n ≤ b then some n else none
/-- The clauses that the schedule and the sentences name on beats from `a` to `b`. -/
def clausesNamed (d : Dev) (a b : Nat) : List Nat :=
  (d.plan.sentences.filter fun q => q.running && !q.held).flatMap (fun q => sentenceNames q q.start a b) ++
  d.plan.sched.flatMap fun ne => match entryBeat ne.2 a b with
    | none => []
    | some n =>
      if ne.2.action = 1 then [bits ne.2.arg0 15 0, bits ne.2.arg0 31 16, bits ne.2.arg0 47 32, bits ne.2.arg0 63 48]
      else if ne.2.action = 3 ∧ bit ne.2.arg0 16 = false then
        match d.plan.sentences.find? fun q => q.id == bits ne.2.arg0 15 0 with
        | some q => sentenceNames q n a b
        | none => []
      else []
/-- A clause occupies a physical cell, one whose logical bench has become unavailable among them. -/
def clauseOn (d : Dev) (cl : Clause) (p : Nat) : Bool := cl.cells.any fun c => phys d c == p

/-- The first commit beat at or after beat `b` (R357). -/
def commitBeat (d : Dev) (b : Nat) : Nat :=
  let n : Int := max 1 d.epoch.beats
  let z : Int := (b : Int) - d.epoch.origin
  (d.epoch.origin + (if z ≤ n then n else (z + n - 1) / n * n)).toNat
/-- The commit windows meet the beats from `a` to `b` (R497). -/
def windowMeets (d : Dev) (a b : Nat) : Bool := d.epoch.enable && decide (commitBeat d a ≤ b + d.epoch.window)

/-- Whether a unit may be tested from the beat at hand on (R487, R497). -/
def unitEligible (m : List Nat) (d : Dev) (f kind unit_ : Nat) : Bool :=
  let ps := unitCells f kind unit_
  let a := d.beat.count
  let b := a + sliceBeats d kind - 1
  let named := clausesNamed d a b
  let busy (cl : Clause) : Bool :=
    cl.filling || underReload d cl.id || named.contains cl.id || clauseActive d cl ||
    d.plan.switches.any fun s => s.outs.contains cl.id || s.ins.contains cl.id
  (ps.all fun p => (cellP d p).fence != .byCommand && !underTest d p) &&
  (d.plan.clauses.all fun cl => !(ps.any fun p => clauseOn d cl p) || !busy cl) &&
  (kind == 0 || (!windowMeets d a b &&
    (let pb : PBench := (f, unit_ / 9, unit_ % 9)
     routesOk (detourTable (retiredBenches m true ++ slicingBenches d ++ [pb])) ((benchesInUse d.mesh.remap).filter fun x => x != pb && !(slicingBenches d).contains x))))

/-- The unit that a request names: the number itself, or the first eligible unit in rotation (R486). -/
def unitFor (m : List Nat) (d : Dev) (f kind unit_ : Nat) : Option Nat :=
  if unit_ ≠ 0xFFFF then (if unit_ < unitCount kind && unitEligible m d f kind unit_ then some unit_ else none)
  else
    let j := d.health.jigs.getD f {}
    let p := if kind = 0 then j.rotCell else j.rotBench
    ((List.range (unitCount kind)).map fun i => (p + i) % unitCount kind).find? fun u => !unitRetired m f kind u && unitEligible m d f kind u

/-- Changes a Jig. -/
def updJig (f : Nat) (g : Jig → Jig) (d : Dev) : Dev := { d with health := { d.health with jigs := mapAt f g d.health.jigs } }
/-- JIG_RESULT (R473). -/
def jigResult (kind result unit_ dur c1 c2 beat : Nat) : List Byte :=
  beBytes 1 kind ++ beBytes 1 result ++ beBytes 2 unit_ ++ beBytes 4 dur ++ beBytes 2 c1 ++ beBytes 2 c2 ++ beBytes 8 beat ++ [0, 0, 0, 0]

/-- A slice that may not start is deferred and counted; an operation that asked for it ends (R487, R496). -/
def deferSlice (f kind unit_ : Nat) (op : Option Nat) (d : Dev) : Dev :=
  opEnd? op 3 0 (updJig f (fun j => { j with deferred := satAdd 32 j.deferred 1, result := jigResult kind 2 unit_ 0 0 0 d.beat.count }) d)
/-- A fence of a cell; that of a retired cell stays (R88). -/
def fenceAs (f : Fence) (x : Cell) : Cell := if x.fence == .retired then x else { x with fence := f }
/-- A cell becomes fenced: a launch that waits at its sender for a place there is answered as one to a fenced cell (R88, R234). -/
def fenceCell (f : Fence) (p : Nat) (d : Dev) : Dev :=
  let ls := (cellP d p).waitL
  let d := updP p (fun x => { fenceAs f x with waitL := [] }) d
  match logicalOf d p with
  | some c => ls.foldl (fun d l => launchFenced c l d) d
  | none => d
/-! ### The save area of a bench slice (R313, R489) -/

/-- The eight Noun cells of a bench, in ascending order. -/
def benchNouns (f unit_ : Nat) : List Nat := (unitCells f 1 unit_).filter fun p => physKind p == .noun
/-- The frame's save area: its base, and its length, 0 where none is reserved. -/
def saveArea (d : Dev) (f : Nat) : Nat × Nat := d.tiers.reserved.getD (3 - f) (0, 0)
/-- Where the save area holds byte `la` of the bench's `i`-th Noun cell: the cells' 2 MiB follow one another (DESIGN CHOICE,
notes/assumptions/92). -/
def saveAddr (d : Dev) (f i la : Nat) : Nat := (saveArea d f).1 + nounBytes * i + la
/-- The memory address behind a key of `Tiers.mem`. -/
def keyAddr (d : Dev) (k : Nat) : Nat := pageAddr d (k / 2 ^ 37) (k % 2 ^ 37 / 4096) + k % 4096
/-- A key of memory lies in the save area of a frame. -/
def inSave (d : Dev) (f k : Nat) : Bool :=
  let a := keyAddr d k
  decide ((saveArea d f).1 ≤ a) && decide (a < (saveArea d f).1 + (saveArea d f).2)
/-- The save: the banks of the bench's Noun cells are written whole, a line per cycle, to the frame's save area, at rank 3 (R333,
R489). -/
def saveBench (f unit_ : Nat) (d : Dev) : Dev :=
  if (saveArea d f).2 = 0 then d
  else
    let d := { d with tiers := { d.tiers with mem := d.tiers.mem.filter (fun e => !inSave d f e.1), poison := d.tiers.poison.filter fun k => !inSave d f k } }
    (benchNouns f unit_).zipIdx.foldl (fun d p => (cellP d p.1).noun.mem.foldl (fun d e => putMem (saveAddr d f p.2 e.1) [e.2] d) d) d
/-- The saved contents are written back into the banks (R489). -/
def restoreBench (f unit_ : Nat) (d : Dev) : Dev :=
  if (saveArea d f).2 = 0 then d
  else
    let saved := (d.tiers.mem.filter fun e => inSave d f e.1).map fun e => (keyAddr d e.1 - (saveArea d f).1, e.2)
    (benchNouns f unit_).zipIdx.foldl (fun d p =>
      let m := (saved.filter fun e => e.1 / nounBytes == p.2).foldl (fun (m : Mem) e => m.wr (e.1 % nounBytes) e.2) []
      updP p.1 (fun x => { x with noun := { x.noun with mem := m } }) d) d

/-! ### Starting a slice -/

/-- A slice starts: its cells are fenced, and for a bench the tables change and the banks are saved (R488-R490, R90). -/
def beginSlice (m : List Nat) (f kind unit_ : Nat) (op : Option Nat) (d : Dev) : Dev :=
  let d := updJig f (fun j => { j with running := some { kind := kind, unit_ := unit_, beat := d.beat.count, r := sliceBeats d kind, op := op } }) d
  let d := (unitCells f kind unit_).foldl (fun d p => fenceCell .byJig p d) d
  if kind = 0 then d else saveBench f unit_ (askTables m noShims d)
/-- A slice is asked for: it starts, or it is deferred (R486, R487). -/
def askSlice (m : List Nat) (f kind unit_ : Nat) (op : Option Nat) (d : Dev) : Dev :=
  if (d.health.jigs.getD f {}).running.isSome then deferSlice f kind unit_ op d
  else match unitFor m d f kind unit_ with
    | some u => beginSlice m f kind u op d
    | none => deferSlice f kind unit_ op d

/-- A SELFTEST entry of this beat for frame `f` that has not acted: it goes before JIG_RUN (R497). -/
def slicesDue (d : Dev) (f : Nat) : Bool :=
  d.ctl.state == .running && d.plan.sched.any fun ne => ne.2.valid && ne.2.action == 7 && ne.2.beat == d.beat.count && bit (bits ne.2.arg0 35 32) f
/-- At a beat edge each free Jig starts its oldest JIG_RUN, unless the device is HELD (R496, R497). -/
def runJigQueues (m : List Nat) (d : Dev) : Dev :=
  if d.ctl.state == .held then d
  else (List.range 4).foldl (fun d f =>
    let j := d.health.jigs.getD f {}
    match j.queue with
    | [] => d
    | (kind, unit_, op) :: rest =>
      if j.running.isSome || slicesDue d f then d
      else askSlice m f kind unit_ (some op) (updOp op (fun o => { o with state := 1, started := true }) (updJig f (fun j => { j with queue := rest }) d))) d

end Sys2Proof.Machine
end

