-- ==== Sys2Proof/Machine/Movers.lean ====
section
/-! DEFINITION. Movers (R318-R333): the start of a request and its checks, memory lines, copy-before-write, replies, and
completion. -/
namespace Sys2Proof.Machine

/-! ### The checks of R324 -/

/-- Scans `[a, e)` over permitted areas, each given by the first address after it, for the first address that is not
permitted. -/
def scanRun (ok : Nat → Option Nat) : Nat → Nat → Nat → Option Nat
  | 0, _, _ => none
  | n + 1, a, e => if e ≤ a then none else match ok a with
    | none => some a
    | some b => scanRun ok n b e
/-- The first run from number `i` on that leaves what is permitted. -/
def scanRuns (ok : Nat → Option Nat) (start : Nat → Nat) (len : Nat) : Nat → Nat → Option Nat
  | 0, _ => none
  | n + 1, i => match scanRun ok 8192 (start i) (start i + len) with
    | some a => some a
    | none => scanRuns ok start len n (i + 1)

/-- The end of the part of the allocation `[b, b + n)` that holds `a` and no COPY1 range (R63, R354). -/
def allocEnd (cl : Clause) (b n a : Nat) : Option Nat :=
  if b ≤ a ∧ a < b + n ∧ (cl.copy1Of a).isNone then
    some (cl.durable.foldl (fun e u => if a < u.copy1 ∧ u.copy1 < e then u.copy1 else e) (b + n))
  else none
/-- The end of the permitted area that holds an address which a mover of the clause may reach (R63, R258, R292, R312,
R354): a remote address is checked on its device. -/
def reachEnd (ord : Nat) (cl : Clause) (a : Nat) : Option Nat :=
  match placeOf ord a with
  | .hbm => allocEnd cl cl.hbmBase cl.hbmBytes a
  | .lp => allocEnd cl cl.lpBase cl.lpBytes a
  | .window => if cl.has (windowCell a).1 then some ((a / nounBytes + 1) * nounBytes) else none
  | .remote => match remoteTarget a with
    | some t => if placeOf 0 t == .signal then none else some ((a / 2 ^ 32 + 1) * 2 ^ 32)
    | none => none
  | _ => none

/-- The start of run `i` in copy order of the view with base `b` and strides at offsets `s1`, `s2` (R323). -/
def runStart (r : List Byte) (b s1 s2 i : Nat) : Int :=
  (b : Int) + (i / vmExt r 1 : Nat) * fldS r s2 8 + (i % vmExt r 1 : Nat) * fldS r s1 8
/-- The descriptor extent rule on one view of a MOVE: operand, base, buffer, strides (R483-R485). -/
def moveView (ord : Nat) (cl : Clause) (r : List Byte) (opnd b buf s1 s2 : Nat) : Check :=
  let v := viewBounds (8 * (b : Int)) 8 [(vmExt r 0, 8), (vmExt r 1, 8 * fldS r s1 8), (vmExt r 2, 8 * fldS r s2 8)]
  match extentCheck opnd v.1 v.2 b buf (2 ^ 65) with
  | some f => some f
  | none =>
    let whole := match reachEnd ord cl v.1.toNat with
      | some e => decide (v.2 < (e : Int))
      | none => false
    if whole then none
    else (scanRuns (reachEnd ord cl) (fun i => (runStart r b s1 s2 i).toNat) (vmExt r 0) (vmExt r 1 * vmExt r 2) 0).map
      fun a => (0x0601, opnd * 256 + 3, a % 2 ^ 32)

/-- MOVER_FORM at a field. -/
def moverForm (off val : Nat) : Nat × Nat × Nat := (0x0602, off, val % 2 ^ 32)
/-- Applies the declarations of a MOVE to its addresses (R322). -/
def moveParams (raw : List Byte) (p0 p1 : W64) : List Byte :=
  (List.range (fld raw 6 1)).foldl (fun r i =>
    let dc := paramDecl raw i
    if bits dc 63 56 = 0x20 then
      let add (v : Nat) : Nat := wrapN 64 ((v : Int) + (if bit dc 55 then p1 else p0).toNat * sgn 32 (bits dc 31 0))
      let r := if vmFlag raw 0 then setFld r 0x28 8 (add (vmSrc r)) else r
      if vmFlag raw 1 then setFld r 0x30 8 (add (vmDst r)) else r
    else r) raw
/-- A MOVE that performs one remote raise (R327). -/
def moveRaise (r : List Byte) : Bool :=
  !vmQdst r && placeOf 0 (vmDst r) == .remote && (remoteTarget (vmDst r)).any fun t => placeOf 0 t == .signal
/-- An empty MOVE (R326). -/
def moveEmpty (r : List Byte) : Bool := (List.range 3).any fun i => vmExt r i == 0
/-- A name word outside the region (R324 step 1). -/
def moveName (cl : Clause) (n : Nat) : Check :=
  let w := BitVec.ofNat 64 n
  failIf (!nameOk cl w) (0x0105, relCode (nameRow w) (nameCol w), 0)
/-- The checks of R324: the record with parameters applied, and the first failure. -/
def moveChecks (ord : Nat) (cl : Clause) (raw : List Byte) (p0 p1 : W64) : List Byte × Check :=
  let r := withSignal (moveParams raw p0 p1) p0 p1
  let n := fld raw 6 1
  (r, firstFail [
    failIf (fld raw 0 2 != 0x20) (moverForm 0 (fld raw 0 2)),
    failIf (fld raw 2 2 != 0x80) (moverForm 2 (fld raw 2 2)),
    failIf (fld raw 0x6E 2 == 0) (moverForm 0x6E 0),
    failIf (decide (4 < n)) (moverForm 6 n),
    firstFail ((List.range n).map fun i =>
      let k := bits (paramDecl raw i) 63 56
      failIf (!(k == 2 || (k == 0x20 && (vmFlag raw 0 || vmFlag raw 1)))) (moverForm (8 + 8 * i) (paramDecl raw i))),
    failIf (vmQdst raw && decide (vmExt raw 0 * vmExt raw 1 * vmExt raw 2 % 64 ≠ 0)) (moverForm 0x38 (vmExt raw 0)),
    (if moveRaise r then firstFail ((List.range 3).map fun i => failIf (vmExt r i != 1) (moverForm (0x38 + 4 * i) (vmExt r i))) else none),
    (if vmQdst r then moveName cl (vmDst r) else none),
    (if vmFlag r 4 then moveName cl (fld r 0x78 4) else none),
    signalCheck cl.signals (signalUsed raw p0 p1),
    if moveEmpty r || moveRaise r then none
    else firstFail [
      moveView ord cl r 0 (vmSrc r) (fld r 0x44 4) 0x48 0x50,
      (if vmQdst r then none else moveView ord cl r 1 (vmDst r) (fld r 0x68 4) 0x58 0x60)]])

/-! ### The plan of a request (R323) -/

/-- The lines of `[a, a + n)`, ascending. -/
def linesFrom (a n : Nat) : List Nat := if n = 0 then [] else (List.range ((a + n - 1) / 64 - a / 64 + 1)).map fun i => (a / 64 + i) * 64
/-- The source lines in copy order, each once. -/
def moveReads (r : List Byte) : List Nat :=
  let all := (List.range (vmExt r 1 * vmExt r 2)).flatMap fun i => linesFrom (runStart r (vmSrc r) 0x48 0x50 i).toNat (vmExt r 0)
  (all.foldl (fun (p : NMap Bool × List Nat) a => if NMap.get false p.1 a then p else (NMap.insert p.1 a true, a :: p.2)) ([], [])).2.reverse
/-- The writes in copy order: lines with their enabled bytes, or messages. -/
def moveWrites (r : List Byte) : List MWrite :=
  let e0 := vmExt r 0
  if vmQdst r then (List.range (e0 * vmExt r 1 * vmExt r 2 / 64)).map fun i => { addr := i, lo := 0, n := 64, t := 64 * i }
  else (List.range (vmExt r 1 * vmExt r 2)).flatMap fun i =>
    let a := (runStart r (vmDst r) 0x58 0x60 i).toNat
    (linesFrom a e0).map fun l =>
      let lo := if l < a then a - l else 0
      let hi := if a + e0 < l + 64 then a + e0 - l else 64
      { addr := l, lo := lo, n := hi - lo, t := i * e0 + (l + lo - a) }

/-- The first durable region that the destination of a MOVE reaches, with the first address in it (R358). -/
def moveDurable (cl : Clause) (r : List Byte) : Option (Durable × Nat) :=
  if vmQdst r || moveEmpty r then none
  else
    let hits := (List.range (vmExt r 1 * vmExt r 2)).findSome? fun i =>
      let a := (runStart r (vmDst r) 0x58 0x60 i).toNat
      cl.durable.findSome? fun u => if a < u.copy0 + u.len ∧ u.copy0 < a + vmExt r 0 then some (u, max a u.copy0) else none
    hits

/-- The I/O die whose movers serve a MOVE with a remote address (R320, R367). -/
def moveDie (r : List Byte) : Option Nat :=
  let die (a : Nat) : Nat := if remotePort a < 3 then 0 else 1
  if !vmQdst r && placeOf 0 (vmDst r) == .remote then some (die (vmDst r))
  else if placeOf 0 (vmSrc r) == .remote && !moveRaise r then some (die (vmSrc r))
  else none
/-- The lowest-numbered idle mover that a request may start on (R320). -/
def idleMover (d : Dev) (f : Nat) (die : Option Nat) : Option MoverId :=
  let ids := match die with
    | none => (List.range 16).map fun m => MoverId.frame f m
    | some i => (List.range 8).map fun m => MoverId.io i m
  ids.find? (moverIdle d)

/-! ### Start (R320, R324, R358) -/

/-- The mover descriptor that a request names in its slot: offset and 128 bytes (R321). -/
def reqDesc (d : Dev) (q : MReq) : Option (Nat × List Byte) := descAt (slotOf (cellAt d q.cell) q.slot).data.secC q.idx 128
/-- Whether the window keeps a request from starting: its destination lies in a durable region (R358). -/
def heldByWindow (ord : Nat) (d : Dev) (q : MReq) : Option (Durable × Nat × Nat) :=
  match clauseOf d q.clause, reqDesc d q with
  | some cl, some (off, raw) =>
    let ch := moveChecks ord cl raw q.p0 q.p1
    if windowOpen d && ch.2.isNone then (moveDurable cl ch.1).map fun h => (h.1, h.2, off) else none
  | _, _ => none

/-- The cells of a frame with a request that found the frame's queue full, in ascending source ID. -/
def queueRefill (f : Nat) (d : Dev) : Dev :=
  if (frameQueue d f).length < 64 then
    let cells := (List.range 32).flatMap fun r => (List.range 32).map fun k => ({ row := f / 2 * 32 + r, col := f % 2 * 32 + k } : LCell)
    match cells.find? fun c => !(cellAt d c).conj.mreqs.isEmpty with
    | none => d
    | some c => match (cellAt d c).conj.mreqs with
      | q :: _ => updConj c (fun k => { k with mreqs := k.mreqs.drop 1 }) { d with movers := { d.movers with queue := NMap.set [] d.movers.queue f (frameQueue d f ++ [q]) } }
      | [] => d
  else d

/-- Completion (R326, R331): the raise goes to the store, then the handle to its queue. -/
def moverFinish (id : MoverId) (d : Dev) : Dev :=
  match moverRun d (moverKey id) with
  | none => d
  | some r =>
    let src := moverSrc id
    let d := updRun (moverKey id) (fun r => { r with done := true }) d
    let d := match clauseOf d r.req.clause with
      | none => d
      | some cl =>
        let d := match signalPlace cl (fld r.raw 4 2) with
          | some (f, w) => sigIssue .add { src := src, frame := f, word := w, v := BitVec.ofNat 64 (fld r.raw 0x6E 2), clause := cl.id, off := r.off } .own d
          | none => d
        if vmFlag r.raw 4 then
          let n := BitVec.ofNat 64 (fld r.raw 0x78 4)
          sendMsg src { dst := nameCell cl n, q := nameQ n, strict := vmFlag r.raw 2, off := r.off
                        pay := padTo 64 (slice r.raw 0x7C 2 ++ leBytes 6 (vmDst r.raw) ++ leBytes 4 (vmExt r.raw 0 * vmExt r.raw 1 * vmExt r.raw 2) ++
                                 leBytes 1 r.req.p1.toNat ++ slice r.raw 0x7E 1 ++ [0, 0]) } d
        else d
    moverSettle (moverKey id) d

/-- Starts a request whose place is taken from the queue. -/
def moverBegin (ord : Nat) (q : MReq) (id : MoverId) (d : Dev) : Dev :=
  match clauseOf d q.clause with
  | none => d
  | some cl => match reqDesc d q with
    | none => recCell 0x0602 1 q.cell q.clause none 0xFFFF q.idx d
    | some (off, raw) =>
      let ch := moveChecks ord cl raw q.p0 q.p1
      match ch.2 with
      | some f => recCell f.1 1 q.cell q.clause (some off) f.2.1 f.2.2 d
      | none =>
        let r := ch.1
        let run : MoverRun := {
          req := q, off := off, raw := r
          reads := if moveEmpty r || moveRaise r then [] else moveReads r
          readsOut := []
          writes := if moveEmpty r then [] else if moveRaise r then [{ addr := vmDst r, lo := 0, n := 0, t := 0 }] else moveWrites r
          writesOut := []
          epoch := if d.epoch.enable && d.epoch.state == 0 then some (epochIndex d) else none
          durable := d.epoch.enable && (moveDurable cl r).isSome }
        let d := setRun (moverKey id) (some run) d
        if moveEmpty r then moverFinish id d else moverAdvance id d

/-- The die of a request, as its descriptor gives it. -/
def reqDie (d : Dev) (q : MReq) : Option Nat :=
  (reqDesc d q).bind fun p => moveDie (moveParams p.2 q.p0 q.p1)

/-- COMMIT_WINDOW_WRITE for the first request of an epoch that the window holds (R358). -/
def noteWindow (q : MReq) (h : Durable × Nat × Nat) (d : Dev) : Dev :=
  if d.epoch.winRec then d
  else recCell 0x0906 0 q.cell q.clause (some h.2.2) h.1.index h.2.1 { d with epoch := { d.epoch with winRec := true } }

/-- Goes through a queue for the first request that may start, marking those that the window holds (R320, R358). -/
def startFirst (ord f : Nat) : List MReq → List MReq → Dev → Dev
  | _, [], d => d
  | pre, q :: qs, d =>
    match heldByWindow ord d q with
    | some h => startFirst ord f (pre ++ [{ q with windowed := true }]) qs (noteWindow q h d)
    | none => match idleMover d f (reqDie d q) with
      | none => startFirst ord f (pre ++ [q]) qs d
      | some id =>
        queueRefill f (moverBegin ord q id { d with movers := { d.movers with queue := NMap.set [] d.movers.queue f (pre ++ qs) } })

/-- MOVER_REQUEST_START (R320). -/
def execMoverRequestStart (f : Nat) (s : State) : Out :=
  onDevO (fun o d => if moversRun d then startFirst o.ordering f [] (frameQueue d f) d else d) s

/-! ### Memory lines (R314, R319, R354-R356) -/

/-- The loaded clause whose allocation holds an address; 0 where none does. -/
def ownerOf (d : Dev) (a : Nat) : Nat := ((d.plan.clauses.find? fun c => c.owns a).map fun c => c.id).getD 0
/-- MEMORY_UPSET at the line `pa` (R317): against the request of the mover that asked, and for the host or another device against
the clause whose allocation holds the address. -/
def recUpset (q : MemReq) (pa : Nat) (d : Dev) : Dev :=
  let dev := devNumber (memDevice d pa)
  match (srcMover q.src).filter fun id => decide (q.tag < 128) && (moverRun d (moverKey id)).isSome with
  | some id => recMover (moverKey id) 0x0603 pa dev d
  | none => recPlain 0x0603 1 (ownerOf d q.addr) pa dev d
/-- Where an access goes now: the copy in force, or the committed one (R354, R365). -/
def reqPlace (q : MemReq) (d : Dev) : Nat :=
  if q.wr.isSome then writePlace d q.addr else if q.com then committedPlace d q.addr else readPlace d q.addr
/-- The controller answers an access: the mover that asked gets its reply. -/
def memAnswer (q : MemReq) (line : Option (List Byte)) (d : Dev) : Dev :=
  match srcMover q.src with
  | some id => memSend id (memAgent d id (reqPlace q d)) q.src [match line, q.wr with
      | none, _ => .memRefused q.tag
      | some _, some _ => .memAck q.tag
      | some l, none => .memData q.tag l] d
  | none => d
/-- The controller performs an access where the ledger lets it go: it waits while its page is copied (R314, R317, R319). -/
def memPerform (q : MemReq) (e : Ecc) (o : Otp) (d : Dev) : Otp × Dev :=
  let pa := reqPlace q d
  if pageCopying d pa then (o, { d with tiers := { d.tiers with waiting := d.tiers.waiting ++ [{ q with ecc := e }] } })
  else match q.wr with
    | none => let r := readMem (recUpset q pa) pa e o d; (r.1, memAnswer q r.2.2 r.2.1)
    | some (line, en) => let r := writeMem (recUpset q pa) pa line en e o d; (r.1, memAnswer q (if r.2.2 then some [] else none) r.2.1)

/-- Whether one run of a MOVE writes the whole granule that begins at `a` (R356). -/
def runCovers (r : List Byte) (a : Nat) : Bool :=
  decide (Config.granuleBytes ≤ vmExt r 0) && !vmQdst r && (List.range (vmExt r 1 * vmExt r 2)).any fun i =>
    let s := (runStart r (vmDst r) 0x58 0x60 i).toNat
    decide (s ≤ a) && decide (a + Config.granuleBytes ≤ s + vmExt r 0)

/-- Removes a granule's entry and performs the writes that waited for it. -/
def cowRelease (g : Nat) (o : Otp) (d : Dev) : Otp × Dev :=
  match d.epoch.cows.find? fun c => c.granule == g with
  | none => (o, d)
  | some c =>
    let d := { d with epoch := { d.epoch with cows := eraseFirst (fun c => c.granule == g) d.epoch.cows } }
    c.waiting.foldl (fun (p : Otp × Dev) w => memPerform w w.ecc p.1 p.2) (o, d)

/-- A line write meets the ledger (R354, R356): a granule not yet written in this epoch starts a copy, or the run that writes all
of it; other writes to the granule wait. -/
def ledgerWrite (q : MemReq) (en : W64) (e : Ecc) (o : Otp) (d : Dev) : Otp × Dev :=
  match (if d.epoch.enable then durableAt d q.addr else none) with
  | none => memPerform q e o d
  | some (_, u) =>
    let g := granuleAt u q.addr
    let k := if q.tag < 128 then ((srcMover q.src).map moverKey).getD 80 else 80
    let setCows (cs : List Cow) (d : Dev) : Dev := { d with epoch := { d.epoch with cows := cs } }
    let waits (d : Dev) : Dev := setCows (mapFirst (fun c => c.granule == g) (fun c => { c with waiting := c.waiting ++ [{ q with ecc := e }] }) d.epoch.cows) d
    let full := decide (en = BitVec.allOnes 64)
    match d.epoch.cows.find? fun c => c.granule == g with
    | some c =>
      match c.whole with
      | some (m, left) =>
        if m == k && full && left.contains q.addr then
          let left := eraseFirst (fun a => a == q.addr) left
          let (o, d) := memPerform q e o (setCows (mapFirst (fun c => c.granule == g) (fun c => { c with whole := some (m, left) }) d.epoch.cows) d)
          if left.isEmpty then cowRelease g o (markW g d) else (o, d)
        else (o, waits d)
      | none => (o, waits d)
    | none =>
      if ledgerW d g then memPerform q e o d
      else
        let a0 := u.copy0 + (g - u.g0) * Config.granuleBytes
        let whole := match (if q.tag < 128 then moverRun d k else none) with
          | some r => full && runCovers r.raw a0
          | none => false
        if whole then
          memPerform q e o (setCows (d.epoch.cows ++ [{ granule := g, whole := some (k, (linesFrom a0 Config.granuleBytes).filter fun a => a != q.addr), waiting := [] }]) d)
        else (o, setCows (d.epoch.cows ++ [{ granule := g, whole := none, waiting := [{ q with ecc := e }] }]) d)

/-- A granule whose whole run has stopped is copied after all for the writes that wait (notes/assumptions/28). -/
def cowOrphans (d : Dev) : Dev :=
  { d with epoch := { d.epoch with cows := d.epoch.cows.filterMap fun c => match c.whole with
    | some (k, _) =>
      let live := match moverRun d k with
        | some r => !r.stopped
        | none => false
      if live then some c else if c.waiting.isEmpty then none else some { c with whole := none }
    | none => some c } }

/-! ### Requests at the controllers (R318, R319, R332, R333) -/

/-- The flits of the message that begins with flit `f`: a write's line is the next flit of its sender to its receiver. -/
def messageOf (d : Dev) (f : Flit) : List Body :=
  match f.body with
  | .memWrite _ _ _ _ _ => ((d.mesh.flits.filter fun g => decide (g.src = f.src) && decide (g.dst = f.dst)).map fun g => g.body).take 2
  | b => [b]
/-- The first message on a mover's wires that `p` selects by its first flit; else the one that the first flit on the mesh that
`at_` and `p` select begins, where it has arrived: its flits, its receiver, and the device without it. -/
def takeMem (d : Dev) (id : MoverId) (at_ : Flit → Bool) (p : Body → Bool) : Option (List Body × Src × Dev) :=
  let own (w : MoverId × List Body) : Bool := decide (w.1 = id) && w.2.head?.any p
  match d.movers.wires.find? own with
  | some w => some (w.2, moverSrc id, { d with movers := { d.movers with wires := eraseFirst own d.movers.wires } })
  | none => match d.mesh.flits.find? fun f => at_ f && p f.body with
    | none => none
    | some f =>
      let bs := messageOf d f
      if arrived d f.src f.dst bs then some (bs, f.dst, landed d f.src f.dst bs) else none
/-- A read request with a tag. -/
def isMemRead (tag : Nat) : Body → Bool
  | .memRead t _ _ _ => t == tag
  | _ => false
/-- A write request with a tag. -/
def isMemWrite (tag : Nat) : Body → Bool
  | .memWrite t _ _ _ _ => t == tag
  | _ => false
/-- An earlier write of a mover to the same line stands on its wires: writes of one line are performed in the order of their
issue (R323). -/
def olderWrite (d : Dev) (id : MoverId) (tag a : Nat) : Bool :=
  match d.movers.wires.find? fun w => decide (w.1 = id) && w.2.head?.any fun b => match b with
    | .memWrite _ _ _ b _ => a == b
    | _ => false with
  | some w => !w.2.head?.any (isMemWrite tag)
  | none => false
/-- The arbiters grant a request that is not of rank 4 (R333); rank is that of the stream now (DEDUCED, notes/assumptions/69). An
access of a delivery, with a tag from 128 on, has rank 2. -/
def rankGoes (d : Dev) (id : MoverId) (tag : Nat) : Bool :=
  decide (128 ≤ tag) || (match moverRun d (moverKey id) with
    | some r => r.stopped || (memRank (.mover r)).1 != 4
    | none => true)
/-- A granted line counts for its stream (R333). -/
def countLine (id : MoverId) (tag : Nat) : Dev → Dev :=
  updRun (moverKey id) fun r => { r with granted := if tag < 128 then r.granted + 64 else r.granted }
/-- An access reads the committed copy: one of a segment of a durable read stream (R365). -/
def readsCommitted (d : Dev) (id : MoverId) (tag : Nat) : Bool :=
  decide (128 ≤ tag) && (delivOn d id).any fun x => match x.job with
    | .hostRead _ com _ => com
    | _ => false
/-- A lookup of the ledger for a durable address: a failure of one copy is corrected from the other; of both it is LEDGER_UPSET,
and the access is refused (R355). -/
def ledgerLookup (q : MemReq) (l : Ecc) (f : Dev → Otp × Dev) (o : Otp) (d : Dev) : Otp × Dev :=
  if l == .upset && (durableAt d q.addr).isSome then (o, memAnswer q none (recPlain 0x0907 2 0 0 0 d)) else f d

/-- MOVER_READ_LINE (R319), where the interface of the memory is on (R511). -/
def execMoverReadLine (id : MoverId) (tag : Nat) (e : Ecc) (s : State) (l : Ecc := .good) : Out :=
  onBoth (fun o d =>
    match (if rankGoes d id tag then takeMem d id (fun f => decide (f.src = moverSrc id)) (isMemRead tag) else none) with
    | some (.memRead _ _ _ a :: _, _, t) =>
      let q : MemReq := { src := moverSrc id, tag := tag, addr := a, wr := none, com := readsCommitted d id tag }
      if memOn d (reqPlace q d) then ledgerLookup q l (memPerform q e o) o (countLine id tag t) else (o, d)
    | _ => (o, d)) s

/-- MOVER_WRITE_LINE (R319). A line of a frame that an I/O die mover carries to the other die is taken there (R394). -/
def execMoverWriteLine (id : MoverId) (tag : Nat) (line : List Byte) (e l : Ecc) (s : State) : Out :=
  onBoth (fun o d =>
    match (if rankGoes d id tag then takeMem d id (fun f => decide (f.src = moverSrc id)) (isMemWrite tag) else none) with
    | some ([.memWrite _ _ _ a en, .memLine x], agent, t) =>
      if x ≠ line || olderWrite d id tag a then (o, d)
      else if 128 ≤ tag && (delivOn d id).any Deliv.passes then (o, memSend id agent (moverSrc id) [.memAck tag] t)
      else
        let q : MemReq := { src := moverSrc id, tag := tag, addr := a, wr := some (line, en) }
        if memOn d (reqPlace q d) then ledgerLookup q l (ledgerWrite q en e o) o (countLine id tag t) else (o, d)
    | _ => (o, d)) s

/-- COPY_BEFORE_WRITE_DONE (R356). -/
def execCopyBeforeWriteDone (granule : Nat) (s : State) : Out :=
  onBoth (fun o d => match d.epoch.cows.find? fun c => c.granule == granule with
    | some c => if c.whole.isNone then cowRelease granule o (copyBeforeWrite granule d) else (o, d)
    | none => (o, d)) s

/-- PAGE_SPARE_COPY_DONE (R317): the page is replaced and the accesses that waited for it proceed. -/
def execPageSpareCopyDone (lp : Bool) (dev page : Nat) (s : State) : Out :=
  onBoth (fun o d =>
    let k := if lp then 8 + dev else dev
    if d.tiers.copying.contains (k, page) then
      let d := { d with tiers := { d.tiers with copying := eraseFirst (fun p => decide (p = (k, page))) d.tiers.copying } }
      let (o, d) := replacePage k page o d
      let ws := d.tiers.waiting
      ws.foldl (fun (p : Otp × Dev) w => memPerform w w.ecc p.1 p.2) (o, { d with tiers := { d.tiers with waiting := [] } })
    else (o, d)) s

/-! ### Replies (R319, R271) -/

/-- A line of a host's stream is in memory: its bytes are held and count as progress (R441, R442, R450). -/
def hostHeld (h a : Nat) (en : W64) (d : Dev) : Dev :=
  let hold (t : Stream) : Stream :=
    { t with got := (List.range 64).foldl (fun g i => if en.toNat.testBit i then NMap.insert g (a + i - t.addr) (some 0) else g) t.got }
  match streamBy d h with
  | none => d
  | some t => updOp t.op (fun p => { p with progress := min 0xFFFFFFFF (hold t).got.length })
    { d with beluf := { d.beluf with streams := mapFirst (fun u => decide (u = t)) hold d.beluf.streams } }
/-- Lines of a read stream's next frame have been read, or one was refused (R365, R441). -/
def hostLines (h : Nat) (got : NMap (Option (List Byte))) (refused : Bool) (d : Dev) : Dev :=
  match streamBy d h with
  | none => d
  | some t =>
    let take (t : Stream) : Stream := { t with lines := got.foldl (fun m e => NMap.insert m e.1 e.2) t.lines, lost := t.lost || refused }
    { d with beluf := { d.beluf with streams := mapFirst (fun u => decide (u = t)) take d.beluf.streams } }
/-- The line of a host's stream that an acknowledgement answers is held. -/
def delivHeld (x : Deliv) (p : Nat × Nat) (d : Dev) : Dev :=
  match x.job with
  | .hostWrite h ls => match ls[p.1 - delivTag 0]? with
    | some l => hostHeld h p.2 l.2.2 d
    | none => d
  | _ => d
/-- A delivery whose accesses have all been answered ends: the answer returns on the frame's route, or the frame goes on out of
the other die's port (R387, R394), or the lines are those of a host's stream. -/
def delivEnd (x : Deliv) (d : Dev) : Dev :=
  let d := { d with ports := { d.ports with deliv := eraseFirst (fun y => y.die == x.die && decide (y.mover = x.mover)) d.ports.deliv } }
  let r := if x.refused then 1 else 0
  delivStart x.die 8 (match x.job with
    | .write _ _ => sendAnswer 5 r x.h [] d
    | .read _ as => sendAnswer 4 r x.h (if x.refused then [] else as.flatMap fun a => (NMap.get none x.got (a / 64)).getD (List.replicate 64 0)) d
    | .raise _ => sendAnswer 5 r x.h [] d
    | .pass e f => fabSend e f d
    | .hostWrite _ _ => d
    | .hostRead h _ _ => hostLines h x.got x.refused d)
/-- An access of a delivery is answered: with a line read, an acknowledgement, or a refusal. -/
def delivTake (id : MoverId) (sel : Nat × Nat → Bool) (line : Option (List Byte)) (refused : Bool) (d : Dev) : Dev :=
  match delivOn d id with
  | none => d
  | some x => match x.out.find? sel with
    | none => d
    | some p =>
      let y := { x with out := eraseFirst sel x.out, refused := x.refused || refused
                        got := match line with
                          | some l => NMap.insert x.got (p.2 / 64) (some (padTo 64 (l.take 64)))
                          | none => x.got }
      let d := { d with ports := { d.ports with deliv := mapFirst (fun z => decide (z = x)) (fun _ => y) d.ports.deliv } }
      let d := if refused || line.isSome then d else delivHeld x p d
      if y.out.isEmpty then delivEnd y d else d

/-- A line of a mover's source arrives: for its request, or for the delivery that it performs. -/
def moverTake (id : MoverId) (sel : Nat × Nat → Bool) (line : List Byte) (d : Dev) : Dev :=
  match (moverRun d (moverKey id)).filter fun r => r.readsOut.any sel with
  | none => delivTake id sel (some line) false d
  | some r => match r.readsOut.find? sel with
    | some p =>
      moverAdvance id (setRun (moverKey id) (some { r with readsOut := eraseFirst sel r.readsOut, buf := NMap.insert r.buf (p.2 / 64) (some (padTo 64 (line.take 64))) }) d)
    | none => d
/-- A write of a mover is acknowledged. -/
def moverAcked (id : MoverId) (sel : Nat × Nat → Bool) (d : Dev) : Dev :=
  match (moverRun d (moverKey id)).filter fun r => r.writesOut.any sel with
  | none => delivTake id sel none false d
  | some _ => moverAdvance id (updRun (moverKey id) (fun r => { r with writesOut := eraseFirst sel r.writesOut }) d)
/-- An access of a mover is refused: its request stops (R249, R319). -/
def moverRefuse (id : MoverId) (sel : Nat × Nat → Bool) (write : Bool) (d : Dev) : Dev :=
  match (moverRun d (moverKey id)).filter fun r => (if write then r.writesOut else r.readsOut).any sel with
  | none => delivTake id sel none true d
  | some _ => cowOrphans (moverStop (moverKey id) (updRun (moverKey id) (fun r =>
      if write then { r with writesOut := eraseFirst sel r.writesOut } else { r with readsOut := eraseFirst sel r.readsOut }) d))

/-- A reply with a tag reaches a mover, over its wires or the mesh. -/
def moverReply (id : MoverId) (p : Body → Bool) (f : Body → Dev → Dev) (d : Dev) : Dev :=
  match takeMem d id (fun g => decide (g.dst = moverSrc id)) p with
  | some (b :: _, _, d) => f b d
  | _ => d
/-- An access by its tag. -/
def byTag (tag : Nat) (p : Nat × Nat) : Bool := p.1 == tag
/-- An access by its address. -/
def byAddr (a : Nat) (p : Nat × Nat) : Bool := p.2 == a
/-- MOVER_READ_DATA (R319). -/
def execMoverReadData (id : MoverId) (tag : Nat) (line : List Byte) (s : State) : Out :=
  onDev (moverReply id (fun b => decide (b = .memData tag line)) fun _ => moverTake id (byTag tag) line) s
/-- MOVER_WRITE_ACK (R319). -/
def execMoverWriteAck (id : MoverId) (tag : Nat) (s : State) : Out :=
  onDev (moverReply id (fun b => decide (b = .memAck tag)) fun _ => moverAcked id (byTag tag)) s
/-- MOVER_REFUSED (R319): a read or a write of the mover has this tag. -/
def execMoverRefused (id : MoverId) (tag : Nat) (s : State) : Out :=
  onDev (moverReply id (fun b => decide (b = .memRefused tag)) fun _ d =>
    moverRefuse id (byTag tag) ((moverRun d (moverKey id)).any fun r => r.writesOut.any (byTag tag)) d) s

/-- The window address of a byte of a Noun cell (R257). -/
def windowAddr (c : LCell) (byte : Nat) : Nat := Config.nounBase + c.row * 0x4000000 + c.col / 2 * 0x200000 + byte

/-- NOUN_READ_DATA (R271). -/
def execNounReadData (dst : Src) (frm : LCell) (p : Dir) (addr : Nat) (refused : Bool) (line : List Byte) (s : State) : Out :=
  onDev (arrive (.cell frm) dst [.nounData frm p addr refused line] fun d =>
    match dst with
    | .cell c => cellReadData c frm addr refused line d
    | _ => match srcMover dst with
      | some id => if refused then moverRefuse id (byAddr (windowAddr frm addr)) false d else moverTake id (byAddr (windowAddr frm addr)) line d
      | none => d) s
/-- NOUN_WRITE_ACK (R271). -/
def execNounWriteAck (dst : Src) (frm : LCell) (p : Dir) (addr : Nat) (refused : Bool) (s : State) : Out :=
  onDev (arrive (.cell frm) dst [.nounAck frm p addr refused] fun d =>
    match dst with
    | .cell c => cellWriteAck c frm addr refused d
    | _ => match srcMover dst with
      | some id => if refused then moverRefuse id (byAddr (windowAddr frm addr)) true d else moverAcked id (byAddr (windowAddr frm addr)) d
      | none => d) s

/-- Every durable write of a request that was started has been acknowledged; a stopped one issues no more (R359, R363). -/
def MoverRun.landed (r : MoverRun) : Bool := r.writes.isEmpty && r.writesOut.isEmpty && (r.stopped || (r.reads.isEmpty && r.readsOut.isEmpty))
/-- Every read and write of a request has been answered (R306). -/
def MoverRun.written (r : MoverRun) : Bool := r.reads.isEmpty && r.readsOut.isEmpty && r.writes.isEmpty && r.writesOut.isEmpty
/-- MOVER_COMPLETE (R306, R326, R328): every write has been acknowledged. -/
def execMoverComplete (id : MoverId) (s : State) : Out :=
  onDev (fun d => match moverRun d (moverKey id) with
    | some r => if r.written && r.quiet && moverGoes d r then moverFinish id d else d
    | none => d) s

end Sys2Proof.Machine
end

