-- ==== Sys2Proof/Machine/SignalStore.lean ====
section
/-! DEFINITION. The signal stores (R289-R310): operations, ceilings, monitors and upsets. -/
namespace Sys2Proof.Machine

/-- The condition of a WAIT (R298). -/
def condHolds (k : Cond) (value v : W64) : Bool :=
  match k with
  | .ge => v.ule value
  | .eq => decide (value = v)
  | .any => decide (value &&& v ≠ 0)

/-- A reply of store `f` (R300). -/
def storeReply (f : Nat) (dst : Src) (res : SigRes) (v : W64) (d : Dev) : Dev := sendFlit (.store f) dst (.sigReply f res v) d

/-- Evaluates every monitor of a word after a change: each whose condition holds is woken and removed (R304). -/
def wakeMonitors (f w : Nat) (d : Dev) : Dev :=
  let v := (sigWord d f w).value
  let hit (m : Monitor) : Bool := m.f == f && m.w == w && condHolds m.cond v m.v
  let woken := d.sig.monitors.filter hit
  woken.foldl (fun d m => storeReply f m.src .wake v d)
    { d with sig := { d.sig with monitors := d.sig.monitors.filter fun m => !hit m } }

/-- Whether the sender may operate on the word: it is allocated and owned by the sender's clause (R301). -/
def sigOwned (d : Dev) (r : SigReq) : Bool :=
  let w := sigWord d r.frame r.word
  w.alloc && w.owner == r.clause

/-- Counts a refusal at a word (R294). -/
def countRefused (f w : Nat) (d : Dev) : Dev := updSig f w (fun x => { x with refused := satAdd 32 x.refused 1 }) d

/-- An operation of a clause that does not own the word: ABSENT and a count (R301). -/
def sigAbsent (r : SigReq) (d : Dev) : Dev :=
  storeReply r.frame r.src .absent 0 (countRefused r.frame r.word d)

/-- The record of a refused raise (R303): once in each activation of the owner. -/
def ceilingRecord (r : SigReq) (v : W64) (d : Dev) : Dev :=
  let owner := (sigWord d r.frame r.word).owner
  match clauseOf d owner with
  | none => d
  | some cl =>
    if cl.ceilRec then d
    else
      let d := updClause owner (fun c => { c with ceilRec := true }) d
      let code := sigCode r.frame r.word
      match srcCell r.src with
      | some c => recCell 0x0401 1 c owner (some r.off) code v.toNat d
      | none => record { code := 0x0401, severity := 1, rflags := 4, clause := owner, off := r.off, d0 := srcCode r.src * 0x10000 + code, d1 := v.toNat } d

/-- A refusal under R302: the value stays, REFUSED counts, and the reply carries the old value. An operation of the host writes
no record (R471). -/
def sigRefuse (r : SigReq) (v : W64) (d : Dev) : Dev :=
  let old := (sigWord d r.frame r.word).value
  let d := countRefused r.frame r.word d
  storeReply r.frame r.src .refused old (if r.kind == .host then d else ceilingRecord r v d)

/-- A new value under the ceiling (R302), or its refusal; `res` is the value that the reply carries. -/
def sigChange (r : SigReq) (v res : W64) (d : Dev) : Dev :=
  let w := sigWord d r.frame r.word
  if w.ceilEn && w.ceiling.ult v then sigRefuse r v d
  else wakeMonitors r.frame r.word (storeReply r.frame r.src .done res (updSig r.frame r.word (fun x => { x with value := v }) d))

/-- Words of a frame that have failed and stand without a spare. -/
def wordsFailed (d : Dev) (f : Nat) : Nat := d.sig.words.countP fun e => e.1 / 4096 == f && e.2.failed
/-- The spare words of a frame that are free: neither in a word's place nor failed (R293). -/
def sparesFree (d : Dev) (f : Nat) : List Nat :=
  (List.range 128).filter fun k => NMap.get 0 d.sig.spares (f * 128 + k) == 0 && !NMap.get false d.sig.sparesBad (f * 128 + k)
/-- The spare in the place of a word. -/
def spareOf (d : Dev) (f w : Nat) : Option Nat := (List.range 128).find? fun k => NMap.get 0 d.sig.spares (f * 128 + k) == w + 1
/-- Marks a spare word failed. -/
def markSpare (f k : Nat) (d : Dev) : Dev := { d with sig := { d.sig with sparesBad := NMap.set false d.sig.sparesBad (f * 128 + k) true } }
/-- A unit of the signal words of frame `f` (R494), a word or from 4,096 on a spare, is entered in the retirement map;
SPARE_EXHAUSTED where the frame has fewer free spares than words that wait for one (R493). -/
def retireSignal (f u : Nat) (o : Otp) (d : Dev) : Otp × Dev :=
  let e := retireEntry 5 f u false
  let r := retireAppend e o d
  (r.1, if (sparesFree d f).length < wordsFailed d f then spareExhausted e r.2 else r.2)
/-- A word fails: it is marked, and the word itself, or the spare that stands in its place, is entered in the retirement map
(R293, R494). -/
def failWord (f w : Nat) (o : Otp) (d : Dev) : Otp × Dev :=
  let k := spareOf d f w
  let d := updSig f w (fun x => { x with failed := true }) d
  match k with
  | some k => retireSignal f (4096 + k) o (markSpare f k d)
  | none => retireSignal f w o d
/-- A spare word fails, and with it the word whose place it has taken. -/
def failSpare (f k : Nat) (o : Otp) (d : Dev) : Otp × Dev :=
  match NMap.get 0 d.sig.spares (f * 128 + k) with
  | 0 => retireAppend (retireEntry 5 f (4096 + k) false) o (markSpare f k d)
  | w + 1 => failWord f w o d

/-- A double-bit error (R293): the word is marked failed and entered in the retirement map, the operation is refused with a
value that the manual does not state, and the owner's clause is held. -/
def sigUpset (r : SigReq) (o : Otp) (d : Dev) : Otp × Dev :=
  let owner := (sigWord d r.frame r.word).owner
  let (o, d) := failWord r.frame r.word o (countRefused r.frame r.word d)
  let (v, d) := drawFree 5 d
  (o, storeReply r.frame r.src .refused v (recPlain 0x0403 1 owner (sigCode r.frame r.word) 0 d))

/-- The sender that REMOTE_SIGNAL names: the frame that the mover delivers (R309, R390). -/
def remoteSender (d : Dev) (src : Src) : Nat :=
  match (srcMover src).bind (delivOn d) with
  | some x => senderWord x.port x.h
  | none => 0
/-- Whether the word takes an operation, by whom it is made for: a clause's that owns it (R301); the host's, where it is allocated
and has not failed (R471); a remote raise, where it also accepts those (R309). -/
def sigAdmit (r : SigReq) (f : Dev → Dev) (d : Dev) : Dev :=
  let w := sigWord d r.frame r.word
  match r.kind with
  | .clause => if sigOwned d r then f d else sigAbsent r d
  | .host =>
    if !w.alloc then storeReply r.frame r.src .absent 0 d
    else if w.failed then storeReply r.frame r.src .refused w.value (countRefused r.frame r.word d)
    else f d
  | .remote =>
    if w.alloc && w.remote && !w.failed then f d
    else storeReply r.frame r.src .refused w.value
      (recPlain 0x0404 0 0 (sigCode r.frame r.word) (remoteSender d r.src) (if w.alloc then countRefused r.frame r.word d else d))

/-- An operation at the store: the check code first, then whether the word takes it, then `f` (R293, R301). -/
def sigOperate (op : SigOp) (r : SigReq) (e : Ecc) (f : Dev → Dev) : Otp → Dev → Otp × Dev :=
  arriveO r.src (.store r.frame) [.sigOp op r] fun o d => match e with
  | .upset => sigUpset r o d
  | _ =>
    let d := if e == .corrected then { d with sig := { d.sig with corrected := NMap.upd 0 d.sig.corrected r.frame (· + 1) } } else d
    (o, sigAdmit r f d)

/-- SIGNAL_READ (R298). -/
def execSignalRead (r : SigReq) (e : Ecc) (s : State) : Out :=
  onBoth (sigOperate .read r e fun d => storeReply r.frame r.src .done (sigWord d r.frame r.word).value d) s
/-- SIGNAL_SET (R298, R302). -/
def execSignalSet (r : SigReq) (e : Ecc) (s : State) : Out :=
  onBoth (sigOperate .set r e (sigChange r r.v 0)) s
/-- SIGNAL_ADD (R298, R302). -/
def execSignalAdd (r : SigReq) (e : Ecc) (s : State) : Out :=
  onBoth (sigOperate .add r e fun d => let old := (sigWord d r.frame r.word).value; sigChange r (old + r.v) old d) s
/-- SIGNAL_WAIT (R304): the monitor of the cell is registered, or the cell is woken at once. -/
def execSignalWait (r : SigReq) (cond : Cond) (e : Ecc) (s : State) : Out :=
  onBoth (sigOperate (.wait cond) r e fun d =>
    let v := (sigWord d r.frame r.word).value
    if condHolds cond v r.v then storeReply r.frame r.src .wake v d
    else { d with sig := { d.sig with monitors := d.sig.monitors.filter (fun m => decide (m.src ≠ r.src)) ++ [{ src := r.src, f := r.frame, w := r.word, v := r.v, cond := cond }] } }) s
/-- SIGNAL_CANCEL (R298, R301, R305): the sender's monitor is removed and CANCELLED answers. -/
def execSignalCancel (r : SigReq) (s : State) (e : Ecc := .good) : Out :=
  onBoth (sigOperate .cancel r e fun d =>
    storeReply r.frame r.src .cancelled 0 { d with sig := { d.sig with monitors := d.sig.monitors.filter fun m => decide (m.src ≠ r.src) || m.f != r.frame } }) s

end Sys2Proof.Machine
end

