-- ==== Sys2Proof/Machine/Remote.lean ====
section
/-! DEFINITION. Accesses that no mover of this device's clauses makes: those of fabric frames under the remote grants
(R387, R388, R308, R309), held in the commit window (R358) or behind a granule; and the ledger for them (R354-R356). -/
namespace Sys2Proof.Machine

/-- A frame that travels one link (R384). -/
def linkFrame (d : Dev) (ty : Nat) (pay : List Byte) : FFrame :=
  { ty := ty, h := { srcId := d.ports.fabricId % 0x1000000, pos := 1, route := 0xE0E0E0E0, lseq := 0, result := 0, tag := 0, target := 0 }, pay := pay }
/-- Whether a fabric port is up. -/
def fabUp (d : Dev) (p : Nat) : Bool := booted d && (fabPort d p).st == .up

/-! ### Frames from a link (R378-R380) -/

/-- The payload of a LINK_CTRL frame of port `p` (R378). -/
def linkCtrl (d : Dev) (p : Nat) : LinkCtrl :=
  let x := fabPort d p
  { ackSeq := (x.rxSeq + 0xFFFF) % 0x10000, lane := 0, cred0 := x.freed0, cred1 := x.freed1, fabricId := d.ports.fabricId % 0x1000000,
    port := p, caps := if x.p2p then 1 else 0, mode := x.mode, spareLseq := 0 }
/-- Sends a LINK_CTRL frame of a kind: 0 keepalive, 1 NAK, 2 hello, 3 SPARE_REQ, 4 SPARE_GO. -/
def sendLink (p kind : Nat) (lc : LinkCtrl) (d : Dev) : Dev :=
  let e := fabEther d p 1
  { d with tx := .link p kind lc (if kind = 2 && (fabPort d p).p2p then { dst := List.replicate 6 0xff } else e) :: d.tx }
/-- The payload of a LINK_CTRL frame of a kind, most significant byte first (R378). -/
def linkBytes (kind : Nat) (lc : LinkCtrl) : List Byte :=
  beBytes 2 lc.ackSeq ++ beBytes 1 kind ++ beBytes 1 lc.lane ++ beBytes 4 lc.cred0 ++ beBytes 4 lc.cred1 ++ beBytes 3 lc.fabricId ++
  beBytes 1 lc.port ++ beBytes 1 lc.caps ++ beBytes 1 lc.mode ++ beBytes 2 lc.spareLseq ++ List.replicate 12 0
/-- A fabric port of the device (R367). -/
def portOk (p : Nat) : Bool := decide (p < 6)
/-- A port accepts the next frame of its link (R380); a LINK_CTRL frame follows every 16 frames (R378). -/
def frameTaken (p : Nat) (d : Dev) : Dev :=
  let d := updFab p (fun x => { x with rxSeq := if x.p2p then (x.rxSeq + 1) % 0x10000 else x.rxSeq, rxCount := x.rxCount + 1 }) d
  if 16 ≤ (fabPort d p).rxCount then sendLink p 0 (linkCtrl d p) (updFab p (fun x => { x with rxCount := 0 }) d) else d
/-- A frame with a bad FCS or an unexpected LSEQ is discarded; a point-to-point port answers with a NAK (R380). -/
def fabReject (p : Nat) (d : Dev) : Dev :=
  let d := fabDiscard p d
  if (fabPort d p).p2p then sendLink p 1 (linkCtrl d p) d else d
/-- The link accepts the next frame of a port into its receive buffer, or rejects it (R380). -/
def linkTake (p lseq : Nat) (f : Otp → Dev → Otp × Dev) (o : Otp) (d : Dev) : Otp × Dev :=
  if !portOk p || !fabUp d p then (o, d)
  else if (fabPort d p).p2p && lseq != (fabPort d p).rxSeq then (o, fabReject p d)
  else f o (frameTaken p d)
/-- A frame of `n` payload bytes that leaves the receive buffer at once (R379). -/
def linkPass (p ty n lseq : Nat) (f : Otp → Dev → Otp × Dev) : Otp → Dev → Otp × Dev :=
  linkTake p lseq fun o d => f o (freeUnits p (frameClass ty) (32 + n) d)

/-! ### Grants (R388, R390) -/

/-- The first grant that covers a range and permits the kind of access: its Noun window port. -/
def grantFor (d : Dev) (write : Bool) (a n : Nat) : Option Dir :=
  (List.range 16).findSome? fun i =>
    let g := NMap.get [] d.ports.grants i
    let b := fldBE g 0 8
    if bit (fld g 0x10 1) (if write then 0 else 1) && decide (b ≤ a) && decide (a + n ≤ b + fldBE g 8 8) then some (dirOf (bits (fld g 0x10 1) 3 2)) else none
/-- REMOTE_ACCESS and its answer (R388). -/
def refuseRemote (ty p : Nat) (h : FabHdr) (d : Dev) : Dev :=
  sendAnswer ty 1 h [] (recPlain 0x0705 0 0 h.target (senderWord p h) d)
/-- The lines of a WRITE with their addresses and enables (R384). -/
def remoteLines (w : HeldWrite) : List (Nat × List Byte × W64) :=
  let n := w.lines.length
  w.lines.zipIdx.map fun li =>
    let en : W64 := (if li.2 = 0 then w.first else BitVec.allOnes 64) &&& (if li.2 + 1 = n then w.last else BitVec.allOnes 64)
    (w.h.target + 64 * li.2, padTo 64 (li.1.take 64), en)
/-- The clause and region of the first durable line of a range. -/
def remoteDurable (d : Dev) (a n : Nat) : Option (Clause × Durable) :=
  (List.range n).findSome? fun i => durableAt d (a + 64 * i)

/-- The I/O die of a fabric port (R367). -/
def portDie (p : Nat) : Nat := if p < 3 then 0 else 1
/-- A WRITE goes to its mover, from the receive buffer or from the commit window's hold (R387). -/
def deliverWrite (buffered : Bool) (w : HeldWrite) (d : Dev) : Dev :=
  match grantFor d true w.h.target (64 * w.lines.length) with
  | none => refuseRemote 5 w.port w.h d
  | some g => delivAdd { die := portDie w.port, port := w.port, h := w.h, job := .write g (remoteLines w), buffered := buffered } d
/-- The held writes go where the commit window is over, in arrival order (R358, R359). -/
def releaseRemote (d : Dev) : Dev :=
  if windowOpen d then d
  else d.epoch.heldWrites.foldl (fun d w => deliverWrite false w d) { d with epoch := { d.epoch with heldWrites := [] } }

/-- An address of a COPY1 range, which no agent may access (R354). -/
def inCopy1 (d : Dev) (a : Nat) : Bool := d.plan.clauses.any fun c => (c.copy1Of a).isSome
/-- The range of a WRITE or READ_REQ lies in memory, outside every COPY1 range, or in Noun cells of this device, line by line
(R354, R384, R387, R388). -/
def remoteMapped (ord : Nat) (d : Dev) (a n : Nat) : Bool :=
  decide (1 ≤ n) && decide (n ≤ 64) && decide (a % 64 = 0) &&
  (List.range n).all fun i =>
    let k := placeOf ord (a + 64 * i)
    (k == .hbm || k == .lp || k == .window) && !inCopy1 d (a + 64 * i)
/-- A WRITE delivered to this device: performed by an I/O die mover, held in the commit window, or refused (R358, R387, R388). -/
def remoteWrite (p : Nat) (h : FabHdr) (first last : W64) (lines : List (List Byte)) (o : Otp) (d : Dev) : Otp × Dev :=
  let n := lines.length
  let w : HeldWrite := { port := p, h := h, first := first, last := last, lines := lines }
  if !remoteMapped o.ordering d h.target n || (grantFor d true h.target (64 * n)).isNone then (o, refuseRemote 5 p h (freeUnits p 0 (48 + 64 * n) d))
  else match (if windowOpen d then remoteDurable d h.target n else none) with
    | none => (o, deliverWrite true w d)
    | some (cl, u) =>
      let d := if d.epoch.winRec then d
        else recPlain 0x0906 0 cl.id u.index (senderWord p h) { d with epoch := { d.epoch with winRec := true } }
      (o, freeUnits p 0 (48 + 64 * n) { d with epoch := { d.epoch with heldWrites := d.epoch.heldWrites ++ [w] } })

/-- A READ_REQ delivered to this device: performed by an I/O die mover, or refused (R387, R388). -/
def remoteRead (p : Nat) (h : FabHdr) (len : Nat) (o : Otp) (d : Dev) : Otp × Dev :=
  let n := len / 64
  match (if decide (len % 64 = 0) && remoteMapped o.ordering d h.target n then grantFor d false h.target len else none) with
  | none => (o, refuseRemote 4 p h (freeUnits p 0 36 d))
  | some g => (o, delivAdd { die := portDie p, port := p, h := h, job := .read g ((List.range n).map fun i => h.target + 64 * i) } d)

/-- A RAISE delivered to this device: an I/O die mover sends the ADD to the store, which governs it (R308, R309). -/
def remoteRaise (p : Nat) (h : FabHdr) (amount : W64) (d : Dev) : Dev :=
  if placeOf 0 h.target != .signal then refuseRemote 5 p h (freeUnits p 0 40 d)
  else delivAdd { die := portDie p, port := p, h := h, job := .raise amount } d

end Sys2Proof.Machine
end

