-- ==== Sys2Proof/Machine/Beat.lean ====
section
/-! DEFINITION. The beat (R336-R347, R385), its sources, and what a beat edge updates (R135, R140, R287, R350, R352, R418,
R524). -/
namespace Sys2Proof.Machine

/-- The nominal beat length L in cycles (R337). -/
def beatCycles (d : Dev) : Nat := d.beat.period * 21 / 20
/-- The beat period in units of 2^-16 ns (R385). -/
def beatUnits (d : Dev) : Nat := d.beat.period * 65536
/-- Changes the beat unit. -/
def updBeat (f : BeatUnit → BeatUnit) (d : Dev) : Dev := { d with beat := f d.beat }

/-! ### Sources (R339, R345-R347) -/

/-- Whether a source, as a BEAT_SRC_EN bit, is locked; the cascade master never uses beat frames (R344, R345). -/
def srcLocked (d : Dev) (b : Nat) : Bool :=
  match b with
  | 1 => d.beat.biLocked
  | 2 => d.beat.ptpLocked
  | 4 => d.beat.bfLocked && !d.power.straps.master
  | _ => true
/-- Whether a source is enabled in BEAT_SRC_EN. -/
def srcOn (d : Dev) (b : Nat) : Bool := d.beat.srcEn / b % 2 == 1
/-- The enabled and locked source of highest precedence; free-running where none is (R339, notes/assumptions/30). -/
def bestSource (d : Dev) : Nat := ([1, 2, 4].find? fun b => srcOn d b && srcLocked d b).getD 8
/-- The distance in cycles from the device's edges to those of a source; free-running edges are the device's own (R345, R346). -/
def srcDist (u : BeatUnit) (b : Nat) : Int :=
  match b with
  | 1 => u.biDist
  | 2 => u.ptpDist
  | 4 => u.bfDist
  | _ => 0
/-- Chooses the source in use; the edges will move where the new source's lie more than an eighth of a beat away (R346). -/
def pickSource (d : Dev) : Dev :=
  let b := bestSource d
  if b = d.beat.srcUsed then d
  else
    let dist := srcDist d.beat b
    let far := decide ((beatCycles d : Int) < 8 * dist) || decide ((8 * dist) < -(beatCycles d : Int))
    recPlain 0x0904 0 0 (d.beat.srcUsed * 256 + b) 0 (updBeat (fun u => { u with srcUsed := b, slew := if far then dist else 0 }) d)
/-- What the device forgets of BEAT_IN or PTP that is lost or no longer enabled (R341-R343). -/
def forgetSource (b : Nat) (u : BeatUnit) : BeatUnit :=
  match b with
  | 1 => { u with biLocked := false, biCode := none, biBits := none, biZeros := 0, biSince := 0, biMiss := 0, biPrev := none }
  | 2 => { u with ptpLocked := false, ptpGood := 0, ptpWait := none }
  | 4 => { u with bfLocked := false, bfGood := 0 }
  | _ => u
/-- A source is lost. -/
def loseSource (b : Nat) (d : Dev) : Dev := pickSource (updBeat (forgetSource b) d)
/-- Entry 0 is kept armed with the next commit beat while epochs are enabled (R357). A commit beat that passes without acting,
as before the start beat, leaves the epoch open. -/
def armEpoch (d : Dev) : Dev :=
  let e : SchedEntry := if d.epoch.enable then
      { beat := commitBeat d (d.beat.count + 1), period := d.epoch.beats, phase := 0, action := 8, valid := true } else {}
  { d with plan := { d.plan with sched := NMap.set {} d.plan.sched 0 e } }
/-- The epoch in progress begins anew: its window is no longer open, and it has recorded no COMMIT_WINDOW_WRITE (R357, R358). -/
def reopenEpoch (d : Dev) : Dev :=
  { d with epoch := { d.epoch with state := if d.epoch.state = 1 then 0 else d.epoch.state, winRec := false } }
/-- The device adopts a count; entry 0 is armed for it (R336, R347, R357). -/
def adoptCount (n : Nat) (d : Dev) : Dev := armEpoch (reopenEpoch (updBeat (fun u => { u with count := n % 2 ^ 64 }) d))
/-- A locked source reports that the current beat's count is `off` more than the device's own (R336, R339, R347). -/
def reportCount (b : Nat) (off : Int) (d : Dev) : Dev :=
  let own := d.beat.count
  let cnt := wrapN 64 (own + off)
  if off = 0 || !srcOn d b || !srcLocked d b then d
  else match d.ctl.state with
    | .inert | .loading => adoptCount cnt d
    | .loaded | .armed => adoptCount cnt (recPlain 0x0905 0 0 own cnt d)
    | .running | .held => enterHeld 6 (loseSource b (recPlain 0x0905 0 0 own cnt d))
    | .faulted => d
/-- The same for a source whose count is known by its time since beat 0 or an edge: within an eighth of a beat of an edge a
difference of one is none. -/
def reportNear (b : Nat) (off : Int) (frac unit_ : Nat) (d : Dev) : Dev :=
  if (8 * frac ≤ unit_ ∨ 8 * (unit_ - frac) ≤ unit_) ∧ off.natAbs ≤ 1 then d else reportCount b off d
/-- The distance in cycles from the device's edges to those of a source that is `frac` of `unit_` into its beat in cycle `cyc` of
the device's. -/
def edgeDist (d : Dev) (cyc frac unit_ : Nat) : Int :=
  let l : Int := beatCycles d
  let z : Int := ((cyc : Int) - (frac * beatCycles d / max 1 unit_ : Nat)) % (max 1 l)
  if l < 2 * z then z - l else z

/-! ### BEAT_IN (R340-R342) -/

/-- One bit of a CRC-16 with polynomial 0x1021 (R341). -/
def crcBit (c : Nat) (b : Bool) : Nat :=
  let t := (bit c 15) != b
  let s := c * 2 % 0x10000
  if t then s ^^^ 0x1021 else s
/-- The CRC-16 of bits, first bit first, with initial value 0xFFFF. -/
def crc16 (bs : List Bool) : Nat := bs.foldl crcBit 0xFFFF
/-- The number that bits spell, most significant first. -/
def bitsNat (bs : List Bool) : Nat := bs.foldl (fun n b => 2 * n + (if b then 1 else 0)) 0
/-- The count that a code word of 96 bits carries, where it is valid (R341). -/
def markCode (period : Nat) (bs : List Bool) : Option Nat :=
  let cnt := bitsNat (bs.take 64)
  if crc16 (bs.take 80) = bitsNat (bs.drop 80) ∧ cnt % 128 = 0 ∧ bitsNat ((bs.drop 64).take 16) = period then some cnt else none
/-- The symbol of a pulse width in ns: 0, 1, 2 for MARK (R340). -/
def pulseSymbol (w : Nat) : Option Nat :=
  if 40 ≤ w ∧ w ≤ 80 then some 0
  else if 100 ≤ w ∧ w ≤ 140 then some 1
  else if 200 ≤ w ∧ w ≤ 240 then some 2
  else none
/-- Counts an invalid code. -/
def badCode (u : BeatUnit) : BeatUnit := { u with biInvalid := u.biInvalid + 1 }
/-- A code that is cut short is invalid. -/
def cutCode (u : BeatUnit) : BeatUnit := if u.biBits.isSome then badCode { u with biBits := none } else u
/-- A pulse at distance `dev` from the device's edge lies within an eighth of a beat of where it is expected: a beat after the
latest one, or after the edge that the device made of it (R342); the first one anywhere. -/
def pulseNear (l : Nat) (dev : Int) (u : BeatUnit) : Bool :=
  match u.biPrev with
  | some x => decide (8 * (dev - x).natAbs ≤ l)
  | none => true
/-- The pulse becomes that from which the next is expected: the device takes its edge there where it follows BEAT_IN and its
edges have reached those of BEAT_IN (R339, R342, R346). -/
def pulseAt (dev : Int) (u : BeatUnit) : BeatUnit :=
  { u with biDist := dev, biPrev := some (if u.srcUsed = 1 ∧ u.slew = 0 then 0 else dev) }
/-- A missing pulse (R342): before lock it ends the run of 128 beats. -/
def missPulse (u : BeatUnit) : BeatUnit :=
  let u := cutCode { u with biMiss := u.biMiss + 1 }
  if u.biLocked then { u with biSince := u.biSince + 1 } else { u with biCode := none, biZeros := 0 }
/-- A pulse out of its place, while BEAT_IN is not locked, begins a new run (R341, R342). -/
def strayPulse (dev : Int) (u : BeatUnit) : BeatUnit := let v := missPulse u; if v.biLocked then v else { v with biPrev := some dev }
/-- A symbol within tolerance. -/
def takeSymbol (sym : Nat) (u : BeatUnit) : BeatUnit :=
  let u := { u with biMiss := 0, biSince := u.biSince + 1, biZeros := if u.biCode.isSome then u.biZeros + 1 else 0 }
  if sym = 2 then { cutCode u with biBits := some [] }
  else match u.biBits with
    | none => u
    | some bs =>
      let bs := (sym == 1) :: bs
      if bs.length < 96 then { u with biBits := some bs }
      else match markCode u.period bs.reverse with
        | some c => { u with biBits := none, biCode := some c, biSince := 96 }
        | none => badCode { u with biBits := none }
/-- BEAT_IN_PULSE (R340-R342): the pulse of the beat whose edge is the latest one; `dev` is its distance from that edge. -/
def execBeatInPulse (width : Nat) (dev : Int) (s : State) : Out :=
  onDev (fun d =>
    if !booted d || !srcOn d 1 then d
    else
      if !pulseNear (beatCycles d) dev d.beat then updBeat (strayPulse dev) d
      else match pulseSymbol width with
      | none => updBeat missPulse d
      | some sym =>
        let d := updBeat (fun u => pulseAt dev (takeSymbol sym u)) d
        let d := if !d.beat.biLocked && d.beat.biCode.isSome && decide (128 ≤ d.beat.biZeros) then
            pickSource (updBeat (fun u => { u with biLocked := true }) d) else d
        match d.beat.biCode with
        | some c => reportCount 1 (((c + d.beat.biSince) % 2 ^ 64 : Nat) - (d.beat.count : Int)) d
        | none => d) s
/-- BEAT_IN_MISSING (R342). -/
def execBeatInMissing (s : State) : Out :=
  onDev (fun d => if booted d && srcOn d 1 then updBeat missPulse d else d) s
/-- BEAT_IN_LOST (R342). -/
def execBeatInLost (s : State) : Out :=
  onDev (fun d => if booted d && d.beat.biLocked && decide (16 ≤ d.beat.biMiss) then loseSource 1 d else d) s

/-! ### PTP (R343) -/

/-- The host port named by PTP_PORT carries packets. -/
def ptpLive (d : Dev) : Bool :=
  let h := d.ports.hosts.getD d.beat.ptpPort {}
  booted d && srcOn d 2 && h.enable && h.link != 0
/-- A Sync with its precise origin timestamp, received in cycle `cyc` of beat `cnt`. -/
def ptpEstimate (t1 t2 : Int) (cnt cyc : Nat) (d : Dev) : Dev :=
  let off := t2 - t1 - d.beat.ptpDelay
  let good := if off.natAbs ≤ 50 then d.beat.ptpGood + 1 else 0
  let d := updBeat (fun u => { u with ptpT1 := t1, ptpT2 := t2, ptpOffset := off, ptpGood := good, ptpLocked := u.ptpLocked || decide (16 ≤ good) }) d
  let z := t1 + d.beat.ptpDelay - d.beat.originNs
  let p := max 1 d.beat.period
  let frac := (z % (p : Int)).toNat
  let d := updBeat (fun u => { u with ptpDist := edgeDist d cyc frac p }) d
  if d.beat.ptpLocked then reportNear 2 (z / (p : Int) - cnt) frac p (pickSource d) else d
/-- PTP_SYNC (R343). -/
def execPtpSync (seqId : Nat) (t1 t2 : Int) (twoStep : Bool) (s : State) (dom : Nat := 0) : Out :=
  onDev (fun d =>
    if !ptpLive d || dom != d.beat.ptpDomain then d
    else if twoStep then updBeat (fun u => { u with ptpWait := some (seqId, t2, u.count, u.cyc) }) d
    else ptpEstimate t1 t2 d.beat.count d.beat.cyc d) s
/-- PTP_FOLLOW_UP (R343). -/
def execPtpFollowUp (seqId : Nat) (t1 : Int) (s : State) (dom : Nat := 0) : Out :=
  onDev (fun d =>
    match d.beat.ptpWait with
    | some (q, t2, cnt, cyc) =>
      if ptpLive d && dom == d.beat.ptpDomain && q == seqId then ptpEstimate t1 t2 cnt cyc (updBeat (fun u => { u with ptpWait := none }) d) else d
    | none => d) s
/-- The MAC address of the PTP multicast group over IPv4 (PRESUMED from IEEE 1588, notes/assumptions/71). -/
def ptpMac : List Byte := [0x01, 0x00, 0x5e, 0x00, 0x01, 0x81]
/-- PTP_DELAY_REQ_SEND (R343): with the port's tag (R369). -/
def execPtpDelayReqSend (seqId : Nat) (t3 : Int) (s : State) : Out :=
  onDev (fun d =>
    if ptpLive d then
      { updBeat (fun u => { u with ptpT3 := some (seqId, t3), ptpSeq := seqId }) d with tx := .ptpDelayReq d.beat.ptpPort seqId (hostEther d d.beat.ptpPort ptpMac) :: d.tx }
    else d) s
/-- PTP_DELAY_RESP (R343). -/
def execPtpDelayResp (seqId : Nat) (t4 : Int) (s : State) (dom : Nat := 0) : Out :=
  onDev (fun d =>
    match d.beat.ptpT3 with
    | some (q, t3) =>
      if ptpLive d && dom == d.beat.ptpDomain && q == seqId then
        updBeat (fun u =>
          let dl := ((u.ptpT2 - u.ptpT1) + (t4 - t3)) / 2
          { u with ptpT3 := none, ptpDelay := dl, ptpOffset := u.ptpT2 - u.ptpT1 - dl }) d
      else d
    | none => d) s
/-- PTP_LOST (R343). -/
def execPtpLost (s : State) : Out := onDev (fun d => if booted d && d.beat.ptpLocked then loseSource 2 d else d) s

/-! ### Beat frames and echoes (R344, R385) -/

/-- A beat payload (R385). -/
def beatPayload (count toEdge period : Nat) : List Byte := beBytes 8 count ++ beBytes 8 toEdge ++ beBytes 4 period
/-- A beat frame that the link has accepted (R344, R385). -/
def beatFrame (rx count toEdge period tx : Nat) (d : Dev) : Dev :=
  if period ≠ d.beat.period then fabDiscard 3 d
  else
    let b := d.beat
    let edge : Int := rx - b.bfDelay + toEdge
    let p : Int := beatUnits d
    let off := (edge - b.bfEdge) - ((count : Int) - b.bfCount) * p
    let good := if b.bfGood = 0 then 1 else if 8 * (off.natAbs : Int) ≤ p then b.bfGood + 1 else 1
    let away : Int := (toEdge : Int) - b.bfDelay
    let frac := ((-away) % p).toNat
    let d := updBeat (fun u => { u with
      bfGood := good, bfCount := count, bfEdge := edge, bfLocked := u.bfLocked || decide (2 ≤ good)
      bfDist := edgeDist d b.cyc frac (beatUnits d) }) d
    let d := if fabDue d 2 then fabPut 2 (linkFrame d 6 (beatPayload count (wrapN 64 (edge - tx)) period)) d else d
    if srcOn d 4 && d.beat.bfLocked then reportNear 4 (count + (-away) / p - b.count) frac (beatUnits d) (pickSource d) else d
/-- BEAT_FRAME (R344, R380, R385): its link accepts it; the master never uses it. -/
def execBeatFrame (rx : Nat) (count toEdge period : Nat) (tx : Nat) (s : State) (lseq : Nat := 0) : Out :=
  onBoth (linkPass 3 6 20 lseq fun o d => (o, if d.power.straps.master then d else beatFrame rx count toEdge period tx d)) s
/-- BEAT_FRAME_SEND (R344): the master names the coming edge. -/
def execBeatFrameSend (tx toEdge : Nat) (s : State) : Out :=
  onDev (fun d =>
    if fabDue d 2 && d.power.straps.master && d.beat.count % 16 == 0 then
      (let _ := tx; fabPut 2 (linkFrame d 6 (beatPayload ((d.beat.count + 1) % 2 ^ 64) toEdge d.beat.period)) d)
    else d) s
/-- BEAT_FRAME_LOST (R344). -/
def execBeatFrameLost (s : State) : Out := onDev (fun d => if booted d && d.beat.bfLocked then loseSource 4 d else d) s
/-- ECHO_SEND (R344, R385). -/
def execEchoSend (t1 : Nat) (s : State) : Out :=
  onDev (fun d =>
    if fabDue d 3 && !d.power.straps.master && d.beat.count % 1024 == 0 then
      fabPut 3 (linkFrame d 7 (beBytes 8 t1)) (updBeat (fun u => { u with echoT1 := some t1 }) d)
    else d) s
/-- ECHO_REQ (R385): the port answers with ECHO_RSP. -/
def execEchoReq (p : Nat) (t1 t2 t3 : Nat) (s : State) (lseq : Nat := 0) : Out :=
  onBoth (linkPass p 7 8 lseq fun o d => (o, fabPut p (linkFrame d 8 (beBytes 8 t1 ++ beBytes 8 t2 ++ beBytes 8 t3)) d)) s
/-- ECHO_RSP (R385). -/
def execEchoRsp (t1 t2 t3 t4 : Nat) (s : State) (lseq : Nat := 0) : Out :=
  onBoth (linkPass 3 8 24 lseq fun o d =>
    (o, if d.beat.echoT1 = some t1 then
        updBeat (fun u => { u with echoT1 := none, bfDelay := (((t4 : Int) - t1) - ((t3 : Int) - t2)) / 2 }) d
      else d)) s

/-! ### What an edge updates -/

/-- Throttle and temperature (R524, R526, R527). -/
def throttle (m : Measure) (d : Dev) : Dev :=
  let w := d.power
  let n := d.beat.count
  let hot := m.temps.foldl max 0
  let target := (fp32.decode w.target.toNat).mul (Num.ofInt 100 0)
  let hotter := target.lt (Num.ofInt hot 0)
  let cool := !((target.add (Num.ofInt (-300) 0)).lt (Num.ofInt hot 0))
  let ps := if w.limit < m.power16 then min 15 (w.powerStep + 1)
    else if m.power256 * 100 < w.limit * 95 ∧ (n < w.powerBeat ∨ w.powerBeat + 256 ≤ n) then w.powerStep - 1
    else w.powerStep
  let cb := if cool then w.coolBeats + 1 else 0
  let ts := if hotter && (w.thermStep == 0 || decide (n < w.thermBeat) || decide (w.thermBeat + 16 ≤ n)) then min 15 (w.thermStep + 1)
    else if 256 ≤ cb then w.thermStep - 1 else w.thermStep
  let d := { d with power := { w with
    powerStep := ps, thermStep := ts, step := w.stepNext, stepNext := max w.schedStep (max ps ts)
    powerBeat := if ps = w.powerStep then w.powerBeat else n
    thermBeat := if w.thermStep < ts then n else w.thermBeat
    coolBeats := if 256 ≤ cb && ts != w.thermStep then 0 else cb
    powerW := m.power1024, temps := m.temps } }
  let d := if w.powerStep = 0 ∧ 0 < ps then recPlain 0x0C01 0 0 1 (max w.schedStep (max ps ts)) d else d
  if w.thermStep = 0 ∧ 0 < ts then recPlain 0x0C01 0 0 2 (max w.schedStep (max ps ts)) d else d

/-- The monitors of a clause at an edge: the selection takes effect, the latch re-arms (R135, R472). -/
def monitorEdge (c : Clause) : Clause :=
  let sel := c.monNext.getD c.mon
  let n := if c.rearm then ({} : NanLatch) else c.nan
  { c with mon := sel, monNext := none, rearm := false, ctrReset := false
           nan := { n with armed := bit sel 0 && !n.full } }
/-- A cell at an edge: its counters are reset or shown, and its stall lengthens (R140, R287). -/
def cellEdge (d : Dev) (p : Nat) (x : Cell) : Cell :=
  let x := match clauseOf d x.ctrOf with
    | some c => if c.ctrReset then { x with ctr := {} } else x
    | none => x
  let x := { x with ctrBeat := x.ctr }
  match logicalOf d p with
  | some c =>
    if stalled d c then (if d.ctl.state == .held then x else { x with stall := satAdd 32 x.stall 1 })
    else { x with stall := 0, stallRec := false }
  | none => x

/-- An entry whose beat has passed without acting: a repeating one goes on by whole periods (R352). A one-shot entry with
ACTION NONE has acted, while the device was RUNNING (R349, R351). -/
def passEntry (run : Bool) (n : Nat) (e : SchedEntry) : SchedEntry :=
  if e.valid && decide (e.beat < n) then
    if e.period ≠ 0 then { e with beat := e.beat + (n - e.beat + e.period - 1) / e.period * e.period }
    else if run && e.action == 0 then { e with fired := true, valid := false } else e
  else e
/-- The schedule table at an edge: accepted writes come into force (R350), passed entries go on (R352). -/
def schedEdge (d : Dev) : Dev :=
  let t := d.plan.schedNext.foldl (fun t ne => NMap.set {} t ne.1 ne.2) d.plan.sched
  let go := d.ctl.state == .running || d.ctl.state == .held
  let t := if go then NMap.mapVals {} (fun k e => if k = 0 then e else passEntry (d.ctl.state == .running) d.beat.count e) t else t
  let d := { d with plan := { d.plan with sched := t, schedNext := [] } }
  if d.epoch.enable && decide (d.epoch.state ≤ 1) && decide ((NMap.get {} t 0).beat < d.beat.count) then
    armEpoch (reopenEpoch d)
  else d
/-- The beat of the step that a sentence stands at (R59). -/
def stepBeat (q : Sentence) : Option Nat := (q.steps[q.next]?).map fun st => q.start + q.rep * q.p + st.offset
/-- A switch that brings nothing in is over two beats after its beat B (R55, R56). -/
def switchOver (d : Dev) (w : Switch) : Bool := w.stage == .active && w.ins.isEmpty && decide (w.beat + 2 ≤ d.beat.count)
/-- Sentences whose step passes while the device is HELD stay at it (R61), switches that have not begun are given up, and a NaN
watch's request whose beat has passed in HELD is spent (R138). -/
def heldEdge (d : Dev) : Dev :=
  let d := { d with plan := { d.plan with switches := d.plan.switches.filter fun w => !switchOver d w } }
  if d.ctl.state == .held then
    { d with ctl := { d.ctl with nanHold := d.ctl.nanHold.filter fun n => decide (d.beat.count ≤ n.2 + 1) }, plan := { d.plan with
      sentences := d.plan.sentences.map fun q => match stepBeat q with
        | some b => if q.running && decide (b < d.beat.count) then { q with held := true } else q
        | none => q
      switches := d.plan.switches.filter fun w => w.stage == .closed || w.stage == .active } }
  else d

/-- CASC_DONE is driven at phase 0 (R418): ARMED with every clause on a region that satisfies its contract releases it. -/
def driveEdge (d : Dev) : Dev :=
  let low := match d.ctl.state with
    | .armed => !(d.plan.clauses.all fun c => (stillMet d c).isNone)
    | .running | .held => d.config.driveLow
    | _ => true
  { d with config := { d.config with driveLow := low } }

/-- The edges move towards the source's by at most L / 64 cycles per beat (R346): the next one comes `shift` cycles off the
nominal length, and every source's edges lie that much nearer. -/
def slewEdge (u : BeatUnit) : BeatUnit :=
  let st : Int := (u.period * 21 / 20 / 64 : Nat)
  let by_ := max (-st) (min st u.slew)
  { u with slew := u.slew - by_, shift := by_, biDist := u.biDist - by_, biPrev := u.biPrev.map (· - by_)
           ptpDist := u.ptpDist - by_, bfDist := u.bfDist - by_ }
/-- The cycle of the next edge, counted from the latest one, as the device makes it (R337, R342, R346; notes/assumptions/70). -/
def nextEdge (d : Dev) : Int := beatCycles d + d.beat.shift

/-- The count and period at an edge (R336, R337). -/
def countEdge (u : BeatUnit) : BeatUnit :=
  slewEdge { u with count := (u.count + 1) % 2 ^ 64, cyc := 0, period := u.periodNext.getD u.period, periodNext := none }
/-- What a beat edge does to the device. -/
def edge (m : Measure) (o : Otp) (d : Dev) : Otp × Dev :=
  let d := updBeat countEdge d
  let d := { d with cells := (d.cells.map Prod.fst).foldl (fun cs p => NMap.set {} cs p (cellEdge d p (NMap.get {} cs p))) d.cells }
  let d := { d with plan := { d.plan with clauses := d.plan.clauses.map monitorEdge } }
  let d := throttle m (driveEdge (heldEdge (schedEdge d)))
  (o, delivStart 1 8 (delivStart 0 8 (releaseRemote (runJigQueues (retireMap o d) (pickSource d)))))
/-- One core cycle passes: the cycles since the edge, of the segments under way (R106) and of the mover streams, which HELD stops
(R333), and the work of the Beluf engine (R433), go on (R336; notes/assumptions/3). -/
def tickDev (d : Dev) : Dev :=
  { d with
    beat := { d.beat with cyc := d.beat.cyc + 1 }
    beluf := { d.beluf with busy := d.beluf.busy - 1 }
    cells := NMap.mapVals {} (fun _ x => if x.stopped then x else { x with mats := x.mats.map fun m => { m with age := m.age + 1 } }) d.cells
    movers := { d.movers with run := if d.ctl.state == .held then d.movers.run
                                     else NMap.mapVals none (fun _ r => r.map fun r => { r with age := r.age + 1 }) d.movers.run } }
/-- BEAT_EDGE (R336). -/
def execBeatEdge (m : Measure) (s : State) : Out :=
  onBoth (fun o d => if booted d then edge m o d else (o, d)) s

end Sys2Proof.Machine
end

