-- ==== Sys2Proof/Machine/ImageForm.lean ====
section
/-! DEFINITION. Releralor images as bytes: the checks of the header, the segment table and a segment (R400-R408), the records
of a segment (R404-R407), the checks that no region changes (R246, R265, R353, R59) and relocation (R409-R411). -/
namespace Sys2Proof.Machine

/-- A failure of R408: its record's code, detail words and clause. -/
structure ImgErr where
  code   : Nat
  d0     : Nat
  d1     : Nat := 0xFFFFFFFF
  clause : Nat := 0
  deriving DecidableEq, Repr

/-! ### Header and segment table (R400-R403) -/

/-- SEGMENT_COUNT. -/
def hdSegments (h : List Byte) : Nat := fld h 0x28 2
/-- TOTAL_LENGTH. -/
def hdTotal (h : List Byte) : Nat := fld h 0x20 8
/-- KEY_SLOT. -/
def hdSlot (h : List Byte) : Nat := fld h 0x2A 1
/-- BODY_HASH. -/
def hdBody (h : List Byte) : List Byte := slice h 0x40 32
/-- The end of the segment table. -/
def tableEnd (h : List Byte) : Nat := 0x100 + 64 * hdSegments h
/-- The fields of the header in ascending offset: the offset of the first that fails (R408). `part` is whether RELOAD asks. -/
def headerField (part : Bool) (h : List Byte) : Option Nat :=
  if fld h 0 4 ≠ 0x4C525645 then some 0x00
  else if fld h 4 2 ≠ 2 then some 0x04
  else if fld h 6 1 < 1 ∨ 3 < fld h 6 1 then some 0x06
  else if 1 < fld h 7 1 then some 0x07
  else if bit (fld h 0xC 1) 0 != part then some 0x0C
  else if hdTotal h < tableEnd h then some 0x20
  else if hdSegments h = 0 ∨ 256 < hdSegments h then some 0x28
  else if 7 < hdSlot h then some 0x2A
  else none
/-- The signature of R401 with the key of KEY_SLOT, which is neither empty nor revoked. -/
def imageSigned (o : Otp) (h : List Byte) : Bool :=
  let s := o.slot (hdSlot h)
  s.st == .valid && ecdsaVerify (padTo 64 s.key) (h.take 0x60) (slice h 0x60 64)
/-- The checks made when the header has arrived. -/
def headerErr (part : Bool) (o : Otp) (h : List Byte) : Option ImgErr :=
  match headerField part h with
  | some f => some { code := 0x0806, d0 := f }
  | none => if imageSigned o h then none else some { code := 0x0803, d0 := 0x60 }

/-- OFFSET of table entry `i`. -/
def segOff (t : List Byte) (i : Nat) : Nat := fld t (64 * i) 8
/-- LENGTH of table entry `i`. -/
def segLen (t : List Byte) (i : Nat) : Nat := fld t (64 * i + 8) 8
/-- IDENTITY of table entry `i`. -/
def segId (t : List Byte) (i : Nat) : List Byte := slice t (64 * i + 16) 16
/-- SEG_HASH of table entry `i`. -/
def segHash (t : List Byte) (i : Nat) : List Byte := slice t (64 * i + 32) 32
/-- A table entry that breaks R402. -/
def segBad (h t : List Byte) (i : Nat) : Bool :=
  let a := segOff t i
  let n := segLen t i
  a % 64 != 0 || decide (a < tableEnd h) || decide (n < 64) || decide (2 ^ 32 < n) || decide (hdTotal h < a + n) ||
  (List.range i).any fun j => decide (a < segOff t j + segLen t j) && decide (segOff t j < a + n)
/-- The checks made when the table has arrived. -/
def tableErr (h t : List Byte) : Option ImgErr :=
  match (List.range (hdSegments h)).find? (segBad h t) with
  | some i => some { code := 0x0806, d0 := 0x100 + 64 * i, d1 := i }
  | none => if sha256 t = hdBody h then none else some { code := 0x0803, d0 := 0x100 }
/-- Whether an image addresses the device, and the segment that it keeps: the header field or the table that names another
device, or the segment's index (R403, R33). -/
def imageSegment (o : Otp) (pos : Nat) (h t : List Byte) : Sum Nat Nat :=
  if fld h 8 2 ≠ 0x4896 then .inl 0x08
  else if !bit (fld h 0xA 1) o.stepping then .inl 0x0A
  else if !bit (fld h 0xB 1) o.ordering then .inl 0x0B
  else match (List.range (hdSegments h)).find? fun i =>
      if fld h 7 1 = 0 then decide (segId t i = o.uniqueId) else bit (fld (segId t i) 0 8) pos with
    | some i => .inr i
    | none => .inl 0x100

/-! ### The records of a segment (R404-R407) -/

/-- A clause configuration: its offset and length in the segment, and its parts (R405). -/
structure ImgClause where
  off      : Nat
  len      : Nat
  contract : List Byte
  recs     : List (List Byte)
  sigTab   : List Byte
  durable  : List (List Byte)
  relocs   : List (List Byte)
  /-- Offset of the relocation records in the segment. -/
  relOff   : Nat
  deriving DecidableEq, Repr

/-- A preset record (R407): its offset in the segment, and the whole record. -/
structure ImgPreset where
  off : Nat
  raw : List Byte
  deriving DecidableEq, Repr

/-- INDEX. -/
def ImgPreset.index (x : ImgPreset) : Nat := fld x.raw 0 2
/-- SUB. -/
def ImgPreset.sub (x : ImgPreset) : Nat := fld x.raw 2 1
/-- RTYPE. -/
def ImgPreset.rtype (x : ImgPreset) : Nat := fld x.raw 3 1
/-- CLAUSE_ID. -/
def ImgPreset.clause (x : ImgPreset) : Nat := fld x.raw 4 2
/-- LSB and WIDTH. -/
def ImgPreset.field (x : ImgPreset) : Nat × Nat := (fld x.raw 8 1, fld x.raw 9 1)
/-- The value. -/
def ImgPreset.value (x : ImgPreset) : List Byte := slice x.raw 16 (fld x.raw 6 2)

/-- A field of a relocation: a WIDTH of 1 up, within 64 bits, of the width that the type states (R409, R410). -/
def fieldOk (t lsb width : Nat) : Bool :=
  decide (1 ≤ width) && decide (lsb + width ≤ 64) &&
  (match t with
   | 5 => width == 48
   | 6 => width == 19
   | 7 => width == 14
   | 8 => width == 48
   | _ => true)

/-- A segment's parts, each with the offset of the malformed record after its last whole one. -/
structure ImgParts where
  clauses     : List ImgClause
  bad         : Option Nat
  sentences   : List Sentence
  badSentence : Option Nat
  presets     : List ImgPreset
  badPreset   : Option Nat
  deriving DecidableEq, Repr

/-- Limits of sections A, B and C (R406). -/
def sectionLimits : Kind → Nat × Nat × Nat
  | .noun => (16, 0, 0)
  | .verb => (32768, 0, 0)
  | .adverb => (32768, 0, 0)
  | .conj => (65536, 65536, 32768)
/-- The length of the cell record that starts with these bytes (R406; the header is padded to 64 B). -/
def recLength (r : List Byte) : Nat := recQ r + 576 + 256
/-- The cell record of a position at the start of `bs`, where it is well formed. -/
def cellRecord (c : LCell) (bs : List Byte) : Option (List Byte) :=
  let k := kindAt c.row c.col
  let l := recLens bs
  let m := sectionLimits k
  if bs.length < 32 ∨ fld bs 0 1 ≠ k.code ∨ m.1 < l.1 ∨ m.2.1 < l.2.1 ∨ m.2.2 < l.2.2 ∨ (k = .noun ∧ l.1 ≠ 16) ∨
      fld bs 4 4 ≠ recLength bs ∨ bs.length < recLength bs then none
  else some (bs.take (recLength bs))
/-- The cell records of positions, in order: the records, the bytes after them and their offset; or the offset of the first
malformed one. -/
def cellRecords : List LCell → List Byte → Nat → Sum Nat (List (List Byte) × List Byte × Nat)
  | [], bs, q => .inr ([], bs, q)
  | c :: cs, bs, q => match cellRecord c bs with
    | none => .inl q
    | some r => match cellRecords cs (bs.drop r.length) (q + r.length) with
      | .inl e => .inl e
      | .inr x => .inr (r :: x.1, x.2)
/-- `n` records of `size` bytes, padded to 64 B as a whole: the records and the bytes after them. -/
def takeTable (size n : Nat) (bs : List Byte) : Option (List (List Byte) × List Byte) :=
  if bs.length < size * n then none
  else some ((List.range n).map fun i => slice bs (size * i) size, bs.drop (upTo 64 (size * n)))

/-- The clause configuration at the start of `bs`, which stand at offset `p` of the segment: the offset of its first
malformed record, or the configuration. -/
def clauseConfig (ids : List Nat) (bs : List Byte) (p : Nat) : Sum Nat ImgClause :=
  let k := bs.take 64
  if bs.length < 64 ∨ ctId k = 0 ∨ ctId k = 0xFFFF ∨ ids.contains (ctId k) ∨ ctRows k < 1 ∨ 16 < ctRows k ∨ ctCols k < 1 ∨ 16 < ctCols k then .inl p
  else match cellRecords (rectCells 0 0 (ctRows k) (ctCols k)) (bs.drop 64) (p + 64) with
  | .inl e => .inl e
  | .inr (recs, bs1, q1) =>
    if q1 - p - 64 ≠ fld k 0x30 4 then .inl (p + 0x30)
    else match takeTable 24 (ctSignals k) bs1 with
    | none => .inl q1
    | some (sigs, bs2) =>
      let q2 := q1 + upTo 64 (24 * ctSignals k)
      match takeTable 32 (ctRegions k) bs2 with
      | none => .inl q2
      | some (regs, bs3) =>
        let q3 := q2 + upTo 64 (32 * ctRegions k)
        let n := fld k 0x34 4
        match takeTable 16 n bs3 with
        | none => .inl q3
        | some (rels, _) =>
          .inr { off := p, len := q3 + upTo 64 (16 * n) - p, contract := k, recs := recs, sigTab := sigs.flatten, durable := regs, relocs := rels, relOff := q3 }
/-- `n` clause configurations from offset `p` on: those before the first malformed one, its offset, and where they end. -/
def clauseConfigs (seg : List Byte) : Nat → List Nat → Nat → List ImgClause × Option Nat × Nat
  | 0, _, p => ([], none, p)
  | n + 1, ids, p => match clauseConfig ids (seg.drop p) p with
    | .inl e => ([], some e, p)
    | .inr c =>
      let r := clauseConfigs seg n (ctId c.contract :: ids) (p + c.len)
      (c :: r.1, r.2)

/-- A step (R58). -/
def stepOf (b : List Byte) : Step :=
  { offset := fld b 0 4, kind := fld b 4 1, grace := fld b 5 1, outId := fld b 6 2, inId := fld b 8 2, outId2 := fld b 0xA 2, inId2 := fld b 0xC 2 }
/-- `n` sentences from offset `p` on, each padded to 64 B: those before the first malformed one, its offset, and where they end. -/
def sentencesAt (seg : List Byte) : Nat → Nat → List Sentence × Option Nat × Nat
  | 0, p => ([], none, p)
  | n + 1, p =>
    let bs := seg.drop p
    let k := fld bs 2 2
    if bs.length < 16 then ([], some p, p)
    else if k < 1 ∨ 256 < k then ([], some (p + 2), p)
    else if bs.length < 16 + 16 * k then ([], some (p + 16), p)
    else
      let r := sentencesAt seg n (p + upTo 64 (16 + 16 * k))
      ({ id := fld bs 0 2, p := fld bs 4 4, repeats := fld bs 8 4, steps := (List.range k).map fun i => stepOf (slice bs (16 + 16 * i) 16) } :: r.1, r.2)
/-- `n` preset records from offset `p` on: those before the first malformed one, and its offset. -/
def presetsAt (seg : List Byte) : Nat → Nat → List ImgPreset × Option Nat
  | 0, _ => ([], none)
  | n + 1, p =>
    let bs := seg.drop p
    let len := upTo 16 (16 + fld bs 6 2)
    let x : ImgPreset := { off := p, raw := bs.take len }
    if bs.length < 16 ∨ bs.length < len then ([], some p)
    else if x.rtype ≠ 0 && (decide (9 < x.rtype) || !fieldOk x.rtype x.field.1 x.field.2) then ([], some p)
    else
      let r := presetsAt seg n (p + len)
      (x :: r.1, r.2)

/-- The parts of a segment; none where its header is malformed: a count out of range, an offset that is no multiple of 64 or lies
outside the segment, or parts, as far as they are present and whole, that do not follow the header and one another in the order
clauses, sentences, presets (R404). -/
def segmentParts (seg : List Byte) : Option ImgParts :=
  let nc := fld seg 0 2
  let ns := fld seg 2 2
  let np := fld seg 4 4
  let oc := fld seg 8 8
  let os := fld seg 0x10 8
  let op := fld seg 0x18 8
  let c := clauseConfigs seg nc [] oc
  let s := sentencesAt seg ns os
  let endC := if nc = 0 then 64 else if c.2.1.isSome then oc + 64 else c.2.2
  let endS := if ns = 0 then endC else if s.2.1.isSome then os + 16 else s.2.2
  if seg.length < 64 ∨ 1024 < nc ∨ 64 < ns ∨ ([oc, os, op].any fun x => x % 64 != 0 || decide (seg.length < x)) ∨
      (nc ≠ 0 ∧ oc < 64) ∨ (ns ≠ 0 ∧ os < endC) ∨ (np ≠ 0 ∧ op < endS) then none
  else
    let p := presetsAt seg np op
    some { clauses := c.1, bad := c.2.1, sentences := s.1, badSentence := s.2.1, presets := p.1, badPreset := p.2 }

/-! ### Checks that no region changes (R534 steps 2 and 3) -/

/-- The cells of a configuration with their records, in clause-relative row-major order. -/
def ImgClause.cellRecs (c : ImgClause) : List (LCell × List Byte) := (rectCells 0 0 (ctRows c.contract) (ctCols c.contract)).zip c.recs
/-- The port codes of a kind (R266). -/
def kindPorts : Kind → List Nat
  | .noun => []
  | .verb => [1, 2, 3, 4, 5]
  | .adverb => [6, 7, 8, 9]
  | .conj => [10, 11]
/-- A producer-table entry: a well-formed source ID that names no cell outside the region (R265, R270). -/
def producerOk (rows cols w : Nat) : Bool :=
  match w / 0x1000 with
  | 0 => decide (bits w 11 6 < 4 * rows) && decide (bits w 5 0 < 4 * cols)
  | 1 => w % 0x1000 == bits w 9 8 * 256 + bits w 3 0
  | 2 => w % 0x1000 == bits w 8 8 * 256 + bits w 2 0
  | 3 => w % 0x1000 == bits w 9 8 * 256
  | _ => false
/-- The first queue, or the cell, that breaks a rule of R265: reason and queue number. -/
def queueErr (kind : Kind) (entries rows cols : Nat) (s : SlotData) : Option (Nat × Nat) :=
  let qs := List.range 64
  let mem (g : Nat) : List Nat := qs.filter fun q => qGrouped s q && qGroup s q == g
  let first (p : Nat → Bool) (reason : Nat) : Option (Nat × Nat) := (qs.find? p).map fun q => (reason, q)
  let cell (b : Bool) (reason : Nat) : Option (Nat × Nat) := if b then some (reason, 0xFF) else none
  let combs := qs.filter (qComb s)
  let r1 := first (fun q => let n := qDepth s q
    qPort s q != 11 && ((decide (1 ≤ n) && decide (n ≤ 3)) || decide (1024 < n) || (n == 0 && qPort s q != 0))) 1
  let r2 := first (fun q => qPort s q != 0 && !(kindPorts kind).contains (qPort s q)) 2
  let r3 := cell (decide (entries < qs.foldl (fun n q => if qPort s q = 11 then n else n + qDepth s q) 0)) 3
  let r4 := cell ((List.range 8).any fun g => let m := mem g
    !m.isEmpty && (decide (m.length < 2) || decide (8 < m.length) || m.any fun q => qPort s q != qPort s (m.headD 0))) 4
  let r5 := cell ((List.range 8).any fun g => qPriority s g && (mem g).any fun q => qPort s q != 10) 5
  let r6 := first (fun q => qComb s q && (qDepth s q % qProds s q != 0 || qPort s q == 11 || qGrouped s q || qCfmt s q == 3)) 6
  let r7 := cell (decide (8 < combs.length)) 7
  let r8 := first (fun q => qComb s q && !(List.range (qProds s q)).all fun i => producerOk rows cols (fld s.qcfg (0x110 + 32 * combIx s q + 2 * i) 2)) 8
  [r1, r2, r3, r4, r5, r6, r7, r8].findSome? id
/-- The bank-mode map and the queue configuration of one cell (R246, R265). -/
def cellErr (id entries rows cols : Nat) (c : LCell) (r : List Byte) : Option ImgErr :=
  let s := recData r
  let k := kindAt c.row c.col
  match (if k = .noun then (List.range 16).find? fun b => !modeOk (fld s.secA b 1) else none) with
  | some b => some { code := 0x0202, d0 := relCode c.row c.col, d1 := b * 256 + fld s.secA b 1, clause := id }
  | none => (queueErr k entries rows cols s).map fun e => { code := 0x0304, d0 := relCode c.row c.col, d1 := e.1 * 256 + e.2, clause := id }
/-- The checks of every cell of a clause. -/
def cellsErr (c : ImgClause) : Option ImgErr :=
  let k := c.contract
  c.cellRecs.findSome? fun x => cellErr (ctId k) (ctEntries k) (ctRows k) (ctCols k) x.1 x.2

/-- The tier of a clause-relative durable address: whether it is LPDDR5X, and the offset (R353). -/
def durPlace (a : Nat) : Bool × Nat := if a < Config.lpBase then (false, a) else (true, a - Config.lpBase)
/-- Two ranges of clause-relative addresses meet. -/
def durMeet (a n b m : Nat) : Bool := decide (a < b + m) && decide (b < a + n)
/-- A durable-region record that the engine rejects, after the records before it (R353). -/
def durableBad (k : List Byte) (before : List (List Byte)) (r : List Byte) : Bool :=
  let n := fld r 8 8
  let copies (r : List Byte) : List Nat := [fld r 0x10 8, fld r 0x18 8]
  decide (63 < fld r 0 1) || (before.any fun b => fld b 0 1 == fld r 0 1) || n == 0 || n % Config.granuleBytes != 0 ||
  (copies r).any (fun a => a % Config.granuleBytes != 0 || decide ((if (durPlace a).1 then ctLp k else ctHbm k) < (durPlace a).2 + n)) ||
  durMeet (fld r 0x10 8) n (fld r 0x18 8) n ||
  before.any fun b => (copies b).any fun x => (copies r).any fun y => durMeet x (fld b 8 8) y n
/-- The first rejected durable-region record. -/
def durableErr (k : List Byte) : List (List Byte) → List (List Byte) → Option ImgErr
  | _, [] => none
  | before, r :: rs =>
    if durableBad k before r then some { code := 0x0805, d0 := 0x200 + fld r 0 1, d1 := 0, clause := ctId k }
    else durableErr k (before ++ [r]) rs
/-- The durable regions of a placed clause, from granule `g` on (R353, R355). -/
def durableList (hbm lp : Nat) : Nat → List (List Byte) → List Durable
  | _, [] => []
  | g, r :: rs =>
    let abs (a : Nat) : Nat := (if (durPlace a).1 then lp else hbm) + (durPlace a).2
    { index := fld r 0 1, len := fld r 8 8, copy0 := abs (fld r 0x10 8), copy1 := abs (fld r 0x18 8), g0 := g } ::
      durableList hbm lp (g + fld r 8 8 / Config.granuleBytes) rs

/-- The steps of a sentence, in order: the first that R59 rejects. -/
def stepErr (ids : List Nat) (p : Nat) : Nat → Nat → List Step → Option Nat
  | _, _, [] => none
  | i, last, s :: rest =>
    let name (x : Nat) : Bool := x == 0 || ids.contains x
    if 1 < s.kind || decide (s.offset < last) || !([s.outId, s.inId, s.outId2, s.inId2].all name) || (rest.isEmpty && decide (p ≤ s.offset)) then some i
    else stepErr ids p (i + 1) s.offset rest
/-- The first sentence that R59 rejects. -/
def sentenceErr (ids : List Nat) (ss : List Sentence) : Option ImgErr :=
  (ss.findSome? fun q => stepErr ids q.p 0 0 q.steps).map fun i => { code := 0x0805, d0 := 0x100 + i, d1 := 0 }

/-! ### Relocation (R409-R411) -/

/-- What a field receives (R410); none where no value of the type can hold it. -/
def relocValue (cl : Clause) (beat t f : Nat) : Option Nat :=
  match t with
  | 1 => some (f + cl.hbmBase)
  | 2 => some (f + cl.lpBase)
  | 3 => some (f + cl.row0)
  | 4 => some (f + cl.col0)
  | 5 =>
    let r := bits f 31 26 + cl.row0
    let h := bits f 25 21 + 2 * cl.ocol
    if r < 64 ∧ h < 32 then some (f - bits f 31 21 * 0x200000 + r * 0x4000000 + h * 0x200000) else none
  | 6 =>
    let r := bits f 18 13 + cl.row0
    let k := bits f 12 7 + cl.col0
    if r < 64 ∧ k < 64 then some (bits f 6 0 + r * 0x2000 + k * 128) else none
  | 7 => (if f < cl.signals then runAt cl.runs f else none).map fun x => sigCode x.1 x.2
  | 8 => (if f < cl.signals then runAt cl.runs f else none).map fun x => signalAddr x.1 x.2
  | 9 => some (f + beat)
  | _ => none
/-- Patches bits of a number; none where the new value does not fit. -/
def patchBits (w lsb width : Nat) (f : Nat → Option Nat) : Option Nat :=
  let old := bits w (lsb + width - 1) lsb
  match f old with
  | some v => if v < 2 ^ width then some (w - old * 2 ^ lsb + v * 2 ^ lsb) else none
  | none => none
/-- Applies relocation record `i`, at image offset `ioff`, to a clause's cell records; a BEAT record is kept for the data
preset (R411). -/
def applyReloc (ioff i : Nat) (r : List Byte) (cl : Clause) : Sum ImgErr Clause :=
  let t := fld r 0 1
  let lsb := fld r 1 1
  let width := fld r 2 1
  let cell := fld r 4 4
  let off := fld r 8 4
  let err : ImgErr := { code := 0x0807, d0 := ioff, d1 := i, clause := cl.id }
  match cl.recs[cell]? with
  | none => .inl err
  | some rec =>
    if t < 1 ∨ 9 < t ∨ fieldOk t lsb width = false ∨ rec.length < off + 8 then .inl err
    else if t = 9 then
      (let b := recB rec
       if fld rec 0 1 ≠ 3 ∨ off < b ∨ b + (recLens rec).2.1 < off + (lsb + width + 7) / 8 then .inl err
       else .inr { cl with beatRel := cl.beatRel ++ [{ cell := cell, off := off - b, lsb := lsb, width := width, ioff := ioff, idx := i }] })
    else match patchBits (fld rec off 8) lsb width (relocValue cl 0 t) with
      | some v => .inr { cl with recs := cl.recs.set cell (setFld rec off 8 v) }
      | none => .inl err
/-- Applies relocation records from the `i`-th on; they start at image offset `base`. -/
def applyRelocs (base : Nat) : Nat → List (List Byte) → Clause → Sum ImgErr Clause
  | _, [], cl => .inr cl
  | i, r :: rs, cl => match applyReloc (base + 16 * i) i r cl with
    | .inl e => .inl e
    | .inr cl => applyRelocs base (i + 1) rs cl
/-- The value of a preset of object `idx` with its field patched in the 64-bit window at its start, which is the number that the
object's own layout makes of those bytes: least significant byte first in a schedule entry (R348), most significant byte first
elsewhere, as a host WRITE has them (R434, R459; DEDUCED, notes/assumptions/34). -/
def patchValue (idx : Nat) (v : List Byte) (lsb width : Nat) (f : Nat → Option Nat) : Option (List Byte) :=
  if idx = 0x4010 then (patchBits (fld v 0 8) lsb width f).map fun w => setFld v 0 8 w
  else
    let n := min 8 v.length
    (patchBits (beNat (v.take n)) lsb width f).bind fun w => if w < 256 ^ n then some (beBytes n w ++ v.drop n) else none

end Sys2Proof.Machine
end

