-- ==== Sys2Proof/Machine/Schedule.lean ====
section
/-! DEFINITION. The schedule table, sentences and switches (R51-R61, R348-R352, R486). -/
namespace Sys2Proof.Machine

/-! ### Entries and their order (R351) -/

/-- An entry of the schedule table. -/
def schedEntry (d : Dev) (n : Nat) : SchedEntry := NMap.get {} d.plan.sched n
/-- An entry acts at the beat at hand; ACTION NONE has no effect to wait for. -/
def entryDue (d : Dev) (e : SchedEntry) : Bool := e.valid && e.action != 0 && e.beat == d.beat.count
/-- The epoch commit of this beat is still to act: it acts before every other entry and step (R359). -/
def commitDue (d : Dev) : Bool := entryDue d (schedEntry d 0) && decide (d.epoch.state ≤ 1)
/-- The step that a running sentence stands at, where it executes at the beat at hand (R59). -/
def stepDue (d : Dev) (q : Sentence) : Option Step :=
  if q.running && !q.held && decide (stepBeat q = some d.beat.count) then q.steps[q.next]? else none
/-- The turn of entry `n` has come: it is due, no entry before it in the order of R351 is, and for a later phase no step. -/
def entryTurn (d : Dev) (n : Nat) : Bool :=
  let e := schedEntry d n
  entryDue d e && n != 0 && !commitDue d &&
  (d.plan.sched.all fun m => m.1 == 0 || m.1 == n || !entryDue d m.2 || decide (e.phase < m.2.phase) || (m.2.phase == e.phase && decide (n < m.1))) &&
  (e.phase == 0 || d.plan.sentences.all fun q => (stepDue d q).isNone)
/-- The turn of a sentence's step has come: no entry of phase 0 and no sentence of a lower ID is due before it. -/
def stepTurn (d : Dev) (sid : Nat) : Bool :=
  !commitDue d && (d.plan.sched.all fun m => m.1 == 0 || !entryDue d m.2 || m.2.phase != 0) &&
  d.plan.sentences.all fun q => decide (sid ≤ q.id) || (stepDue d q).isNone
/-- After an entry acts its BEAT goes on by PERIOD, or it is fired (R351). -/
def afterEntry (e : SchedEntry) : SchedEntry :=
  if e.period = 0 then { e with fired := true, valid := false } else { e with beat := e.beat + e.period }
/-- Changes the schedule table. -/
def setEntry (n : Nat) (e : SchedEntry) (d : Dev) : Dev := { d with plan := { d.plan with sched := NMap.set {} d.plan.sched n e } }
/-- Entry `n` acts with action `act` where its turn has come (R349, R351); while HELD only entry 0 acts (R352). -/
def schedAct (n act : Nat) (f : SchedEntry → Dev → Dev) (d : Dev) : Dev :=
  let e := schedEntry d n
  if booted d && d.ctl.state == .running && entryTurn d n && e.action == act then setEntry n (afterEntry e) (f e d) else d
/-- SCHEDULE_TARGET of an entry (R351). -/
def badTarget (n cause : Nat) (d : Dev) : Dev := recPlain 0x0908 0 0 n cause d

/-! ### Switches (R53-R57) -/

/-- The detail word of SWITCH_LATE (R57). -/
def SwSrc.word : SwSrc → Nat
  | .entry n => 0xFFFF0000 + n
  | .step sid idx => sid * 0x10000 + idx
/-- A switch is due: it goes at once, or it is late and waits (R55, R57). -/
def makeSwitch (outs ins : List Nat) (src : SwSrc) (grace : Nat) (d : Dev) : Dev :=
  let w : Switch := { outs := outs.filter (· != 0), ins := ins.filter (· != 0), src := src, beat := d.beat.count, first := d.beat.count, grace := grace, stage := .go }
  let add (w : Switch) (d : Dev) : Dev := { d with plan := { d.plan with switches := d.plan.switches ++ [w] } }
  if w.outs.isEmpty && w.ins.isEmpty then d
  else match holdsBack d w with
  | none => add w d
  | some id => add { w with stage := .late } (recPlain 0x0902 0 id src.word 0 d)
/-- The `k`-th switch. -/
def switchAt (d : Dev) (k : Nat) : Option Switch := d.plan.switches[k]?
/-- Changes the `k`-th switch. -/
def updSwitch (k : Nat) (f : Switch → Switch) (d : Dev) : Dev := { d with plan := { d.plan with switches := mapAt k f d.plan.switches } }
/-- The `k`-th switch ends. -/
def dropSwitch (k : Nat) (d : Dev) : Dev := { d with plan := { d.plan with switches := d.plan.switches.eraseIdx k } }
/-- The device is RUNNING or HELD (R456: a switch that has begun completes its steps). -/
def inRun (d : Dev) : Bool := booted d && (d.ctl.state == .running || d.ctl.state == .held)

/-- SWITCH_CLOSE_OUT (R55 step 1), at the switch's beat, and where HELD comes in that beat too (R456). A switch that brings nothing in keeps its cells busy for this beat and the next (R56). -/
def execSwitchCloseOut (k : Nat) (s : State) : Out :=
  onDev (fun d => match switchAt d k with
    | some w =>
      if inRun d && w.stage == .go && w.beat == d.beat.count then
        let d := w.outs.foldl (fun d id => match clauseOf d id with
          | some cl => closeOut cl d
          | none => d) d
        updSwitch k (fun w => { w with stage := if w.ins.isEmpty then .active else .closed }) d
      else d
    | none => d) s
/-- The first cell of a clause's region whose ACTIVE slot belongs to another clause (R53). -/
def busyCell (d : Dev) (cl : Clause) : Option LCell := cl.cells.find? fun c => (activeSlot (cellAt d c)).isSome
/-- SWITCH_ACTIVATE_IN (R53, R55 step 2, R297). -/
def execSwitchActivateIn (k : Nat) (s : State) : Out :=
  onDev (fun d => match switchAt d k with
    | some w =>
      if inRun d && w.stage == .closed && decide (w.beat + 1 ≤ d.beat.count) then
        let r := w.ins.foldl (fun (p : List Nat × Dev) id => match clauseOf p.2 id with
          | some cl => match busyCell p.2 cl with
            | some c => (p.1, recCell 0x0903 1 c id none 0 0 p.2)
            | none => (p.1 ++ [id], activate cl p.2)
          | none => p) ([], d)
        updSwitch k (fun w => { w with stage := .active, ins := r.1 }) r.2
      else d
    | none => d) s
/-- SWITCH_START_IN (R55 step 3). -/
def execSwitchStartIn (k : Nat) (s : State) : Out :=
  onDev (fun d => match switchAt d k with
    | some w =>
      if inRun d && w.stage == .active && decide (w.beat + 2 ≤ d.beat.count) then
        dropSwitch k (w.ins.foldl (fun d id => match clauseOf d id with
          | some cl => startCores cl d
          | none => d) d)
      else d
    | none => d) s
/-- SWITCH_LATE_RECHECK (R57): at phase 0 of each later beat, up to the grace. -/
def execSwitchLateRecheck (k : Nat) (s : State) : Out :=
  onDev (fun d => match switchAt d k with
    | some w =>
      if booted d && d.ctl.state == .running && w.stage == .late && decide (w.beat < d.beat.count) && decide (d.beat.count ≤ w.first + w.grace) then
        updSwitch k (fun w => { w with beat := d.beat.count, stage := if (holdsBack d w).isNone then .go else .late }) d
      else d
    | none => d) s
/-- Holds a sentence (R57, R61). -/
def holdSentence (sid : Nat) (d : Dev) : Dev :=
  { d with plan := { d.plan with sentences := mapFirst (fun q => q.id == sid) (fun q => { q with held := true }) d.plan.sentences } }
/-- SWITCH_GRACE_EXPIRY (R57). -/
def execSwitchGraceExpiry (k : Nat) (s : State) : Out :=
  onDev (fun d => match switchAt d k with
    | some w =>
      if booted d && d.ctl.state == .running && w.stage == .late && w.beat == d.beat.count && decide (w.first + w.grace ≤ d.beat.count) then
        let id := (holdsBack d w).getD ((w.outs ++ w.ins).headD 0)
        let d := recPlain 0x0902 1 id w.src.word w.grace d
        let d := w.outs.foldl (fun d id => updClause id (fun c => { c with held := true }) d) d
        let d := match w.src with
          | .step sid _ => holdSentence sid d
          | .entry _ => d
        enterHeld 4 (dropSwitch k d)
      else d
    | none => d) s

/-! ### Sentences (R52, R58-R61) -/

/-- After a step: the next one, the next repetition, or the end (R58). -/
def nextStep (q : Sentence) : Sentence :=
  if q.next + 1 < q.steps.length then { q with next := q.next + 1 }
  else if q.repeats ≠ 0 ∧ q.repeats ≤ q.rep + 1 then { q with next := 0, rep := q.rep + 1, running := false }
  else { q with next := 0, rep := q.rep + 1 }
/-- Changes a sentence. -/
def updSentence (sid : Nat) (f : Sentence → Sentence) (d : Dev) : Dev :=
  { d with plan := { d.plan with sentences := mapFirst (fun q => q.id == sid) f d.plan.sentences } }
/-- A loaded sentence. -/
def sentenceOf (d : Dev) (sid : Nat) : Option Sentence := d.plan.sentences.find? fun q => q.id == sid
/-- The next step of a sentence of kind `kind` executes where its turn has come. -/
def sentenceAct (sid kind : Nat) (f : Sentence → Step → Dev → Dev) (d : Dev) : Dev :=
  match sentenceOf d sid with
  | none => d
  | some q => match stepDue d q with
    | none => d
    | some st =>
      if booted d && d.ctl.state == .running && st.kind == kind && stepTurn d sid then updSentence sid nextStep (f q st d) else d
/-- A clause is FILLING in some cell: a fill of it is under way, or a shim has taken a place of it over (R52, R91). -/
def clauseFilling (d : Dev) (c : Clause) : Bool :=
  c.filling || c.cells.any fun x => let s := slotOf (cellAt d x) c.slot; s.st == .filling && s.clause == c.id
/-- SENTENCE_FILL (R52). -/
def execSentenceFill (sid : Nat) (s : State) : Out :=
  onDev (sentenceAct sid 0 fun q st d =>
    if st.inId = 0 then d
    else match clauseOf d st.inId with
      | none => d
      | some cl =>
        if clauseFilling d cl || clauseActive d cl then recPlain 0x0908 0 0 (0x100 + q.next) 0 d else beginFill cl d) s
/-- SENTENCE_SWITCH (R55, R57, R59). -/
def execSentenceSwitch (sid : Nat) (s : State) : Out :=
  onDev (sentenceAct sid 1 fun q st d => makeSwitch [st.outId, st.outId2] [st.inId, st.inId2] (.step q.id q.next) st.grace d) s
/-- FILL_COMPLETE (R51, R52). -/
def execFillComplete (clause : Nat) (s : State) : Out :=
  onDev (fun d => match clauseOf d clause with
    | some cl => if booted d && cl.filling then endFill cl d else d
    | none => d) s

/-! ### Actions (R349) -/

/-- Entry `n` acts on the clause that ARG0 [15:0] names; cause 1 where it is not loaded (R351). -/
def onClause (n : Nat) (f : Clause → SchedEntry → Dev → Dev) (e : SchedEntry) (d : Dev) : Dev :=
  match clauseOf d (bits e.arg0 15 0) with
  | some cl => f cl e d
  | none => badTarget n 1 d
/-- SCHED_SWITCH (R349, R55, R57). -/
def execSchedSwitch (n : Nat) (s : State) : Out :=
  onDev (schedAct n 1 fun e d =>
    let id (i : Nat) : Nat := bits e.arg0 (16 * i + 15) (16 * i)
    if [id 0, id 1, id 2, id 3].all fun i => i == 0 || (clauseOf d i).isSome then
      makeSwitch [id 0, id 2] [id 1, id 3] (.entry n) (bits e.arg1 7 0) d
    else badTarget n 1 d) s
/-- SCHED_HOLD (R349, R445). -/
def execSchedHold (n : Nat) (s : State) : Out :=
  onDev (schedAct n 2 fun e d =>
    if bits e.arg0 15 0 = 0xFFFF then enterHeld 2 d
    else onClause n (fun cl _ d => updClause cl.id (fun c => { c with held := true }) d) e d) s
/-- Starts a sentence at beat `b` (R59). -/
def startSentence (b : Nat) (q : Sentence) : Sentence := { q with running := true, held := false, start := b, rep := 0, next := 0 }
/-- An action of kind SENTENCE with its stop bit as given. -/
def schedSentence (n : Nat) (stop : Bool) (f : Sentence → Sentence) (d : Dev) : Dev :=
  if bit (schedEntry d n).arg0 16 == stop then
    schedAct n 3 (fun e d =>
      let sid := bits e.arg0 15 0
      if (sentenceOf d sid).isSome then updSentence sid f d else badTarget n 2 d) d
  else d
/-- SCHED_SENTENCE_START (R59, R349). -/
def execSchedSentenceStart (n : Nat) (s : State) : Out :=
  onDev (fun d => schedSentence n false (startSentence d.beat.count) d) s
/-- SCHED_SENTENCE_STOP (R58, R349). -/
def execSchedSentenceStop (n : Nat) (s : State) : Out :=
  onDev (schedSentence n true fun q => { q with running := false }) s
/-- A queue control on each masked queue of every cell of a region in which the clause is ACTIVE (R275, R349). -/
def queueSet (op : QOp) (cl : Clause) (mask : Nat) (d : Dev) : Dev :=
  cl.cells.foldl (fun d c =>
    if activeId (cellAt d c) = cl.id then (List.range 64).foldl (fun d q => if bit mask q then controlQueue c q op d else d) d else d) d
/-- SCHED_QOPEN_SET (R349). -/
def execSchedQopenSet (n : Nat) (s : State) : Out := onDev (schedAct n 4 (onClause n fun cl e d => queueSet .qopen cl e.arg1 d)) s
/-- SCHED_QCLOSE_SET (R349). -/
def execSchedQcloseSet (n : Nat) (s : State) : Out := onDev (schedAct n 5 (onClause n fun cl e d => queueSet .qclose cl e.arg1 d)) s
/-- The I/O die adjacent to a frame (R533). -/
def dieOfFrame (f : Nat) : Nat := f / 2
/-- An operation that the I/O die adjacent to a store issues itself (R533). -/
def dieSignal (op : SigOp) (f w : Nat) (v : W64) (clause : Nat) (d : Dev) : Dev :=
  sigIssue op { src := .ioDie (dieOfFrame f), frame := f, word := w, v := v, clause := clause, off := 0 } .own d
/-- SCHED_RAISE (R349, R351, R533). -/
def execSchedRaise (n : Nat) (s : State) : Out :=
  onDev (schedAct n 6 (onClause n fun cl e d =>
    let i := bits e.arg0 27 16
    match (if i < cl.signals then runAt cl.runs i else none) with
    | some (f, w) => dieSignal .add f w (BitVec.ofNat 64 e.arg1) cl.id d
    | none => badTarget n 3 d)) s
/-- SCHED_SELFTEST (R349, R486, R487). -/
def execSchedSelftest (n : Nat) (s : State) : Out :=
  onDevO (fun o d => schedAct n 7 (fun e d =>
    (List.range 4).foldl (fun d f =>
      if bit (bits e.arg0 35 32) f then askSlice (retireMap o d) f (bits e.arg0 7 0) (bits e.arg0 31 16) none d else d) d) d) s
/-- SCHED_THROTTLE (R349, R524): the schedule step, in force from the next beat. -/
def execSchedThrottle (n : Nat) (s : State) : Out :=
  onDev (schedAct n 0xA fun e d =>
    let st := bits e.arg0 3 0
    { d with power := { d.power with schedStep := st, stepNext := max st (max d.power.powerStep d.power.thermStep) } }) s

end Sys2Proof.Machine
end

