-- ==== Sys2Proof/Machine/Retire.lean ====
section
/-! DEFINITION. Retirement (R89, R91, R256, R260, R293, R490, R493-R496): what a retired unit changes, the check of R48 and
the reloads that the device starts on its own account. -/
namespace Sys2Proof.Machine

/-! ### The check of R48 -/

/-- The device under tables other than those in force. -/
def underTables (r : NMap Remap) (t : NMap DetEntry) (d : Dev) : Dev := { d with mesh := { d.mesh with remap := r, detour := t } }
/-- The device under the tables that a reload or load brings, with shims assigned (R91). -/
def shimView (m : List Nat) (d : Dev) : Dev := let x := newTables m (fun _ => true) d; underTables x.1 x.2.1 d
/-- The device under the tables that the next change brings. -/
def comingDev (d : Dev) : Dev :=
  match d.mesh.next with
  | some x => underTables x.1 x.2 d
  | none => d
/-- A reload of a clause is under way or queued over the same rectangle, or of the whole clause. -/
def reloadAsked (d : Dev) (id mode : Nat) (rect : Nat × Nat × Nat × Nat) : Bool :=
  d.config.reloads.any fun r => r.clause == id && r.stage == .queued && (r.mode == 2 || (r.mode == mode && decide (r.rect = rect)))
/-- A logical bench of the device lies in a clause's region. -/
def Clause.hasBench (c : Clause) (b : Nat × Nat) : Bool :=
  decide (c.orow ≤ b.1) && decide (b.1 < c.orow + c.benchRows) && decide (c.ocol ≤ b.2) && decide (b.2 < c.ocol + c.benchCols)
/-- The device's own RELOAD of a clause whose contract its region no longer satisfies: MODE 0 over the bench, as logical bench
row and column, where its shim comes in, else MODE 2; CONTRACT_UNMET where no region satisfies it (R48, R495). -/
def reloadAfter (ord : Nat) (m : List Nat) (bench : Option (Nat × Nat)) (cl : Clause) (d : Dev) : Dev :=
  match stillMet (comingDev d) cl with
  | none => d
  | some _ => if !((bench.map cl.hasBench).getD true) then d else
    let d := if clauseActive d cl then updClause cl.id (fun c => { c with held := true }) d else d
    let v := shimView m d
    let own := (stillMet v cl).isNone
    match (if own then .inr () else (match searchPlace ord v cl.contract cl.id with
      | .inl u => .inl u
      | .inr _ => .inr ()) : Sum Unmet Unit) with
    | .inl u => let w := unmetDetails v cl.contract u; recPlain 0x0805 1 cl.id w.1 w.2 d
    | .inr _ =>
      let rect := match bench with
        | some b => if own then (b.1 - cl.orow, b.2 - cl.ocol, 1, 1) else (0, 0, cl.benchRows, cl.benchCols)
        | none => (0, 0, cl.benchRows, cl.benchCols)
      let mode := if own then 0 else 2
      if reloadAsked d cl.id mode rect then d
      else { d with config := { d.config with reloads := d.config.reloads ++
        [{ op := none, clause := cl.id, mode := mode, rect := rect, at_ := d.beat.count + 1, auto := true }] } }
/-- The check of R48 on the loaded clauses; it waits for the end of a load (R417 step 4). -/
def recheck (m : List Nat) (bench : Option (Nat × Nat)) (o : Otp) (d : Dev) : Dev :=
  if d.ctl.state == .inert || d.ctl.state == .loading then d
  else d.plan.clauses.foldl (fun d cl => reloadAfter o.ordering m bench cl d) d

/-! ### Units (R493) -/

/-- The kind, place and unit of a map entry. -/
def entryUnit (e : Nat) : Nat × Nat × Nat := (bits e 63 60, bits e 55 48, bits e 31 0)
/-- An entry for the unit stands in the map already. -/
def retiredAlready (m : List Nat) (e : Nat) : Bool := m.any fun x => decide (entryUnit x = entryUnit e) && (bit x 59 || !bit e 59)
/-- The logical bench, as bench row and column of the device, behind which a physical bench stands. -/
def logicalBench (d : Dev) (f unit_ : Nat) : Option (Nat × Nat) :=
  (logicalOf d (physIx f (unit_ / 9 * 4) (unit_ % 9 * 4))).map fun c => (c.row / 4, c.col / 4)
/-- No shim is left for a bench row in which this bench fails: the shim is retired or another bench's, or is itself the bench
that fails and stands for a bench or is due to one (R72, R493). -/
def shimGone (m : List Nat) (f unit_ : Nat) : Bool :=
  let r := unit_ / 9
  let due := (List.range 8).countP fun b => benchRetired m (f, r, b)
  if unit_ % 9 = 8 then (shimOwner m f r).isSome else benchRetired m (f, r, 8) || decide (1 < due)
/-- The cells of a retired bench: each is fenced, its slots become EMPTY, and no clause controls it (R52, R88). Its clauses keep
which of the cells they were ACTIVE in (notes/assumptions/16). -/
def retireCells (f unit_ : Nat) (d : Dev) : Dev :=
  (unitCells f 1 unit_).foldl (fun d p =>
    let x := cellP d p
    let d := match logicalOf d p, activeSlot x with
      | some c, some _ => updClause (activeId x) (fun k => { k with gone := k.gone ++ [c] }) d
      | _, _ => d
    updP p (fun x => { x with slots := [], conj := { x.conj with st := .off, stall := none } }) (fenceCell .retired p d)) d
/-- A retired bench's logical bench takes AVAIL 0, and its dead routers become BLOCKED, with the next table change; one that is
asked for already is made anew, so that retirements of one beat make one change (R84, R91, R495, R497). -/
def withdrawBench (m : List Nat) (d : Dev) : Dev := askTables m noShims d
/-- Retires a bench (R89, R495): its entry, its cells, the remap table, the check of R48. -/
def retireBench (f unit_ : Nat) (dead : Bool) (o : Otp) (d : Dev) : Otp × Dev :=
  let e := retireEntry 1 f unit_ dead
  if retiredAlready (retireMap o d) e then (o, d)
  else
    let b := logicalBench d f unit_
    let r := retireAppend e o d
    let m := retireMap r.1 r.2
    let d := if shimGone m f unit_ then spareExhausted e r.2 else r.2
    (r.1, recheck m b r.1 (withdrawBench m (retireCells f unit_ d)))
/-- Retires a cell, and its bench (R495). -/
def retireCell (f cell : Nat) (o : Otp) (d : Dev) : Otp × Dev :=
  let e := retireEntry 2 f cell false
  if retiredAlready (retireMap o d) e then (o, d)
  else
    let r := retireAppend e o d
    retireBench f (cell / 36 / 4 * 9 + cell % 36 / 4) false r.1 r.2
/-- A Noun bank fails: the first to fail is replaced by the spare, which holds no uncorrectable line (R255, R256). -/
def failBank (b : Nat) (x : Cell) : Cell :=
  { x with noun := { x.noun with
    failedBanks := x.noun.failedBanks ++ [b]
    bad := if x.noun.failedBanks.isEmpty then x.noun.bad.filter fun a => bankOf a != b else x.noun.bad } }
/-- Retires a Noun bank: the spare takes its place, and a second failed bank makes the cell unusable (R256). -/
def retireBank (f unit_ : Nat) (o : Otp) (d : Dev) : Otp × Dev :=
  let e := retireEntry 3 f unit_ false
  if retiredAlready (retireMap o d) e then (o, d)
  else
    let p := f * 1152 + unit_ / 32
    let r := retireAppend e o (updP p (failBank (unit_ % 32)) d)
    if 2 ≤ (cellP r.2 p).noun.failedBanks.length then retireBench f (unit_ / 32 / 36 / 4 * 9 + unit_ / 32 % 36 / 4) false r.1 r.2 else r
/-- Retires a queue entry (R260). -/
def retireQueueEntry (f unit_ : Nat) (o : Otp) (d : Dev) : Otp × Dev :=
  let e := retireEntry 4 f unit_ false
  if retiredAlready (retireMap o d) e then (o, d)
  else
    let p := f * 1152 + unit_ / 1024
    let r := retireAppend e o (updP p (fun x => { x with badEntries := x.badEntries ++ [unit_ % 1024] }) d)
    let d := if 64 < (cellP r.2 p).badEntries.length then spareExhausted e r.2 else r.2
    (r.1, recheck (retireMap r.1 d) none r.1 d)
/-- Retires a signal word, or a spare word (R293). -/
def retireWord (f w : Nat) (o : Otp) (d : Dev) : Otp × Dev :=
  if retiredAlready (retireMap o d) (retireEntry 5 f w false) then (o, d)
  else if w < 4096 then failWord f w o d
  else failSpare f (w - 4096) o d
/-- Retires a page: it is copied into its spare (R317, R496). -/
def retirePage (dev pp : Nat) (o : Otp) (d : Dev) : Otp × Dev :=
  let e := pageEntry dev pp
  if retiredAlready (retireMap o d) e then (o, d)
  else
    let r := retireAppend e o d
    match pageBehind r.2 dev pp with
    | some pg =>
      if sparesLeft (retireMap r.1 r.2) r.2 dev ≠ 0 ∧ !r.2.tiers.copying.contains (dev, pg) then
        (r.1, { r.2 with tiers := { r.2.tiers with copying := r.2.tiers.copying ++ [(dev, pg)] } })
      else r
    | none => (r.1, noteSpares (retireMap r.1 r.2) dev r.2)
/-- Retires a lane: the spare lane carries it from the port's next training (R496). -/
def retireLane (p lane : Nat) (o : Otp) (d : Dev) : Otp × Dev :=
  let e := retireEntry 8 p lane false
  if retiredAlready (retireMap o d) e then (o, d)
  else retireAppend e o (if lane < 8 then updFab p (fun x => { x with spareNext := some lane }) d else d)
/-- Retires the unit of a map entry (R495, R496). -/
def retireUnit (e : Nat) (o : Otp) (d : Dev) : Otp × Dev :=
  let u := entryUnit e
  match u.1 with
  | 1 => retireBench u.2.1 u.2.2 (bit e 59) o d
  | 2 => retireCell u.2.1 u.2.2 o d
  | 3 => retireBank u.2.1 u.2.2 o d
  | 4 => retireQueueEntry u.2.1 u.2.2 o d
  | 5 => retireWord u.2.1 u.2.2 o d
  | 6 => retirePage u.2.1 u.2.2 o d
  | 7 => retirePage (8 + u.2.1) u.2.2 o d
  | _ => retireLane u.2.1 u.2.2 o d

/-! ### Table changes (R84) -/

/-- A clause's region holds the place of a retired bench: the retirement has checked the clause (R48, R495). -/
def overRetired (m : List Nat) (cl : Clause) : Bool :=
  cl.cells.any fun c => benchRetired m (frameOf c, c.row % 32 / 4, c.col % 32 / 4)
/-- The tables change, and clauses that no longer have what their contracts ask for, an available bench or a store that can be
reached, are handled as under R48 (R83, R84, R291). -/
def changeTables (o : Otp) (d : Dev) : Dev :=
  let n := applyTables d
  let m := retireMap o n
  if n.ctl.state == .inert || n.ctl.state == .loading then n
  else (n.plan.clauses.filter fun cl => (stillMet d cl).isNone && (stillMet n cl).isSome && !overRetired m cl).foldl
    (fun n cl => reloadAfter o.ordering m none cl n) n
/-- TABLE_CHANGE (R84): at phase 0 of a beat injection stops; once every flit injected under the old tables has been
delivered the new tables take effect. -/
def execTableChange (s : State) : Out :=
  onDevO (fun o d =>
    if d.mesh.next.isNone || (!d.mesh.drain && d.beat.cyc != 0) then d
    else if d.mesh.flits.any fun f => f.inj then { d with mesh := { d.mesh with drain := true } }
    else changeTables o d) s

/-! ### What a self-test finds (R490) -/

/-- The cell that a failure names: its own, or for a router the first of the bench. -/
def failCell (x : SliceFail) : Nat := if x.part = 2 then x.cell / 36 / 4 * 4 * 36 + x.cell % 36 / 4 * 4 else x.cell
/-- Retires what a failed part of frame `f` names. -/
def retireFail (f : Nat) (x : SliceFail) (o : Otp) (d : Dev) : Otp × Dev :=
  match x.part with
  | 2 => retireBench f (x.cell / 36 / 4 * 9 + x.cell % 36 / 4) true o d
  | 3 => retireBank f (x.cell * 32 + x.bank) o d
  | 4 => x.entries.foldl (fun r e => retireQueueEntry f (x.cell * 1024 + e) r.1 r.2) (o, d)
  | _ => retireCell f x.cell o d
/-- A failure that the frame's Jig can report (R490, R494). -/
def failOk (x : SliceFail) : Bool :=
  decide (x.cell < 1152) && decide (1 ≤ x.part) && decide (x.part ≤ 5) && decide (x.bank ≤ 16) && x.entries.all fun e => decide (e < 1024)
/-- The first failure: the lowest cell, then the lowest part. -/
def firstFailure : List SliceFail → Option SliceFail
  | [] => none
  | x :: l => match firstFailure l with
    | none => some x
    | some y => if failCell y < failCell x ∨ (failCell y = failCell x ∧ y.part < x.part) then some y else some x
/-- Detail word 0 of SELFTEST_FAIL and SLICE_OVERRUN. -/
def sliceWord (kind part unit_ : Nat) : Nat := kind * 0x1000000 + part * 0x10000 + unit_
/-- SELFTEST_FAIL of a unit of frame `f` (R490). -/
def selftestFail (f kind unit_ : Nat) (x : SliceFail) (d : Dev) : Dev :=
  recPhys 0x0A01 0 (f * 1152 + failCell x) 0 (sliceWord kind x.part unit_) (if x.part = 3 then x.bank else if x.part = 4 then x.entries.length else 0) d
/-- Retires every part that failed, in order. -/
def retireFails (f : Nat) (fails : List SliceFail) (o : Otp) (d : Dev) : Otp × Dev :=
  fails.foldl (fun r x => retireFail f x r.1 r.2) (o, d)

end Sys2Proof.Machine
end

