-- ==== Sys2Proof/Machine/Fabric.lean ====
section
/-! DEFINITION. Fabric links (R368, R376-R382, R395-R398), fabric frames received (R383-R394) and link notices (R397). -/
namespace Sys2Proof.Machine

/-! ### Link control (R378-R381) -/

/-- A port is UP and point-to-point. -/
def linkUp (d : Dev) (p : Nat) : Bool := portOk p && fabUp d p && (fabPort d p).p2p

/-- The frames of the replay buffer that ACK_SEQ does not cover (R380). -/
def uncovered (ack : Nat) (l : List FFrame) : List FFrame := l.filter fun f => decide (0x8000 ≤ (ack + 0x10000 - f.h.lseq) % 0x10000)
/-- Takes ACK_SEQ and the credits of a LINK_CTRL frame (R379, R380). -/
def takeAck (p : Nat) (lc : LinkCtrl) (d : Dev) : Dev :=
  let d := updFab p (fun x =>
    let r := uncovered lc.ackSeq x.replay
    { x with replay := r, resent := x.resent.drop (x.replay.length - r.length), cred0 := lc.cred0, cred1 := lc.cred1 }) d
  flushPort p (fabPort d p).waiting.length d
/-- Resends every unacknowledged frame in LSEQ order (R380). -/
def resendAll (p : Nat) (d : Dev) : Dev :=
  let fs := (fabPort d p).replay
  if fs.isEmpty then d
  else fs.foldl (fun d f => { d with tx := .fabric p f (fabEther d p (frameClass f.ty)) :: d.tx }) (updFab p (fun x => { x with resent := x.replay.zipIdx.map fun f => x.resent.getD f.2 0 + 1 }) d)

/-- LINK_CTRL_ACK (R378-R380). -/
def execLinkCtrlAck (p : Nat) (lc : LinkCtrl) (s : State) : Out := onDev (fun d => if linkUp d p then takeAck p lc d else d) s
/-- LINK_CTRL_NAK (R380). -/
def execLinkCtrlNak (p : Nat) (lc : LinkCtrl) (s : State) : Out := onDev (fun d => if linkUp d p then resendAll p (takeAck p lc d) else d) s
/-- REPLAY_TIMEOUT (R380). -/
def execReplayTimeout (p : Nat) (s : State) : Out := onDev (fun d => if linkUp d p then resendAll p d else d) s
/-- LINK_CTRL_SEND (R378). -/
def execLinkCtrlSend (p : Nat) (s : State) : Out :=
  onDev (fun d => if portOk p && fabUp d p then sendLink p 0 (linkCtrl d p) d else d) s
/-- HELLO_SEND (R378). -/
def execHelloSend (p : Nat) (s : State) : Out :=
  onDev (fun d =>
    let st := (fabPort d p).st
    if portOk p && booted d && d.ctl.state != .inert && (st == .training || st == .up) then sendLink p 2 (linkCtrl d p) d else d) s

/-! ### A lost neighbour (R395, R396) -/

/-- The payload of a LINK_NOTICE (R397). -/
def noticeBytes (d : Dev) (p cause : Nat) : List Byte :=
  beBytes 3 (d.ports.fabricId % 0x1000000) ++ beBytes 1 p ++ beBytes 3 (fabPort d p).peerId ++ beBytes 1 cause ++ beBytes 8 d.beat.count ++ List.replicate 8 0
/-- The neighbour of a port is lost (R396). -/
def fabLost (p cause : Nat) (d : Dev) : Dev :=
  let x := fabPort d p
  let d := updFab p (fun x => { x with
    st := .lost, waiting := [], replay := [], resent := [], lanesOut := if cause = 5 then some x.peerId else x.lanesOut }) d
  let d := (x.replay ++ x.waiting).foldl (fun d f => fabDead p f d) d
  let d := recPlain 0x0701 0 0 (p * 256 + cause) x.peerId d
  let n := noticeBytes d p cause
  let d := (List.range 6).foldl (fun d q => if q != p && (fabPort d q).st == .up then fabPut q (linkFrame d 10 n) d else d) d
  notify 5 0x2102 p n d
/-- NEIGHBOUR_SILENCE (R395 cause 1; a PFC pause of priority 4 stops the time). -/
def execNeighbourSilence (p : Nat) (s : State) : Out :=
  onDev (fun d => if portOk p && fabUp d p && ((fabPort d p).p2p || !(fabPort d p).pause4) then fabLost p 1 d else d) s
/-- PCS_LOCK_LOSS (R395 cause 2). -/
def execPcsLockLoss (p : Nat) (s : State) : Out := onDev (fun d => if portOk p && fabUp d p then fabLost p 2 d else d) s
/-- RESEND_LIMIT (R395 cause 3). -/
def execResendLimit (p : Nat) (s : State) : Out :=
  onDev (fun d => if linkUp d p && (fabPort d p).resent.any (fun n => decide (8 ≤ n)) then fabLost p 3 d else d) s

/-- HELLO (R368, R376-R379, R395 cause 4): a port that trains comes UP with fresh sequence numbers and credits, a lane
that is spared staying so, unless two lanes of the peer have failed (R398); on a port that is UP the acknowledgement and credits
count. -/
def execHello (p : Nat) (lc : LinkCtrl) (s : State) (mac : List Byte := []) : Out :=
  onDev (fun d =>
    let x := fabPort d p
    if !portOk p || !booted d || d.ctl.state == .inert then d
    else match x.st with
    | .training =>
      if x.lanesOut = some lc.fabricId then d
      else if lc.port ≠ p ^^^ 1 then recPlain 0x0706 0 0 (p * 256 + lc.port % 8) 0 d
      else updFab p (fun x => { x with
        st := .up, peerId := lc.fabricId, peerPort := lc.port, peerCaps := lc.caps % 2, peerMode := lc.mode, peerMac := mac
        txSeq := 0, rxSeq := 0, replay := [], resent := [], waiting := [], used0 := 0, used1 := 0, cred0 := 0, cred1 := 0, freed0 := 0, freed1 := 0
        pause3 := false, pause4 := false, xoff3 := false, xoff4 := false, rxCount := 0
        spared := if x.p2p && decide (lc.mode < 2) && lc.caps % 2 == 1 && x.spared.isNone then x.spareNext else x.spared }) d
    | .up => if lc.fabricId ≠ x.peerId ∨ lc.port ≠ x.peerPort then fabLost p 4 d else if x.p2p then takeAck p lc d else d
    | _ => d) s

/-! ### The spare lane (R381) -/

/-- Both ends run mode 0 or 1 and offer the spare lane. -/
def spareOffered (x : FabPort) : Bool := x.p2p && decide (x.peerMode < 2) && x.peerCaps % 2 == 1
/-- Lane `lane` moves to the spare lane from LSEQ `lseq`: LANE_SPARED and a retirement entry. -/
def spareLane (p lane lseq : Nat) (o : Otp) (d : Dev) : Otp × Dev :=
  let d := updFab p (fun x => { x with spared := some lane, spareGo := some (lane, lseq) }) d
  retireAppend (retireEntry 8 p lane false) o (recPlain 0x0704 0 0 (p * 256 + lane) 0 d)
/-- LANE_FAILURE (R381): SPARE_REQ names the lane; a second lane loses the link. -/
def execLaneFailure (p : Nat) (lane : Nat) (s : State) : Out :=
  onDev (fun d =>
    let x := fabPort d p
    if !linkUp d p || !spareOffered x || 8 < lane then d
    else match x.spared with
    | none => if lane = 8 then d else sendLink p 3 { linkCtrl d p with lane := lane } d
    | some l => if l = lane then d else fabLost p 5 d) s
/-- SPARE_REQ (R378-R381): its acknowledgement and credits count, and SPARE_GO answers it. -/
def execSpareReq (p : Nat) (lc : LinkCtrl) (s : State) : Out :=
  onBoth (fun o d =>
    let lane := lc.lane
    if !linkUp d p then (o, d)
    else
      let d := takeAck p lc d
      let x := fabPort d p
      if !spareOffered x || 7 < lane then (o, d)
      else match x.spared with
      | none => spareLane p lane x.txSeq o (sendLink p 4 { linkCtrl d p with lane := lane, spareLseq := x.txSeq } d)
      | some l => if l = lane then (o, d) else (o, fabLost p 5 d)) s
/-- SPARE_GO (R378-R381). -/
def execSpareGo (p : Nat) (lane lseq : Nat) (s : State) (lc : LinkCtrl := default) : Out :=
  onBoth (fun o d =>
    if !linkUp d p then (o, d)
    else
      let d := takeAck p lc d
      let x := fabPort d p
      if spareOffered x && x.spared.isNone && decide (lane < 8) then spareLane p lane lseq o d else (o, d)) s

/-! ### Frames received (R380, R384, R392) -/

/-- A frame that this device may not pass on (R392). -/
def passRefused (p e : Nat) (f : FFrame) (d : Dev) : Dev :=
  let d := fabDiscard p d
  let due := match d.ports.passRec with
    | some b => decide (b + 1024 ≤ d.beat.count) || decide (d.beat.count < b)
    | none => true
  let d := if due then recPlain 0x0709 0 0 (p * 256 + e) (senderWord p f.h) { d with ports := { d.ports with passRec := some d.beat.count } } else d
  if f.ty = 1 ∨ f.ty = 2 ∨ f.ty = 3 then sendUnreachable f.h.pos f.h d else d
/-- A frame of type 1 to 5 arrives on port `p`: delivered here, where `here` takes it out of the receive buffer; passed on along
its route, to a port of the same die at once and to one of the other die by a mover; or refused (R392, R394). -/
def routeFrame (p : Nat) (f : FFrame) (here : Otp → Dev → Otp × Dev) (o : Otp) (d : Dev) : Otp × Dev :=
  linkTake p f.h.lseq (fun o d =>
    if f.h.pos = routeTotal f.h.route then here o d
    else
      let e := legAt (routeLegs f.h.route) f.h.pos
      let g : FFrame := { f with h := { f.h with pos := f.h.pos + 1 } }
      let free := freeUnits p (frameClass f.ty) (frameBytes f)
      if 5 < e || !bit d.ports.passEn (6 * p + e) || (fabPort d e).st != .up then (o, passRefused p e f (free d))
      else if portDie e = portDie p then (o, fabQueue e g (free d))
      else (o, delivAdd { die := portDie p, port := p, h := g.h, job := .pass e g } d)) o d

/-- FABRIC_WRITE (R387, R388, R392). -/
def execFabricWrite (p : Nat) (h : FabHdr) (firstEn lastEn : W64) (lines : List (List Byte)) (s : State) : Out :=
  onBoth (routeFrame p { ty := 1, h := h, pay := beBytes 8 firstEn.toNat ++ beBytes 8 lastEn.toNat ++ lines.flatMap fun l => padTo 64 (l.take 64) }
    (remoteWrite p h firstEn lastEn lines)) s
/-- FABRIC_RAISE (R308, R309, R392). -/
def execFabricRaise (p : Nat) (h : FabHdr) (amount : W64) (s : State) : Out :=
  onBoth (routeFrame p { ty := 2, h := h, pay := beBytes 8 amount.toNat } fun o d => (o, remoteRaise p h amount d)) s
/-- FABRIC_READ_REQ (R387, R388, R392). -/
def execFabricReadReq (p : Nat) (h : FabHdr) (len : Nat) (s : State) : Out :=
  onBoth (routeFrame p { ty := 3, h := h, pay := beBytes 4 len } (remoteRead p h len)) s

/-- An answer that refuses a request: the record of R389, and the mover stops. -/
def fabRefused (k : Nat) (x : FabOut) (result : Nat) (d : Dev) : Dev :=
  let d :=
    if result = 2 then recMover k 0x0702 (x.port * 256 + remoteHop x.addr) 0 d
    else if x.ty = 2 then recMover k 0x0703 x.target 0 d
    else recMover k 0x0601 ((if x.ty = 1 then 256 else 0) + 5) x.target d
  moverStop k d
/-- The answer to a mover's request reaches it (R387, R389). -/
def fabAnswer (h : FabHdr) (read : Bool) (f : Nat → FabOut → Dev → Dev) (d : Dev) : Dev :=
  match moverOfTag d h.tag with
  | none => d
  | some (k, x) =>
    if read != (x.ty == 3) && h.result != 2 then d
    else
      if h.result = 0 then f k x (updRun k (fun r => { r with fab := eraseFirst (fun g => g.tag == x.tag) r.fab }) d)
      else fabRefused k x h.result (updRun k (dropFab x) d)
/-- FABRIC_READ_DATA (R387, R389, R392). -/
def execFabricReadData (p : Nat) (h : FabHdr) (data : List Byte) (s : State) : Out :=
  onBoth (routeFrame p { ty := 4, h := h, pay := data } fun o d =>
    (o, fabAnswer h true (fun k x d => moverTake (moverOfKey k) (byAddr x.addr) data d) (freeUnits p 1 (32 + data.length) d))) s
/-- FABRIC_ACK (R387, R389, R392). -/
def execFabricAck (p : Nat) (h : FabHdr) (s : State) : Out :=
  onBoth (routeFrame p { ty := 5, h := h, pay := [] } fun o d =>
    (o, fabAnswer h false (fun k _ d => moverAdvance (moverOfKey k) d) (freeUnits p 1 32 d))) s
/-- FABRIC_ACK_TIMEOUT (R382, R387). -/
def execFabricAckTimeout (id : MoverId) (s : State) : Out :=
  onDev (fun d => match moverRun d (moverKey id) with
    | none => d
    | some r =>
      let late (x : FabOut) : Bool := decide (x.beat + d.ports.ackTimeout ≤ d.beat.count)
      if booted d && r.fab.any late then
        let d := if r.stopped then d else recMover (moverKey id) 0x0707 0 0 d
        moverStop (moverKey id) ((r.fab.filter late).foldl (fun d x => updRun (moverKey id) (dropFab x) d) d)
      else d) s

/-- PFC_FRAME (R382). -/
def execPfcFrame (p : Nat) (prio : Nat) (pause : Bool) (s : State) : Out :=
  onDev (fun d =>
    if portOk p && fabUp d p && !(fabPort d p).p2p then
      let d := updFab p (fun x => { x with pause3 := if prio = 3 then pause else x.pause3, pause4 := if prio = 4 then pause else x.pause4 }) d
      flushPort p (fabPort d p).waiting.length d
    else d) s
/-- LINK_NOTICE (R397): entered in the ring of 16, notified and not forwarded. -/
def execLinkNotice (p : Nat) (lseq : Nat) (notice : List Byte) (s : State) : Out :=
  onBoth (linkPass p 10 24 lseq fun o d =>
    let n := (padTo 24 (notice.take 24)).take 16 ++ List.replicate 8 0
    let l := d.ports.notices ++ [n]
    (o, notify 5 0x210C 0 n { d with ports := { d.ports with notices := l.drop (l.length - 16) } })) s
/-- FABRIC_FRAME_REJECTED (R380). -/
def execFabricFrameRejected (p : Nat) (s : State) : Out :=
  onDev (fun d => if portOk p && fabUp d p then fabReject p d else d) s
/-- FABRIC_FRAME_DISCARDED (R383, R384): a frame with another VER or an undefined TYPE is accepted by its link, leaves the receive
buffer of its class, and is counted. -/
def execFabricFrameDiscarded (p : Nat) (s : State) (hdr : List Byte := []) : Out :=
  onBoth (fun o d =>
    let (ver, ty, len, cls, h) := parseHeader hdr
    if ver = 1 ∧ 1 ≤ ty ∧ ty ≤ 11 then (o, d)
    else linkTake p h.lseq (fun o d => (o, fabDiscard p (freeUnits p cls (32 + len) d))) o d) s

end Sys2Proof.Machine
end

