-- ==== Sys2Proof/Machine/Epoch.lean ====
section
/-! DEFINITION. Epochs (R357-R364): the commit window, the commit, a missed commit, abandon and restart. -/
namespace Sys2Proof.Machine

/-- Changes the epoch state. -/
def updEpoch (f : Epoch → Epoch) (d : Dev) : Dev := { d with epoch := f d.epoch }
/-- The running durable requests, with their movers. -/
def durableRuns (d : Dev) : List (Nat × MoverRun) :=
  d.movers.run.filterMap fun e => e.2.bind fun r => if r.durable then some (e.1, r) else none
/-- The unacknowledged durable lines of remote writes (R387). -/
def durableDelivs (d : Dev) : Nat :=
  (d.ports.deliv.map fun x => match x.job with
    | .write _ ls => ((if x.mover.isSome then x.out.map Prod.snd else ls.map fun l => l.1).countP fun a => (durableAt d a).isSome)
    | _ => 0).sum
/-- The epoch is drained (R359). -/
def drained (d : Dev) : Bool := (durableRuns d).all (fun r => r.2.landed) && d.epoch.cows.isEmpty && durableDelivs d == 0
/-- The unacknowledged durable writes (R361). -/
def unackedWrites (d : Dev) : Nat :=
  durableDelivs d + (durableRuns d).foldl (fun n r =>
    n + ((r.2.writes.map fun w => w.addr) ++ r.2.writesOut.map fun w => w.2).countP fun a => (durableAt d a).isSome) 0

/-- The flip (R359): C of every written granule is inverted and W cleared, as one operation; epoch `e` is committed, and
requests that waited may start. -/
def flipLedger (e : Nat) (d : Dev) : Dev :=
  let k := d.epoch
  let d := { d with
    epoch := { k with c := k.w.foldl (fun c g => NMap.upd false c g.1 not) k.c, w := [], state := 0, winRec := false
                      committed := e, committedBeat := d.beat.count }
    tiers := { d.tiers with pageCorr := [] }
    movers := { d.movers with queue := NMap.mapVals [] (fun _ l => l.map fun q => { q with windowed := false }) d.movers.queue } }
  releaseRemote (notify 4 0x3105 0 (beBytes 8 e ++ beBytes 8 d.beat.count) (armEpoch d))

/-- COMMIT_WINDOW_OPEN (R358): phase 0 of beat C - W, in whichever state the device is. -/
def execCommitWindowOpen (s : State) : Out :=
  onDev (fun d =>
    if booted d && d.epoch.enable && d.epoch.state == 0 && decide (entry0Beat d ≤ d.beat.count + d.epoch.window) && decide (d.beat.count < entry0Beat d) then
      updEpoch (fun k => { k with state := 1 }) d
    else d) s
/-- COMMIT (R359, R361): entry 0 acts at beat C; the flip waits for the segment that a durable read stream reads (R365). -/
def execCommit (s : State) : Out :=
  onDev (fun d =>
    if inRun d && d.epoch.enable && commitDue d then
      let e := epochIndex d
      if drained d then (if segmentRead d then d else flipLedger e d)
      else enterHeld 5 (updEpoch (fun k => { k with state := 2 }) (recPlain 0x0901 0 0 e (unackedWrites d) d))
    else d) s
/-- COMMIT_NOW_FLIP (R362). -/
def execCommitNowFlip (s : State) : Out :=
  onDev (fun d => match d.epoch.commitNow with
    | some op =>
      if booted d && d.epoch.state == 2 && drained d && !segmentRead d then opEnd op 3 0 (flipLedger (epochIndex d) (updEpoch (fun k => { k with commitNow := none }) d))
      else d
    | none => d) s

/-! ### Abandon (R363, R364) -/

/-- Whether a request that has not started writes a durable region. -/
def reqDurable (ord : Nat) (d : Dev) (q : MReq) : Bool :=
  match clauseOf d q.clause, reqDesc d q with
  | some cl, some (_, raw) => let ch := moveChecks ord cl raw q.p0 q.p1; ch.2.isNone && (moveDurable cl ch.1).isSome
  | _, _ => false
/-- Abandon begins (R363): every mover request that writes a durable region stops; an EPOCH_COMMIT_NOW in progress is
cancelled. -/
def beginAbandon (ord : Nat) (ops : List Nat) (d : Dev) : Dev :=
  let d := opEnd? d.epoch.commitNow 4 0 (updEpoch (fun k => { k with commitNow := none }) d)
  let keep (q : MReq) : Bool := !reqDurable ord d q
  let d := { d with
    movers := { d.movers with queue := NMap.mapVals [] (fun _ l => l.filter keep) d.movers.queue }
    cells := NMap.mapVals {} (fun _ x => { x with conj := { x.conj with mreqs := x.conj.mreqs.filter keep } }) d.cells }
  let d := (durableRuns d).foldl (fun d r => moverStop r.1 d) d
  cowOrphans (updEpoch (fun k => { k with abandoning := true, abandonOps := ops }) d)
/-- SCHED_ABANDON (R349, R363): the device is held as by HOLD, and the epoch abandoned. -/
def execSchedAbandon (n : Nat) (s : State) : Out :=
  onDevO (fun o d => schedAct n 9 (fun _ d => beginAbandon o.ordering [] (enterHeld 2 d)) d) s
/-- ABANDON_COMPLETE (R363): the writes in flight are acknowledged; W is cleared everywhere. -/
def execAbandonComplete (s : State) : Out :=
  onDev (fun d =>
    if booted d && d.epoch.abandoning && (durableRuns d).isEmpty && d.epoch.cows.isEmpty && durableDelivs d == 0 then
      let ops := d.epoch.abandonOps
      ops.foldl (fun d k => opEnd k 3 0 d) (updEpoch (fun k => { k with w := [], state := 3, abandoning := false, abandonOps := [], winRec := false }) d)
    else d) s
/-- The first release after an abandon, at beat `rb` (R364). -/
def restartEpoch (rb : Nat) (d : Dev) : Dev :=
  if d.epoch.state = 3 then
    armEpoch (updEpoch (fun k => { k with origin := (rb : Int) - (k.committed + 1) * k.beats, state := 0 }) d)
  else d

end Sys2Proof.Machine
end

