-- ==== Sys2Proof/Machine/Domains.lean ====
section
/-! DEFINITION. Power domains (R509-R511) and which host ports have power (R375). -/
namespace Sys2Proof.Machine

/-- A host port. -/
def hostPort (d : Dev) (p : Nat) : HostPort := d.ports.hosts.getD p {}
/-- Changes a host port. -/
def updHost (p : Nat) (f : HostPort → HostPort) (d : Dev) : Dev := { d with ports := { d.ports with hosts := mapAt p f d.ports.hosts } }
/-- The host port that HOSTPORT_SEL selects (R517). -/
def selectedPort (d : Dev) : Nat := if d.power.straps.hostport then 1 else 0
/-- A host port has power (R375, R510): in INERT the selected one, or both where HOST_ENABLE is 1 for both; in the other
states those with HOST_ENABLE 1. -/
def hostPowered (d : Dev) (p : Nat) : Bool :=
  if d.ctl.state == .inert then p == selectedPort d || ((hostPort d 0).enable && (hostPort d 1).enable)
  else (hostPort d p).enable

/-- Changes power and clocks. -/
def updPower (f : Power → Power) (d : Dev) : Dev := { d with power := f d.power }

/-- DOMAIN_STATE of a domain: 2 while it switches (R474, R510). -/
def DomSt.code : DomSt → Nat
  | .off => 0
  | .on => 1
  | .switchingOn => 2
  | .switchingOff => 2
/-- A power domain. -/
def domainOf (d : Dev) (n : Nat) : DomSt := NMap.get .off d.power.domains n
/-- Sets a domain. -/
def setDomain (n : Nat) (x : DomSt) (d : Dev) : Dev := { d with power := { d.power with domains := NMap.set .off d.power.domains n x } }
/-- Starts a domain on its way on or off. -/
def switchDomain (on : Bool) (n : Nat) (d : Dev) : Dev :=
  match on, domainOf d n with
  | true, .off => setDomain n .switchingOn d
  | true, .switchingOff => setDomain n .switchingOn d
  | false, .on => setDomain n .switchingOff d
  | false, .switchingOn => setDomain n .switchingOff d
  | _, _ => d
/-- A domain of the part: the LPDDR5X channel pairs are off in every state on EVL-4896-H (R474, R514). -/
def domainFitted (ord n : Nat) : Bool := !(decide (72 ≤ n) && decide (n < 80) && ord != 0)
/-- The state that R510 settles for a domain in the device state at hand. -/
def domainWanted (ord : Nat) (d : Dev) (n : Nat) : Bool :=
  let awake := d.ctl.state != .inert
  if n = 94 then true
  else if 86 ≤ n ∧ n < 88 then hostPowered d (n - 86)
  else if 80 ≤ n ∧ n < 86 then awake && (d.ports.fab.getD (n - 80) {}).enable
  else awake && domainFitted ord n
/-- The place of a domain in the order in which LOAD wakes them, reversed by UNLOAD; ports and domain 94 stand outside it (R510). -/
def wakeRank (n : Nat) : Option Nat :=
  if n = 95 then some 0
  else if n = 88 ∨ n = 89 then some 1
  else if 90 ≤ n ∧ n < 94 then some 2
  else if n < 64 then some 3
  else if n < 72 then some 4
  else if n < 80 then some 5
  else none
/-- A domain may begin to switch: every domain before it in the order is as R510 settles it. -/
def mayBegin (ord : Nat) (d : Dev) (n : Nat) : Bool :=
  match wakeRank n with
  | none => true
  | some k => (List.range 96).all fun m => match wakeRank m with
    | none => true
    | some j =>
      if d.ctl.state == .inert then decide (j ≤ k) || domainOf d m == (if domainWanted ord d m then .on else .off)
      else decide (k ≤ j) || domainOf d m == (if domainWanted ord d m then .on else .off)
/-- Every domain whose turn it is begins to switch to the state that R510 settles; one that another switches away from it turns
back at once. -/
def beginDomains (ord : Nat) (d : Dev) : Dev :=
  (List.range 96).foldl (fun u n => if mayBegin ord d n || domainOf d n == .switchingOn || domainOf d n == .switchingOff then
    switchDomain (domainWanted ord d n) n u else u) d
/-- A fabric port without power: an enabled one is to train again when LOAD wakes it, and what it held is gone (R376, R396,
R510). -/
def fabSleep (p : Nat) (d : Dev) : Dev :=
  let x := fabPort d p
  if x.st == .up || x.st == .training then
    (x.replay ++ x.waiting).foldl (fun d f => fabDead p f d) (updFab p (fun x => { x with st := .training, waiting := [], replay := [], resent := [] }) d)
  else d
/-- The domains set out for the states that R510 settles, in its order; a host port that loses power loses its link. -/
def driveDomains (ord : Nat) (d : Dev) : Dev :=
  let d := beginDomains ord d
  let d := if d.ctl.state == .inert then (List.range 6).foldl (fun d p => fabSleep p d) d else d
  [0, 1].foldl (fun d p => if hostPowered d p then d else updHost p (fun h => { h with link := 0 }) d) d

/-- DOMAIN_SWITCH_DONE (R510): the domain is usable, or off, and those whose turn it then is begin to switch; not in FAULTED, whose
domains stay as they were. -/
def execDomainSwitchDone (n : Nat) (s : State) : Out :=
  onDevO (fun o d =>
    let on (x : DomSt) : Dev := let d := setDomain n x d; if d.ctl.state == .faulted then d else beginDomains o.ordering d
    match domainOf d n with
    | .switchingOn => on .on
    | .switchingOff => on .off
    | _ => d) s

end Sys2Proof.Machine
end

