-- ==== Sys2Proof/Machine/HostNet.lean ====
section
/-! DEFINITION. Host ports: link, addresses and network services (R371-R375). -/
namespace Sys2Proof.Machine

/-- A host port carries packets: the device has completed its reset, and the port has power and a link (R375). -/
def hostLive (d : Dev) (p : Nat) : Bool := decide (p < 2) && booted d && hostPowered d p && (hostPort d p).link != 0
/-- HOST_MAC of a port: the fused base address plus the port number (R371). -/
def hostMac (o : Otp) (p : Nat) : List Byte := beBytes 6 (beNat o.macBase + p)
/-- The link-local address of a port: the modified EUI-64 of its MAC (R372). -/
def linkLocal (o : Otp) (p : Nat) : List Byte :=
  let m := hostMac o p
  [0xfe, 0x80, 0, 0, 0, 0, 0, 0, (m.getD 0 0) ^^^ 2, m.getD 1 0, m.getD 2 0, 0xff, 0xfe, m.getD 3 0, m.getD 4 0, m.getD 5 0]
/-- The port holds this address and uses it (R372, R373). -/
def holdsAddr (o : Otp) (d : Dev) (p : Nat) (ip : List Byte) : Bool :=
  let h := hostPort d p
  (h.use4 && decide (ip = h.ipv4)) || (h.useLl && decide (ip = linkLocal o p)) || (h.use6 && decide (ip = h.ipv6))
/-- A live port takes what was sent to an address that it uses, and a DISCOVER that was broadcast or sent to its group: an address
that another holder has is not used (R373, R444). -/
def hostHears (o : Otp) (d : Dev) (p : Nat) (dst : Option (List Byte)) (discover : Bool) : Bool :=
  hostLive d p && (match dst with
    | some a => holdsAddr o d p a
    | none => discover)
/-- Sends a network packet: kind 1 ARP, 2 neighbour advertisement, 3 echo, 4 membership report, 5 ARP probe, 6 neighbour solicitation
of duplicate address detection. -/
def sendNet (p : Nat) (mac ip : List Byte) (kind : Nat) (data : List Byte) (d : Dev) : Dev := { d with tx := .net p ip kind data (hostEther d p mac) :: d.tx }

/-- The multicast MAC address of an IPv6 group (RFC 4861): 33-33 and its last four bytes. -/
def groupMac (ip : List Byte) : List Byte := [0x33, 0x33] ++ ip.drop 12
/-- The group that a solicitation for an address goes to (RFC 4861). -/
def solicited (ip : List Byte) : List Byte := [0xff, 2, 0, 0, 0, 0, 0, 0, 0, 0, 0, 1, 0xff] ++ ip.drop 13
/-- The probe of duplicate address detection for an address of kind 0 IPv4 or another (R373; PRESUMED from RFC 4862 and RFC 5227,
notes/assumptions/71). -/
def sendProbe (p kind : Nat) (ip : List Byte) (d : Dev) : Dev :=
  if kind = 0 then sendNet p (List.replicate 6 0xff) (List.replicate 4 0) 5 ip d else sendNet p (groupMac (solicited ip)) (solicited ip) 6 ip d
/-- The membership report for MCAST_GROUP, while it is not zero (R373; PRESUMED from RFC 3376 and RFC 3810, notes/assumptions/71):
to 224.0.0.22 for an IPv4-mapped group, else to ff02::16. -/
def reportGroup (p : Nat) (d : Dev) : Dev :=
  let g := d.ports.mcast
  if g.all (· == 0) then d
  else if slice g 0 12 = [0, 0, 0, 0, 0, 0, 0, 0, 0, 0, 0xff, 0xff] then sendNet p [1, 0, 0x5e, 0, 0, 0x16] [224, 0, 0, 22] 4 (g.drop 12) d
  else let r : List Byte := [0xff, 2, 0, 0, 0, 0, 0, 0, 0, 0, 0, 0, 0, 0, 0, 0x16]; sendNet p (groupMac r) r 4 g d

/-- ARP_REQUEST (R373): answered for HOST_IPV4. -/
def execArpRequest (p : Nat) (mac ip target : List Byte) (s : State) : Out :=
  onDevO (fun o d => if hostLive d p && target.length == 4 && holdsAddr o d p target then sendNet p mac ip 1 (hostMac o p ++ target) d else d) s
/-- NEIGHBOUR_SOLICITATION (R373): answered for both IPv6 addresses. -/
def execNeighbourSolicitation (p : Nat) (mac ip target : List Byte) (s : State) : Out :=
  onDevO (fun o d => if hostLive d p && target.length == 16 && holdsAddr o d p target then sendNet p mac ip 2 (hostMac o p ++ target) d else d) s
/-- ICMP_ECHO (R373): requests of up to 1,472 bytes of data are answered. -/
def execIcmpEcho (p : Nat) (mac ip target data : List Byte) (s : State) : Out :=
  onDevO (fun o d => if hostLive d p && holdsAddr o d p target && decide (data.length ≤ 1472) then sendNet p mac ip 3 data d else d) s
/-- DUPLICATE_ADDRESS_DETECTION (R373): the address comes into use, or another holder keeps it out of use. -/
def execDuplicateAddressDetection (p kind : Nat) (other : Bool) (s : State) : Out :=
  onDev (fun d =>
    if !hostLive d p || 2 < kind then d
    else
      let d := updHost p (fun h => match kind with
        | 0 => { h with use4 := !other }
        | 1 => { h with useLl := !other }
        | _ => { h with use6 := !other }) d
      if other then recPlain 0x0708 0 0 (p * 256 + kind) 0 d else d) s
/-- A port whose link is up probes for its addresses that are not in use, and reports its group (R373). -/
def probeHost (o : Otp) (p : Nat) (d : Dev) : Dev :=
  if !hostLive d p then d
  else
    let h := hostPort d p
    let d := if h.use4 then d else sendProbe p 0 h.ipv4 d
    let d := if h.useLl then d else sendProbe p 1 (linkLocal o p) d
    reportGroup p (if h.use6 then d else sendProbe p 2 h.ipv6 d)
/-- HOST_LINK_UP (R369, R373, R399): HOST_LINK reports the highest common rate, 1 to 3; the port probes for its addresses that are
not in use and reports its group, once the device has completed its reset. -/
def execHostLinkUp (p rate : Nat) (s : State) : Out :=
  onDevO (fun o d =>
    if decide (p < 2) && d.power.boot != .down && hostPowered d p && decide (1 ≤ rate) && decide (rate ≤ 3) then
      probeHost o p (updHost p (fun h => { h with link := rate }) d)
    else d) s
/-- HOST_LINK_DOWN (R399). -/
def execHostLinkDown (p : Nat) (s : State) : Out := onDev (fun d => if p < 2 then updHost p (fun h => { h with link := 0 }) d else d) s
/-- Whether a host port discards a frame or packet for a reason (R369, R374). -/
def dropHolds (w : HostDrop) (d : Dev) (p : Nat) : Bool :=
  match w with
  | .flowControl | .fragment | .extension | .checksum => true
  | .oversize n => decide (9216 < n)
  | .vlan id =>
    let v := (hostPort d p).vlan
    decide (id ≠ if v = 0 then none else some (v % 0x1000))
  | .etherType t => t != 0x0800 && t != 0x86DD && t != 0x0806
  | .udpPort u => u != d.ports.belufUdp && u != d.ports.bulkUdp && !(p == d.beat.ptpPort && (u == 319 || u == 320))
/-- HOST_PACKET_DISCARDED (R369, R374). -/
def execHostPacketDiscarded (p : Nat) (s : State) (why : HostDrop := .flowControl) : Out :=
  onDev (fun d => if hostLive d p && dropHolds why d p then updHost p (fun h => { h with discarded := h.discarded + 1 }) d else d) s

end Sys2Proof.Machine
end

