-- ==== Sys2Proof/Machine/ObjRead.lean ====
section
/-! DEFINITION. The object dictionary (R458-R476, R315, R366, R399, R428, R457): the values that its objects read. -/
namespace Sys2Proof.Machine

/-- An access right (R435). -/
inductive Acc where
  | ro | rw | wo | rwh | cmd
  deriving DecidableEq, Repr

/-- A type of R434, by data length; a command by the length of its argument. -/
inductive Ty where
  | bool
  | num (n : Nat)
  | octets (n : Nat)
  | str (n : Nat)
  | arg (n : Nat)
  deriving DecidableEq, Repr

/-- What a request answers: a STATUS of R431 that is not OK, or the bytes. -/
abbrev Ans := Sum Nat (List Byte)

/-- A row of the dictionary: index, subindices, access, type, and the value that it reads. -/
structure ObjRow where
  idx : Nat
  lo  : Nat
  hi  : Nat
  acc : Acc
  ty  : Ty
  get : Otp → Dev → Sels → Nat → Ans

/-- A row of a numeric object. -/
def objN (idx lo hi : Nat) (acc : Acc) (n : Nat) (f : Otp → Dev → Sels → Nat → Nat) : ObjRow :=
  { idx := idx, lo := lo, hi := hi, acc := acc, ty := .num n, get := fun o d s k => .inr (beBytes n (f o d s k)) }
/-- A row of a Boolean. -/
def objB (idx lo hi : Nat) (acc : Acc) (f : Otp → Dev → Sels → Nat → Bool) : ObjRow :=
  { idx := idx, lo := lo, hi := hi, acc := acc, ty := .bool, get := fun o d s k => .inr (boolByte (f o d s k)) }
/-- A row of OCTETS. -/
def objO (idx lo hi : Nat) (acc : Acc) (n : Nat) (f : Otp → Dev → Sels → Nat → List Byte) : ObjRow :=
  { idx := idx, lo := lo, hi := hi, acc := acc, ty := .octets n, get := fun o d s k => .inr (padTo n (f o d s k)) }
/-- A command with an argument of `n` bytes. -/
def objC (idx n : Nat) : ObjRow := { idx := idx, lo := 0, hi := 0, acc := .cmd, ty := .arg n, get := fun _ _ _ _ => .inl 2 }
/-- The field count of a RECORD of `n` fields (R434, R458). -/
def objCount (idx n : Nat) : ObjRow := objN idx 0 0 .ro 1 fun _ _ _ _ => n
/-- A read-only field of a RECORD whose selector may name nothing. -/
def objF (idx sub n : Nat) (f : Otp → Dev → Sels → Sum Nat Nat) : ObjRow :=
  { idx := idx, lo := sub, hi := sub, acc := .ro, ty := .num n
    get := fun o d s _ => match f o d s with
      | .inr v => .inr (beBytes n v)
      | .inl e => .inl e }

/-! ### Identity and security (R464, R465) -/

/-- A number for a Boolean. -/
def bNat (b : Bool) : Nat := if b then 1 else 0
/-- The code of an image-signing slot's state. -/
def KeyState.code : KeyState → Nat
  | .empty => 0
  | .valid => 1
  | .revoked => 2
/-- SIGN_KEY_HASH (R502). -/
def keyHash (s : SignSlot) : List Byte := if s.st == .empty then List.replicate 32 0 else sha256 (padTo 64 s.key)
/-- The STRAPS byte. -/
def strapByte (s : Straps) : Nat := bNat s.master * 128 + bNat s.hostport * 64 + s.id.toNat
/-- PRODUCT (R464). -/
def productName (ord : Nat) : List Byte :=
  ("Henlu Evulond EVL-4896-".toList ++ [if ord = 0 then 'A' else 'H']).map fun c => BitVec.ofNat 8 c.toNat

/-- R464. -/
def objIdentity : List ObjRow :=
  [objN 0x1000 0 0 .ro 2 fun _ _ _ _ => 0x4896,
   objN 0x1001 0 0 .ro 1 fun o _ _ _ => o.ordering,
   objN 0x1002 0 0 .ro 1 fun o _ _ _ => o.stepping,
   objO 0x1003 0 0 .ro 16 fun o _ _ _ => o.uniqueId,
   objN 0x1004 0 0 .ro 1 fun _ _ _ _ => Config.contractLevel,
   objN 0x1005 0 0 .ro 1 fun _ _ _ _ => 1,
   objN 0x1006 0 0 .ro 2 fun _ _ _ _ => 2,
   objN 0x1007 0 0 .ro 1 fun _ d _ _ => strapByte d.power.straps,
   objO 0x1008 0 0 .ro 6 fun o _ _ _ => o.macBase,
   { idx := 0x1009, lo := 0, hi := 0, acc := .ro, ty := .str 32, get := fun o _ _ _ => .inr (productName o.ordering) }]
/-- R465. -/
def objSecurity : List ObjRow :=
  [objO 0x1200 0 0 .ro 64 fun _ d _ _ => idPubkey d,
   objCount 0x1201 2,
   objN 0x1201 1 1 .ro 2 fun o _ _ _ => o.certificate.length,
   objO 0x1201 2 2 .ro 2048 fun o _ _ _ => o.certificate.take 2048,
   objO 0x1202 0 7 .ro 32 fun o _ _ k => keyHash (o.slot k),
   objN 0x1203 0 7 .ro 1 fun o _ _ k => (o.slot k).st.code,
   objC 0x1204 161, objC 0x1205 97,
   objO 0x1206 0 0 .ro 64 fun o _ _ _ => o.owner,
   objN 0x1207 0 0 .ro 1 fun o _ _ _ => o.ownerSlots,
   objC 0x1208 160, objC 0x1209 224,
   objO 0x120A 0 15 .ro 32 fun _ d _ k => measureOf d k,
   objC 0x120B 32, objC 0x120C 0, objC 0x120D 97,
   objN 0x120E 0 0 .ro 1 fun _ d _ _ => bNat d.sec.debug]

/-! ### States, operations, sessions, images (R428, R457) -/

/-- An IP address as 16 bytes: IPv4 as ::ffff:a.b.c.d (R438). -/
def ip16 (ip : List Byte) : List Byte := if ip.length = 4 then List.replicate 10 0 ++ [0xff, 0xff] ++ ip else padTo 16 (ip.take 16)
/-- A row of SESSIONS. -/
def sessionRow (d : Dev) (k : Nat) : List Byte :=
  match d.beluf.sessions[k]? with
  | some s => beBytes 2 s.id ++ beBytes 2 s.udp ++ ip16 s.ip ++ beBytes 2 (s.lastSeq.getD 0) ++ [0, 0]
  | none => List.replicate 24 0
/-- R457. -/
def objStates : List ObjRow :=
  [objN 0x1100 0 0 .ro 1 fun _ d _ _ => d.ctl.state.code,
   objC 0x1101 2, objC 0x1102 10, objC 0x1103 0, objC 0x1104 0,
   objN 0x1105 0 0 .ro 1 fun _ d _ _ => d.ctl.heldCause,
   objN 0x1106 0 0 .ro 8 fun _ d _ _ => d.ctl.stateBeat,
   objO 0x1120 0 0x3F .ro 16 fun _ d _ k => if (opOf d k).used || (opOf d k).stamp != 0 then opStatus d k else [],
   objN 0x1121 0 0 .wo 4 fun _ _ _ _ => 0,
   objN 0x1122 0 0 .ro 4 fun _ d _ _ => min 0xFFFFFFFF d.beluf.drops,
   objC 0x1210 0, objC 0x1211 96, objC 0x1212 0,
   objN 0x1213 0 0 .rw 4 fun _ d _ _ => d.beluf.idle,
   objO 0x1214 0 7 .ro 24 fun _ d _ k => sessionRow d k]
/-- CASC_DONE_STATE (R428). -/
def cascState (d : Dev) : Nat := bNat d.config.level + 2 * bNat d.config.driveLow
/-- R428. -/
def objImages : List ObjRow :=
  [objC 0x1110 1, objC 0x1111 8, objC 0x1112 16,
   objN 0x1113 0 0 .ro 8 fun _ d _ _ => d.config.serial,
   objN 0x1114 0 0 .ro 2 fun _ d _ _ => d.config.segment,
   objN 0x1115 0 0 .ro 8 fun _ d _ _ => d.config.startBeat,
   objN 0x1116 0 0 .ro 8 fun _ d _ _ => min (2 ^ 64 - 1) d.config.corrected,
   objN 0x1117 0 3 .ro 4 fun _ d _ k => NMap.get 0 d.config.pass k,
   objN 0x2300 0 0 .rwh 1 fun _ d _ _ => d.config.position,
   objN 0x2301 0 0 .rwh 1 fun _ d _ _ => d.config.size,
   objN 0x2302 0 0 .ro 1 fun _ d _ _ => cascState d,
   objN 0x2303 0 0 .rw 4 fun _ d _ _ => d.config.clampTimeout]

/-! ### Ports (R399) -/

/-- FAB_STATE. -/
def FabSt.code : FabSt → Nat
  | .down => 0
  | .training => 1
  | .up => 2
  | .lost => 3
/-- FAB_PEER. -/
def fabPeer (x : FabPort) : List Byte := beBytes 3 x.peerId ++ beBytes 1 x.peerPort ++ beBytes 1 x.peerCaps ++ beBytes 1 x.peerMode ++ [0, 0]
/-- FAB_LANES: the lane that the spare lane replaces carries no data. -/
def fabLanes (x : FabPort) : Nat :=
  match x.spared with
  | some l => 0x8000 + l * 512 + (0x1FF - 2 ^ l)
  | none => 0xFF
/-- R399. -/
def objPorts : List ObjRow :=
  [objB 0x2000 0 1 .rwh fun _ d _ k => (hostPort d k).enable,
   objO 0x2001 0 1 .ro 6 fun o _ _ k => hostMac o k,
   objN 0x2002 0 1 .ro 1 fun _ d _ k => (hostPort d k).link,
   objO 0x2003 0 1 .rwh 4 fun _ d _ k => (hostPort d k).ipv4,
   objN 0x2004 0 1 .rwh 1 fun _ d _ k => (hostPort d k).prefix4,
   objO 0x2005 0 1 .rwh 16 fun _ d _ k => (hostPort d k).ipv6,
   objN 0x2006 0 1 .rwh 2 fun _ d _ k => (hostPort d k).vlan,
   objN 0x2007 0 0 .rwh 2 fun _ d _ _ => d.ports.belufUdp,
   objN 0x2008 0 0 .rwh 2 fun _ d _ _ => d.ports.bulkUdp,
   objO 0x2009 0 0 .rwh 16 fun _ d _ _ => d.ports.mcast,
   objB 0x2100 0 5 .rwh fun _ d _ k => (fabPort d k).enable,
   objN 0x2101 0 5 .rwh 1 fun _ d _ k => (fabPort d k).mode] ++
  [objN 0x2102 0 5 .ro 1 fun _ d _ k => (fabPort d k).st.code,
   objO 0x2103 0 5 .ro 8 fun _ d _ k => fabPeer (fabPort d k),
   objN 0x2104 0 5 .ro 2 fun _ d _ k => fabLanes (fabPort d k),
   objO 0x2105 0 5 .rwh 6 fun _ d _ k => (fabPort d k).nbMac,
   objN 0x2106 0 5 .rwh 2 fun _ d _ k => (fabPort d k).vlan,
   objN 0x2107 0 0 .rwh 4 fun _ d _ _ => d.ports.fabricId,
   objN 0x2108 0 0 .rwh 4 fun _ d _ _ => d.ports.ackTimeout,
   objN 0x2109 0 23 .rw 4 fun _ d _ k => routeEntry d k,
   objN 0x210A 0 0 .rw 8 fun _ d _ _ => d.ports.passEn,
   objO 0x210B 0 15 .rwh 24 fun _ d _ k => NMap.get [] d.ports.grants k,
   objO 0x210C 0 15 .ro 24 fun _ d _ k => d.ports.notices.getD k []]

/-! ### Beat, epochs, memory, schedule (R315, R348, R366, R466) -/

/-- The 32 bytes of a schedule entry (R348). -/
def schedBytes (e : SchedEntry) : List Byte :=
  leBytes 8 e.beat ++ leBytes 4 e.period ++ leBytes 2 e.phase ++ leBytes 1 e.action ++
  leBytes 1 (2 * bNat e.fired + bNat e.valid) ++ leBytes 8 e.arg0 ++ leBytes 8 e.arg1
/-- ARG0 of an entry with its reserved bits clear: bits [63:36] and [15:8] with ACTION SELFTEST (R7, R486). -/
def arg0Kept (action v : Nat) : Nat := if action = 7 then bits v 35 16 * 0x10000 + bits v 7 0 else v
/-- The entry that 32 written bytes stand for: FIRED is 0 whatever they carry (R348), and reserved bits are not kept (R7). -/
def schedOf (b : List Byte) : SchedEntry :=
  { beat := fld b 0 8, period := fld b 8 4, phase := fld b 0xC 2, action := fld b 0xE 1, fired := false,
    valid := bit (fld b 0xF 1) 0, arg0 := arg0Kept (fld b 0xE 1) (fld b 0x10 8), arg1 := fld b 0x18 8 }
/-- Bytes of ranges. -/
def rangeBytes (l : List (Nat × Nat)) : Nat := l.foldl (fun n r => n + r.2) 0
/-- R366. -/
def objBeat : List ObjRow :=
  [objN 0x2200 0 0 .ro 8 fun _ d _ _ => d.beat.count,
   objN 0x2201 0 0 .ro 2 fun _ d _ _ => beatPhase d,
   objN 0x2202 0 0 .rw 4 fun _ d _ _ => d.beat.period,
   objN 0x2203 0 0 .rwh 1 fun _ d _ _ => d.beat.srcEn,
   objN 0x2204 0 0 .ro 1 fun _ d _ _ => d.beat.srcUsed,
   objN 0x2205 0 0 .rwh 1 fun _ d _ _ => d.beat.ptpPort,
   objN 0x2206 0 0 .rwh 1 fun _ d _ _ => d.beat.ptpDomain,
   objN 0x2207 0 0 .rwh 8 fun _ d _ _ => d.beat.originNs] ++
  [objB 0x3100 0 0 .rwh fun _ d _ _ => d.epoch.enable,
   objN 0x3101 0 0 .rwh 8 fun _ d _ _ => d.epoch.beats,
   objN 0x3102 0 0 .rwh 8 fun _ d _ _ => wrapN 64 d.epoch.origin,
   objN 0x3103 0 0 .rwh 4 fun _ d _ _ => d.epoch.window,
   objN 0x3104 0 0 .ro 1 fun _ d _ _ => d.epoch.state,
   objN 0x3105 0 0 .ro 8 fun _ d _ _ => d.epoch.committed,
   objN 0x3106 0 0 .ro 8 fun _ d _ _ => d.epoch.committedBeat,
   objN 0x3107 0 0 .ro 8 fun _ d _ _ => min (2 ^ 64 - 1) d.epoch.cow,
   objC 0x3108 0, objC 0x3109 0,
   objO 0x4010 0 0 .ro 32 fun _ d _ _ => schedBytes (schedEntry d 0),
   objO 0x4010 1 0xFF .rw 32 fun _ d _ k => schedBytes (schedEntry d k)]
/-- Spare pages left, 0 for an LPDDR5X device on EVL-4896-H. -/
def sparesShown (o : Otp) (d : Dev) (dev : Nat) : Nat := if 8 ≤ dev ∧ o.ordering ≠ 0 then 0 else sparesLeft (retireMap o d) d dev
/-- R466, R315. -/
def objMemory : List ObjRow :=
  [objN 0x3000 0 0 .ro 8 fun _ _ _ _ => Config.hbmBytes,
   objN 0x3001 0 0 .rwh 1 fun _ d _ _ => d.tiers.interleave,
   objN 0x3002 0 0 .ro 8 fun o _ _ _ => if o.ordering = 0 then Config.lpBytes else 0,
   objN 0x3003 0 0 .ro 8 fun _ d _ _ => Config.hbmBytes - rangeBytes (hbmTaken d),
   objN 0x3004 0 0 .ro 8 fun o d _ _ => if o.ordering = 0 then Config.lpBytes - rangeBytes (lpTaken d) else 0,
   objN 0x3005 0 0 .ro 8 fun _ d _ _ => d.tiers.copyBase,
   objN 0x3006 0 7 .ro 4 fun o d _ k => sparesShown o d k,
   objN 0x3007 0 15 .ro 4 fun o d _ k => sparesShown o d (8 + k),
   objN 0x3008 0 7 .ro 8 fun _ d _ k => min (2 ^ 64 - 1) (NMap.get 0 d.tiers.corrected k),
   objN 0x3009 0 15 .ro 8 fun _ d _ k => min (2 ^ 64 - 1) (NMap.get 0 d.tiers.corrected (8 + k))]

/-! ### Clauses, sentences, queues, signals, monitors (R467-R472) -/

/-- The clause of CLAUSE_SEL; RANGE where it names none (R461). -/
def selClause (d : Dev) (s : Sels) : Sum Nat Clause :=
  match clauseOf d s.clause with
  | some c => .inr c
  | none => .inl 4
/-- A field of the selected clause. -/
def clauseFld (f : Dev → Clause → Nat) : Otp → Dev → Sels → Sum Nat Nat := fun _ d s =>
  match selClause d s with
  | .inr c => .inr (f d c)
  | .inl e => .inl e
/-- SLOT_STATE of a clause (R50). -/
def clauseState (d : Dev) (c : Clause) : Nat := if c.filling then 1 else if clauseActive d c then 3 else 2
/-- A field of the selected sentence. -/
def sentenceFld (f : Sentence → Nat) : Otp → Dev → Sels → Sum Nat Nat := fun _ d s =>
  match sentenceOf d s.sentence with
  | some q => .inr (f q)
  | none => .inl 4
/-- R467. -/
def objClauses : List ObjRow :=
  [objN 0x4000 0 0 .ro 2 fun _ d _ _ => d.plan.clauses.length,
   objN 0x4001 0 0 .rw 2 fun _ _ s _ => s.clause,
   objCount 0x4002 7,
   objF 0x4002 1 2 (clauseFld fun _ c => c.orow * 256 + c.ocol),
   objF 0x4002 2 2 (clauseFld fun _ c => c.benchRows * 256 + c.benchCols),
   objF 0x4002 3 1 (clauseFld fun _ c => c.slot),
   objF 0x4002 4 1 (clauseFld clauseState),
   { objF 0x4002 5 1 (clauseFld fun _ c => bNat c.held) with ty := .bool },
   objF 0x4002 6 8 (clauseFld fun _ c => c.hbmBase),
   objF 0x4002 7 8 (clauseFld fun _ c => c.lpBase)] ++
  [objN 0x4003 0 0 .rw 2 fun _ _ s _ => s.sentence,
   objCount 0x4004 4,
   { objF 0x4004 1 1 (sentenceFld fun q => bNat q.running) with ty := .bool },
   objF 0x4004 2 8 (sentenceFld fun q => q.start),
   objF 0x4004 3 4 (sentenceFld fun q => q.rep),
   objF 0x4004 4 2 (sentenceFld fun q => q.next),
   objC 0x4005 10,
   objB 0x4020 0 0 .rwh fun _ d _ _ => d.plan.sci]

/-- The queue of QUEUE_SEL: its cell, its number, and whether a slot of the cell is ACTIVE (R470). -/
def selQueue (d : Dev) (s : Sels) : Cell × Nat × Bool :=
  let x := cellAt d { row := bits s.queue 17 12, col := bits s.queue 11 6 }
  (x, bits s.queue 5 0, (activeSlot x).isSome)
/-- A field of QUEUE_INFO: its value under the ACTIVE slot, or where none is. -/
def queueFld (none_ : Nat) (f : Cell → Nat → Nat) : Otp → Dev → Sels → Nat → Nat := fun _ d s _ =>
  let q := selQueue d s
  if q.2.2 then f q.1 q.2.1 else none_
/-- The code of a queue state (R470). -/
def QSt.code : QSt → Nat
  | .open => 0
  | .draining => 1
  | .closed => 2
/-- The frame and word of SIG_SEL (R470). -/
def selSig (s : Sels) : Nat × Nat := (bits s.sig 13 12, bits s.sig 11 0)
/-- A control word (R294). -/
def controlWord (w : SigWord) : Nat :=
  bNat w.alloc * 2 ^ 63 + bNat w.ceilEn * 2 ^ 62 + bNat w.remote * 2 ^ 61 + bNat w.resetOnAct * 2 ^ 60 + bNat w.failed * 2 ^ 59 +
  w.owner % 0x10000 * 2 ^ 32 + w.refused
/-- A field of the selected signal word; RANGE where the word is not allocated (R461). -/
def sigFld (f : SigWord → Nat) : Otp → Dev → Sels → Sum Nat Nat := fun _ d s =>
  let w := sigWord d (selSig s).1 (selSig s).2
  if w.alloc then .inr (f w) else .inl 4
/-- R470. -/
def objWindows : List ObjRow :=
  [objN 0x4100 0 0 .rw 4 fun _ _ s _ => s.queue,
   objCount 0x4101 6,
   objN 0x4101 1 1 .ro 1 (queueFld 2 fun x q => (queueOf x q).st.code),
   objB 0x4101 2 2 .ro (fun o d s k => queueFld 0 (fun x q => bNat (queueOf x q).clamped) o d s k != 0),
   objN 0x4101 3 3 .ro 1 fun _ d s _ => (queueOf (selQueue d s).1 (selQueue d s).2.1).gen,
   objN 0x4101 4 4 .ro 2 (queueFld 0 fun x q => qDepth (activeData x) q),
   objN 0x4101 5 5 .ro 2 (queueFld 0 fun x q => (queueOf x q).entries.length + (queueOf x q).ready.length),
   objN 0x4101 6 6 .ro 1 (queueFld 0 fun x q => qPort (activeData x) q)] ++
  [objN 0x4200 0 0 .rw 2 fun _ _ s _ => s.sig,
   objCount 0x4201 3,
   { objF 0x4201 1 8 (sigFld fun w => w.value.toNat) with acc := .rw },
   objF 0x4201 2 8 (sigFld controlWord),
   objF 0x4201 3 8 (sigFld fun w => w.ceiling.toNat),
   objC 0x4202 8,
   objN 0x4203 0 3 .ro 2 fun _ d _ k => (List.range 4096).countP fun w => sigFree d k w,
   objN 0x4204 0 3 .ro 1 fun _ d _ k => (sparesFree d k).length]
/-- A field of NAN_LATCH. -/
def latchFld (f : NanLatch → Nat) : Otp → Dev → Sels → Sum Nat Nat := clauseFld fun _ c => f c.nan
/-- A numeric counter, in the order of R139. -/
def ctrFld (k : Nat) (c : Ctr) : Nat :=
  match k with
  | 0 => c.satConv
  | 1 => c.satInt
  | 2 => c.flushIn
  | 3 => c.flushOut
  | _ => c.nanInt
/-- COUNTER_SUM: the saturating sum over the region of the clause's counts as of phase 0 of the latest beat (R139, R140). -/
def counterSum (d : Dev) (c : Clause) (k : Nat) : Nat :=
  min (2 ^ 64 - 1) (c.cells.foldl (fun n x => n + (if (cellAt d x).ctrOf = c.id then ctrFld k (cellAt d x).ctrBeat else 0)) 0)
/-- R472. -/
def objMonitors : List ObjRow :=
  [{ objF 0x5000 0 1 (clauseFld fun _ c => c.mon) with acc := .rw },
   objCount 0x5001 9,
   { objF 0x5001 1 1 (latchFld fun n => bNat n.armed) with ty := .bool },
   objF 0x5001 2 2 (latchFld fun n => n.cell),
   objF 0x5001 3 2 (latchFld fun n => n.off),
   { idx := 0x5001, lo := 4, hi := 4, acc := .ro, ty := .octets 24
     get := fun _ d s _ => match selClause d s with
       | .inr c => .inr (padTo 24 (c.nan.coords.flatMap (leBytes 4)))
       | .inl e => .inl e },
   objF 0x5001 5 1 (latchFld fun n => n.output),
   objF 0x5001 6 1 (latchFld fun n => n.stage),
   objF 0x5001 7 1 (latchFld fun n => n.format),
   objF 0x5001 8 4 (latchFld fun n => n.later),
   objF 0x5001 9 8 (latchFld fun n => n.beat),
   objC 0x5002 0] ++
  [0, 1, 2, 3, 4].map (fun k => objF 0x5003 k 8 (clauseFld fun d c => counterSum d c k)) ++ [objC 0x5004 0]

/-! ### Faults, self-test, spares, power (R473, R474) -/

/-- BENCH_RETIRED: bit 9 * row + column, as one number most significant byte first (DEDUCED, notes/assumptions/31). -/
def benchBits (m : List Nat) (f : Nat) : Nat :=
  (List.range 72).foldl (fun n u => if benchRetired m (f, u / 9, u % 9) then n + 2 ^ u else n) 0
/-- A remap entry's 16 bits (R71). -/
def remapWord (d : Dev) (f i : Nat) : Nat :=
  let r := NMap.get ({} : Remap) d.mesh.remap (f * 64 + i)
  bNat r.avail * 0x8000 + bNat r.shim * 0x4000 + (if r.shim then 8 else i % 8)
/-- SHIMS_FREE: shim benches working and unassigned. -/
def shimsFree (m : List Nat) (d : Dev) (f : Nat) : Nat :=
  (List.range 8).countP fun r => !benchRetired m (f, r, 8) &&
    !(List.range 8).any fun b => (NMap.get ({} : Remap) d.mesh.remap (f * 64 + r * 8 + b)).shim
/-- Spare pages in use on devices `a` to `a + n - 1`. -/
def pagesUsed (d : Dev) (a n : Nat) : Nat := d.tiers.pages.countP fun e => decide (a ≤ e.1 / 0x2000000) && decide (e.1 / 0x2000000 < a + n)
/-- R473. -/
def objFaults : List ObjRow :=
  [objN 0x6000 0 0 .ro 8 fun _ d _ _ => min (2 ^ 64 - 1) d.health.total,
   objN 0x6001 0 0 .rw 1 fun _ _ s _ => s.page,
   objO 0x6002 0 0xFF .ro 32 fun _ d s k => ((NMap.get none d.health.ring (256 * s.page + k)).map FaultRec.bytes).getD [],
   objO 0x6003 0 0 .ro 32 fun _ d _ _ => (d.health.last.map FaultRec.bytes).getD [],
   objC 0x6100 4,
   objO 0x6101 0 3 .ro 24 fun _ d _ k => (d.health.jigs.getD k {}).result,
   objN 0x6102 0 3 .ro 4 fun _ d _ k => (d.health.jigs.getD k {}).deferred,
   objN 0x6103 0 3 .ro 8 fun _ d _ k => (d.health.jigs.getD k {}).passed,
   objN 0x6104 0 3 .ro 4 fun _ d _ k => (d.health.jigs.getD k {}).failed] ++
  [objO 0x6200 0 3 .ro 9 fun o d _ k => beBytes 9 (benchBits (retireMap o d) k),
   objO 0x6201 0 3 .ro 128 fun _ d _ k => (List.range 64).flatMap fun i => leBytes 2 (remapWord d k i),
   objN 0x6202 0 3 .ro 1 fun o d _ k => shimsFree (retireMap o d) d k,
   objCount 0x6203 6,
   objN 0x6203 1 1 .ro 2 fun _ d _ _ => d.cells.countP fun e => e.2.noun.failedBanks.any (fun b => b < 16) && !e.2.noun.failedBanks.contains 16,
   objN 0x6203 2 2 .ro 4 fun _ d _ _ => d.cells.foldl (fun n e => n + e.2.badEntries.length) 0,
   objN 0x6203 3 3 .ro 2 fun _ d _ _ => d.sig.spares.length,
   objN 0x6203 4 4 .ro 4 fun _ d _ _ => pagesUsed d 0 8,
   objN 0x6203 5 5 .ro 4 fun o d _ _ => if o.ordering = 0 then pagesUsed d 8 16 else 0,
   objN 0x6203 6 6 .ro 1 fun _ d _ _ => d.ports.fab.countP fun x => x.spared.isSome,
   objC 0x6204 8,
   objN 0x6205 0 0 .ro 4 fun o d _ _ => (retireMap o d).length,
   objO 0x6206 0 0 .ro 32 fun o d _ _ => retireHash (retireMap o d)]
/-- A temperature in units of 0.01 degrees as an FP32 word. -/
def tempWord (t : Nat) : Nat :=
  -- t / 100 to the nearest FP32, from 64 bits below the binary point
  fp32.encode (fp32.arith (Num.ofInt ((t * 2 ^ 64 + 50) / 100 : Nat) (-64)))
/-- R474. -/
def objPower : List ObjRow :=
  [objN 0x7000 0 0 .rw 4 fun _ d _ _ => d.power.limit,
   objN 0x7001 0 0 .ro 1 fun _ d _ _ => d.power.step,
   objN 0x7002 0 0 .ro 4 fun _ d _ _ => d.power.powerW,
   objN 0x7003 0 5 .ro 4 fun _ d _ k => tempWord (d.power.temps.getD k 0),
   objN 0x7004 0 0 .rw 4 fun _ d _ _ => d.power.target.toNat,
   objN 0x7005 0 0x5F .ro 1 fun _ d _ k => (domainOf d k).code,
   objN 0x7100 0 0 .ro 4 fun _ _ _ _ => 1050000000,
   objB 0x7101 0 3 .ro fun _ d _ k => NMap.get false d.power.pll k,
   objB 0x7102 0 1 .ro fun _ d _ k => NMap.get false d.power.serdes k,
   objN 0x7103 0 0 .ro 1 fun _ d _ _ => d.power.cause]

/-! ### Per-cell windows (R475, R476) -/

/-- The physical cell of CELL_SEL: none where a physical column lies above 35 (R475). -/
def selCell (d : Dev) (s : Sels) : Option Nat :=
  if bit s.cell 15 then (if 35 < bits s.cell 5 0 then none else some (physIx (bits s.cell 14 13) (bits s.cell 12 8) (bits s.cell 5 0)))
  else some (phys d { row := bits s.cell 11 6, col := bits s.cell 5 0 })
/-- The logical bench of a logical selection has AVAIL 0. -/
def selAway (d : Dev) (s : Sels) : Bool := !bit s.cell 15 && !availOf d { row := bits s.cell 11 6, col := bits s.cell 5 0 }
/-- A field of CELL_INFO. -/
def cellFld (f : Nat → Cell → Nat) : Otp → Dev → Sels → Sum Nat Nat := fun _ d s =>
  match selCell d s with
  | some p => .inr (f p (cellP d p))
  | none => .inl 4
/-- SLOT_STATES: two bits a slot. -/
def slotStates (x : Cell) : Nat :=
  (List.range 4).foldl (fun n k => n + (match (slotOf x k).st with
    | .empty => 0
    | .filling => 1
    | .resident => 2
    | .active => 3) * 4 ^ k) 0
/-- A field of CELL_COUNTERS: RANGE where the cell's bench is retired with dead routers (R476). -/
def counterFld (f : Cell → Nat) : Otp → Dev → Sels → Sum Nat Nat := fun o d s =>
  match selCell d s with
  | some p => if (retiredBenches (retireMap o d) true).contains (benchOfPhys p) then .inl 4 else .inr (f (cellP d p))
  | none => .inl 4
/-- A register of a Conjunction cell stopped at a hold boundary: RANGE for a cell of another kind, else STATE (R476). -/
def coreFld (f : Conj → Nat) : Otp → Dev → Sels → Sum Nat Nat := fun _ d s =>
  match selCell d s with
  | some p =>
    if physKind p ≠ .conj then .inl 4
    else if (cellP d p).stopped && (activeSlot (cellP d p)).isSome then .inr (f (cellP d p).conj) else .inl 3
  | none => .inl 4
/-- R475. -/
def objCells : List ObjRow :=
  [objN 0x8000 0 0 .rw 2 fun _ _ s _ => s.cell,
   objCount 0x8001 6,
   objF 0x8001 1 1 (cellFld fun p _ => (physKind p).code),
   objF 0x8001 2 2 (fun o d s => if selAway d s then .inr 0xFFFF else cellFld (fun p _ => physCode p) o d s),
   { objF 0x8001 3 1 (cellFld fun _ x => bNat (x.fence != .none)) with ty := .bool },
   objF 0x8001 4 1 (cellFld fun _ x => (activeSlot x).getD 0xFF),
   objF 0x8001 5 1 (cellFld fun _ x => slotStates x),
   objF 0x8001 6 2 (cellFld fun _ x => activeId x)] ++
  [objCount 0x8002 12] ++
  [0, 1, 2, 3, 4].map (fun k => objF 0x8002 (k + 1) 4 (counterFld fun x => min 0xFFFFFFFF (ctrFld k x.ctrBeat))) ++
  [objF 0x8002 6 4 (counterFld fun x => x.win.mboxDiscarded),
   objF 0x8002 7 4 (counterFld fun x => x.win.bankRefused),
   objF 0x8002 8 4 (counterFld fun x => x.win.nounCorrected),
   objF 0x8002 9 4 (counterFld fun x => x.win.queueDropped),
   objF 0x8002 10 4 (counterFld fun x => x.win.queueDiscarded),
   objF 0x8002 11 4 (counterFld fun x => x.win.queueCorrected),
   objF 0x8002 12 4 (counterFld fun x => x.win.badFlits),
   objC 0x8003 1] ++
  (List.range 32).map (fun r => objF 0x8004 r 8 (coreFld fun k => (k.reg (BitVec.ofNat 5 r)).toNat)) ++
  [objF 0x8005 0 2 (coreFld fun k => k.pc)]

/-! ### The map -/

/-- Every object of the device (R458, R463). -/
def objTable : List ObjRow :=
  objIdentity ++ objSecurity ++ objStates ++ objImages ++ objPorts ++ objBeat ++ objMemory ++ objClauses ++ objWindows ++
  objMonitors ++ objFaults ++ objPower ++ objCells
/-- The row of an index and subindex. -/
def objRow (idx sub : Nat) : Option ObjRow := objTable.find? fun r => r.idx == idx && decide (r.lo ≤ sub) && decide (sub ≤ r.hi)
/-- The selector objects (R460). -/
def objSelector (idx : Nat) : Bool := [0x4001, 0x4003, 0x4100, 0x4200, 0x6001, 0x8000].contains idx
/-- Objects that a host request reaches only outside INERT and LOADING (R461). -/
def objGated (idx : Nat) : Bool :=
  (decide (0x4001 ≤ idx) && decide (idx ≤ 0x4205) && idx != 0x4020) || (decide (0x5000 ≤ idx) && decide (idx ≤ 0x5004)) ||
  (decide (0x8000 ≤ idx) && decide (idx ≤ 0x8005))
/-- The gate of R461 at the device state at hand. -/
def objShut (d : Dev) (idx : Nat) : Bool := (d.ctl.state == .inert || d.ctl.state == .loading) && objGated idx
/-- Objects whose requests are handed off to a cell, a store or an I/O die (R433, R461). -/
def objHanded (idx : Nat) : Bool :=
  idx == 0x4101 || (decide (0x4201 ≤ idx) && decide (idx ≤ 0x4204)) || (decide (0x5000 ≤ idx) && decide (idx ≤ 0x5004)) ||
  (decide (0x8001 ≤ idx) && decide (idx ≤ 0x8005))

/-- A READ (R431, R434, R435). -/
def objRead (o : Otp) (d : Dev) (s : Sels) (idx sub : Nat) : Ans :=
  match objRow idx sub with
  | none => .inl 1
  | some r => if r.acc = .cmd then .inl 2 else if objShut d idx then .inl 3 else r.get o d s sub

end Sys2Proof.Machine
end

