-- ==== Sys2Proof/Machine/ObjWrite.lean ====
section
/-! DEFINITION. The object dictionary: what a WRITE of each object does (R435, R436, R459-R461, R350, R391, R469-R472), and
the commands that act on a frame's windows (R471, R472, R476). -/
namespace Sys2Proof.Machine

/-- What a write answers: a STATUS that is not OK, or the device and the session's selectors after it. -/
abbrev Wrote := Sum Nat (Dev × Sels)

/-- A write accepted under a condition, else RANGE. -/
def putIf (b : Bool) (s : Sels) (d : Dev) : Wrote := if b then .inr (d, s) else .inl 4
/-- Whether data fit a type (R434): the STATUS where they do not. -/
def tyCheck (t : Ty) (b : List Byte) : Option Nat :=
  match t with
  | .bool => if b.length ≠ 1 then some 5 else if 1 < beNat b then some 4 else none
  | .num n => if b.length ≠ n then some 5 else none
  | .octets n => if b.length ≠ n then some 5 else none
  | .str n => if n < b.length then some 5 else if b.all fun c => decide (0x20 ≤ c.toNat) && decide (c.toNat ≤ 0x7E) then none else some 4
  | .arg n => if b.length ≠ n then some 5 else none

/-! ### Values with checks of their own -/

/-- A ROUTE_TABLE entry that may be written (R391): no leg names port 6, and none before the first unused one has 0 links. -/
def routeEntryOk (v : Nat) : Bool :=
  ((List.range 4).all fun i => bits v (8 * i + 7) (8 * i + 5) != 6) &&
  (routeLegs v).all (fun l => l.2 != 0) && decide (routeTotal v ≤ 124)
/-- A BEAT_PERIOD_NS that may be written (R337). -/
def periodOk (d : Dev) (v : Nat) : Bool :=
  decide (500 ≤ v) && decide (v ≤ 8000) && v % 20 == 0 &&
  d.plan.clauses.all fun c => decide (ctBeatMin c.contract ≤ v) && decide (v ≤ ctBeatMax c.contract)
/-- An argument within the range that its action defines (R350, R486); bits that no action uses are ignored. A THROTTLE step is
above 15 where ARG0 is (DESIGN CHOICE, notes/assumptions/72). -/
def schedArgsOk (e : SchedEntry) : Bool :=
  (e.action != 0xA || decide (e.arg0 ≤ 15)) &&
  (e.action != 7 || (decide (bits e.arg0 7 0 ≤ 1) && (bits e.arg0 31 16 == 0xFFFF || decide (bits e.arg0 31 16 < unitCount (bits e.arg0 7 0)))))
/-- The checks of R350 on an entry other than entry 0 with VALID set. -/
def schedOk (d : Dev) (e : SchedEntry) : Bool :=
  !e.valid || (decide (d.beat.count < e.beat) && decide (e.phase < beatCycles d) && decide (e.action ≤ 0xA) && e.action != 8 && schedArgsOk e)
/-- A THERMAL_TARGET from 60.0 to 105.0 degrees (R474). -/
def targetOk (v : Nat) : Bool :=
  let x := fp32.decode v
  !x.isNan && !x.lt (Num.ofInt 60 0) && !(Num.ofInt 105 0).lt x
/-- An epoch object changes: an epoch in progress starts over and entry 0 is armed afresh (R357). -/
def putEpoch (f : Epoch → Epoch) (d : Dev) : Dev :=
  let d := updEpoch f d
  if d.epoch.state ≤ 1 then armEpoch (updEpoch (fun k => { k with state := 0 }) d) else d
/-- FAB_ENABLE (R376, R398): a port goes DOWN, or from DOWN into training. -/
def putFabEnable (p : Nat) (on : Bool) (d : Dev) : Dev :=
  let x := fabPort d p
  if on then
    (if x.st == .down then switchDomain (d.ctl.state != .inert) (80 + p) (updFab p (fun x => { x with enable := true, st := .training }) d)
     else updFab p (fun x => { x with enable := true }) d)
  else
    let d := updFab p (fun x => { x with enable := false, st := .down, waiting := [], replay := [], resent := [] }) d
    switchDomain false (80 + p) ((x.replay ++ x.waiting).foldl (fun d f => fabDead p f d) d)
/-- HOST_ENABLE (R375, R510). -/
def putHostEnable (p : Nat) (on : Bool) (d : Dev) : Dev :=
  let d := updHost p (fun h => { h with enable := on }) d
  [0, 1].foldl (fun d q =>
    let d := switchDomain (hostPowered d q) (86 + q) d
    if hostPowered d q then d else updHost q (fun h => { h with link := 0 }) d) d
/-- MON_SELECT: from the next beat (R135), by a preset too (R459). -/
def putMon (v : Nat) (c : Clause) : Clause := { c with monNext := some v }

/-! ### The host's signal operations (R471) -/

/-- A SET by a preset, as an operation of the word's owner that the store performs as the image is loaded (R417, R459, R471): the
STATUS and the device. A refused one counts at an allocated word and writes no record. -/
def presetSignal (f w : Nat) (v : W64) (d : Dev) : Nat × Dev :=
  let x := sigWord d f w
  if !x.alloc then (4, d)
  else if x.failed || !storeReachable d f || (x.ceilEn && x.ceiling.ult v) then (4, countRefused f w d)
  else (0, wakeMonitors f w (updSig f w (fun x => { x with value := v }) d))
/-- A SET or ADD of the host leaves the I/O die adjacent to the store's frame, with the word's OWNER (R471, R533); `op` and `r` are
the request that its reply answers. -/
def hostSignal (add : Bool) (op : Nat) (r : Req) (f w : Nat) (v : W64) (d : Dev) : Dev :=
  sigIssue (if add then .add else .set)
    { src := .ioDie (f / 2), frame := f, word := w, v := v, clause := (sigWord d f w).owner, off := 0, kind := .host } (.host op r) d

/-! ### Writes by index -/

/-- The bytes of a REMOTE_GRANT that are kept: its reserved bits and bytes read as zero (R7, R388). -/
def grantKept (b : List Byte) : List Byte := b.take 16 ++ [b.getD 16 0 &&& 0x0F] ++ List.replicate 7 0
/-- An address that a live host port is given is probed before it is used (R373): kind 0 IPv4, 2 static IPv6. -/
def probeAddr (p kind : Nat) (d : Dev) : Dev :=
  let h := d.ports.hosts.getD p {}
  if hostLive d p then sendProbe p kind (if kind = 0 then h.ipv4 else h.ipv6) d else d
/-- MCAST_GROUP changes, and the live host ports report their membership (R373). -/
def putGroup (b : List Byte) (d : Dev) : Dev :=
  [0, 1].foldl (fun d p => if hostLive d p then reportGroup p d else d) { d with ports := { d.ports with mcast := b } }
/-- BEAT_SRC_EN: what a source that is no longer enabled has shown is forgotten (R339, R341-R343). -/
def putSources (v : Nat) (d : Dev) : Dev :=
  [1, 2, 4].foldl (fun d b => if srcOn d b then d else updBeat (forgetSource b) d) (updBeat (fun u => { u with srcEn := v % 16 }) d)

/-- Writes of 0x2000-0x210B. `v` is the number that the data spell. -/
def putPort (idx sub v : Nat) (b : List Byte) (s : Sels) (d : Dev) : Wrote :=
  let host (f : HostPort → HostPort) : Wrote := .inr (updHost sub f d, s)
  let fab (f : FabPort → FabPort) : Wrote := .inr (updFab sub f d, s)
  let ports (f : Ports → Ports) : Wrote := .inr ({ d with ports := f d.ports }, s)
  if idx = 0x2000 then .inr (putHostEnable sub (v == 1) d, s)
  else if idx = 0x2003 then .inr (probeAddr sub 0 (updHost sub (fun h => { h with ipv4 := b, use4 := false }) d), s)
  else if idx = 0x2004 then putIf (decide (8 ≤ v) && decide (v ≤ 30)) s (updHost sub (fun h => { h with prefix4 := v }) d)
  else if idx = 0x2005 then .inr (probeAddr sub 2 (updHost sub (fun h => { h with ipv6 := b, use6 := false }) d), s)
  else if idx = 0x2006 then host fun h => { h with vlan := v - bits v 12 12 * 0x1000 }
  else if idx = 0x2007 then ports fun p => { p with belufUdp := v }
  else if idx = 0x2008 then ports fun p => { p with bulkUdp := v }
  else if idx = 0x2009 then .inr (putGroup b d, s)
  else if idx = 0x2100 then .inr (putFabEnable sub (v == 1) d, s)
  else if idx = 0x2101 then putIf (decide (v ≤ 3)) s (updFab sub (fun x => { x with mode := v }) d)
  else if idx = 0x2105 then fab fun x => { x with nbMac := b }
  else if idx = 0x2106 then fab fun x => { x with vlan := v }
  else if idx = 0x2107 then ports fun p => { p with fabricId := v % 0x1000000 }
  else if idx = 0x2108 then putIf (v != 0) s { d with ports := { d.ports with ackTimeout := v } }
  else if idx = 0x2109 then putIf (routeEntryOk v) s { d with ports := { d.ports with routes := NMap.set none d.ports.routes sub (some v) } }
  else if idx = 0x210A then ports fun p => { p with passEn := v % 2 ^ 36 }
  else ports fun p => { p with grants := NMap.set [] p.grants sub (let g := grantKept b; if g.all fun x => x == 0 then [] else g) }

/-- Writes of 0x2200-0x3103. -/
def putBeat (idx v : Nat) (s : Sels) (d : Dev) : Wrote :=
  let beat (f : BeatUnit → BeatUnit) : Wrote := .inr (updBeat f d, s)
  if idx = 0x2202 then putIf (periodOk d v) s (updBeat (fun u => { u with periodNext := some v }) d)
  else if idx = 0x2203 then .inr (putSources v d, s)
  else if idx = 0x2205 then putIf (decide (v ≤ 1)) s (updBeat (fun u => { u with ptpPort := v }) d)
  else if idx = 0x2206 then beat fun u => { u with ptpDomain := v }
  else if idx = 0x2207 then beat fun u => { u with originNs := v }
  else if idx = 0x2300 then putIf (decide (v ≤ 63)) s { d with config := { d.config with position := v } }
  else if idx = 0x2301 then putIf (decide (1 ≤ v) && decide (v ≤ 64)) s { d with config := { d.config with size := v } }
  else if idx = 0x2303 then putIf (v != 0) s { d with config := { d.config with clampTimeout := v } }
  else if idx = 0x3001 then putIf (decide (v ≤ 1) && d.plan.clauses.isEmpty) s { d with tiers := { d.tiers with interleave := v } }
  else if idx = 0x3100 then .inr (putEpoch (fun k => { k with enable := v == 1 }) d, s)
  else if idx = 0x3101 then putIf (decide (1024 ≤ v) && decide (v ≤ 2 ^ 32) && decide (d.epoch.window < v)) s (putEpoch (fun k => { k with beats := v }) d)
  else if idx = 0x3102 then .inr (putEpoch (fun k => { k with origin := sgn 64 v }) d, s)
  else putIf (decide (1 ≤ v) && decide (v < d.epoch.beats)) s (putEpoch (fun k => { k with window := v }) d)

/-- Writes of the selectors (R460, R473, R475): reserved bits are dropped. -/
def putSel (idx v : Nat) (s : Sels) (d : Dev) : Wrote :=
  if idx = 0x4001 then .inr (d, { s with clause := v })
  else if idx = 0x4003 then .inr (d, { s with sentence := v })
  else if idx = 0x4100 then .inr (d, { s with queue := v % 2 ^ 18 })
  else if idx = 0x4200 then .inr (d, { s with sig := v % 2 ^ 14 })
  else if idx = 0x6001 then putIf (decide (v ≤ 3)) { s with page := v } d
  else if bit v 15 then putIf (decide (bits v 5 0 ≤ 35)) { s with cell := v - bits v 7 6 * 64 } d
  else .inr (d, { s with cell := v % 0x1000 })

/-- The write of an object that may be written, its data of the right type. -/
def objPut (s : Sels) (idx sub : Nat) (b : List Byte) (d : Dev) : Wrote :=
  let v := beNat b
  if objSelector idx then putSel idx v s d
  else if idx = 0x1213 then putIf (decide (1024 ≤ v)) s { d with beluf := { d.beluf with idle := v } }
  else if 0x2000 ≤ idx ∧ idx < 0x2200 then putPort idx sub v b s d
  else if 0x2200 ≤ idx ∧ idx < 0x4000 then putBeat idx v s d
  else if idx = 0x4010 then
    (let e := schedOf b
     putIf (schedOk d e) s { d with plan := { d.plan with schedNext := d.plan.schedNext ++ [(sub, e)] } })
  else if idx = 0x4020 then
    putIf (v == 1 || !(d.plan.clauses.any fun c => ctFlag c.contract 0)) s { d with plan := { d.plan with sci := v == 1 } }
  else if idx = 0x5000 then
    (match selClause d s with
     | .inr c => .inr (updClause c.id (putMon (v % 8)) d, s)
     | .inl e => .inl e)
  else if idx = 0x7000 then putIf (decide (1000 ≤ v) && decide (v ≤ 3800)) s { d with power := { d.power with limit := v } }
  else putIf (targetOk v) s { d with power := { d.power with target := BitVec.ofNat 32 v } }

/-- The STATUS of a WRITE that is refused before its value is looked at (R431, R435, R417, R449, R461). -/
def objWriteCheck (pre : Bool) (idx sub : Nat) (b : List Byte) (d : Dev) : Option Nat :=
  match objRow idx sub with
  | none => some 1
  | some r =>
    if r.acc = .ro ∨ r.acc = .cmd ∨ (pre ∧ 0x1200 ≤ idx ∧ idx ≤ 0x12FF) then some 2
    else if !pre && (d.ctl.state == .faulted && !objSelector idx ||
        (r.acc == .rwh && d.ctl.state != .inert && d.ctl.state != .held) || objShut d idx) then some 3
    else tyCheck r.ty b
/-- A WRITE, of the host or of a preset: the STATUS, the device and the selectors after it (R436). A host's SET of a signal is a
request of its own (`signalWrite`). -/
def objWrite (s : Sels) (pre : Bool) (idx sub : Nat) (b : List Byte) (d : Dev) : Nat × Dev × Sels :=
  match objWriteCheck pre idx sub b d with
  | some e => (e, d, s)
  | none =>
    if idx = 0x4201 then
      let r := presetSignal (selSig s).1 (selSig s).2 (BitVec.ofNat 64 (beNat b)) d
      (r.1, r.2, s)
    else match objPut s idx sub b d with
      | .inl e => (e, d, s)
      | .inr r => (0, r.1, r.2)

end Sys2Proof.Machine
end

