-- ==== Sys2Proof/Machine/Serve.lean ====
section
/-! DEFINITION. How the Beluf engine serves one request (R429-R439, R449): source and session, the repeated SEQ, the rights
of session 0, hand-off, the reply; and the closing of sessions and streams. -/
namespace Sys2Proof.Machine

/-- A discarded datagram or request (R457). -/
def belufDrop (d : Dev) : Dev := { d with beluf := { d.beluf with drops := satAdd 32 d.beluf.drops 1 } }
/-- An open session. -/
def sessionOf (d : Dev) (id : Nat) : Option Session := d.beluf.sessions.find? fun s => s.id == id
/-- Changes a session. -/
def updSession (id : Nat) (f : Session → Session) (d : Dev) : Dev :=
  { d with beluf := { d.beluf with sessions := mapFirst (fun s => s.id == id) f d.beluf.sessions } }
/-- The selectors that a request of session `id` reads through (R460). -/
def selsOf (d : Dev) (id : Nat) : Sels := ((sessionOf d id).map fun s => s.sels).getD {}
/-- Sends a Beluf frame to the source of a request. -/
def sendTo (r : Req) (b : List Byte) (d : Dev) : Dev := { d with tx := .host r.port r.ip r.udp b (hostEther d r.port r.mac) d.ports.belufUdp :: d.tx }

/-! ### Streams and sessions end -/

/-- Changes a stream. -/
def updStream (id : Nat) (f : Stream → Stream) (d : Dev) : Dev :=
  { d with beluf := { d.beluf with streams := mapFirst (fun t => t.id == id) f d.beluf.streams } }
/-- The lines that bytes `a` to `a + n - 1` lie in. -/
def spanOfLines (a n : Nat) : List Nat := (List.range ((a % 64 + n + 63) / 64)).map fun i => a / 64 * 64 + 64 * i
/-- Bytes of a read stream's next frame (R441). -/
def frameLen (t : Stream) : Nat := min (if t.kind = 4 then 8176 else 8184) (t.len - t.next)
/-- The lines of a read stream's next frame are read, of a durable region from the committed copies under the epoch committed now
(R320, R365, R441). -/
def askFrame (t : Stream) (d : Dev) : Dev :=
  let h := opHandle d t.op
  let p := ((sessionOf d t.session).map fun q => q.port).getD 0
  let d := updStream t.id (fun t => { t with lines := [], lost := false, epoch := d.epoch.committed }) d
  hostCarry p h ((pieces hostChunk 256 (spanOfLines (t.addr + t.next) (frameLen t))).map fun as => .hostRead h (t.kind == 4) as) d
/-- Streams of one kind, those that `p` selects, run one at a time, in the order of their handles (R452): the next one starts
where none has. -/
def startKind (p : Stream → Bool) (d : Dev) : Dev :=
  let rs := d.beluf.streams.filter p
  if rs.any fun t => (opOf d t.op).started then d
  else match rs.find? fun t => (opOf d t.op).state == 0 with
    | some t =>
      let d := updOp t.op (fun p => { p with state := 1, started := true }) d
      if 3 ≤ t.kind then askFrame t d else d
    | none => d
/-- The next memory write stream and the next read stream start (R452). -/
def startStreams (d : Dev) : Dev := startKind (fun t => decide (3 ≤ t.kind)) (startKind (fun t => t.kind == 2) d)
/-- A stream closes; the operation of a memory stream ends in state `st` (R442, R452). -/
def endStream (id st result : Nat) (d : Dev) : Dev :=
  match d.beluf.streams.find? fun t => t.id == id with
  | none => d
  | some t =>
    let d := { d with beluf := { d.beluf with streams := d.beluf.streams.filter fun u => u.id != id } }
    if 2 ≤ t.kind then startStreams (opEnd t.op st result d) else d
/-- A session closes, and its streams are cancelled (R439; notes/assumptions/32). -/
def closeSession (id : Nat) (d : Dev) : Dev :=
  let ss := d.beluf.streams.filter fun t => t.session == id
  let d := ss.foldl (fun d t => endStream t.id 4 0 d) d
  { d with beluf := { d.beluf with sessions := d.beluf.sessions.filter fun s => s.id != id } }

/-! ### Rights and gates -/

/-- What session 0 may do (R437); opcodes 1 READ, 3 COMMAND, 8 DISCOVER. -/
def zeroMay (op idx sub : Nat) : Bool :=
  if op = 1 then
    (decide (0x1000 ≤ idx) && decide (idx ≤ 0x10FF)) || (idx == 0x1100 && sub == 0) ||
    (decide (0x1200 ≤ idx) && decide (idx ≤ 0x12FF) && ((objRow idx sub).map fun r => r.acc == .ro).getD false) ||
    ((idx == 0x6000 || idx == 0x6003 || idx == 0x7103) && sub == 0)
  else if op = 3 then sub == 0 && (idx == 0x1210 || idx == 0x1211 || idx == 0x1208)
  else op == 8

/-- What a performed request answers; `later` where its reply waits for a store's (R433, R461). -/
structure Res where
  st   : Nat
  data : List Byte := []
  otp  : Otp
  dev  : Dev
  later : Bool := false

/-- A request that changes nothing. -/
def refuse (st : Nat) (o : Otp) (d : Dev) : Res := { st := st, otp := o, dev := d }
/-- A request performed with a result. -/
def done (data : List Byte) (o : Otp) (d : Dev) : Res := { st := 0, data := data, otp := o, dev := d }

/-- A key command in a device state, or with an owner key, that R503 does not allow: it is answered STATE before its argument is
looked at (R504). -/
def keyShut (idx : Nat) (o : Otp) (d : Dev) : Bool :=
  if idx = 0x1208 then d.ctl.state != .inert || !o.owner.all (· == 0)
  else if idx = 0x1204 ∨ idx = 0x1205 ∨ idx = 0x1209 then d.ctl.state != .inert
  else idx == 0x120D && !(d.ctl.state == .inert || d.ctl.state == .loaded || d.ctl.state == .held)
/-- The key commands that need an open session (R503). -/
def keySession (idx sub : Nat) : Bool := sub == 0 && (idx == 0x1204 || idx == 0x1205 || idx == 0x1209 || idx == 0x120D)
/-- A COMMAND on an object: the checks that come before the command's own (R431, R434, R435, R449, R461). -/
def command (r : Req) (f : Otp → Dev → Res) (o : Otp) (d : Dev) : Res :=
  match objRow r.index r.sub with
  | none => refuse 1 o d
  | some row =>
    if row.acc ≠ .cmd then refuse 2 o d
    else if (d.ctl.state == .faulted && !(decide (0x1210 ≤ r.index) && decide (r.index ≤ 0x1212))) || objShut d r.index || keyShut r.index o d then refuse 3 o d
    else match tyCheck row.ty r.data with
      | some e => refuse e o d
      | none => f o d

/-! ### Serving -/

/-- The reply to a request in session `sid`. -/
def replyBytes (op sid : Nat) (r : Req) (x : Res) : List Byte := belufFrame op r.seq sid r.index r.sub x.st 1 x.data
/-- The reply to a performed request of an open session is sent, and kept with its SEQ (R432). -/
def replyTo (op : Nat) (r : Req) (x : Res) : Otp × Dev :=
  let b := replyBytes op r.session r x
  (x.otp, sendTo r b (updSession r.session (fun s => { s with lastSeq := some r.seq, reply := b }) x.dev))
/-- The same in session 0: one place for each source keeps its last SEQ and reply (R432, R437; notes/assumptions/32). -/
def replyZero (op : Nat) (r : Req) (x : Res) : Otp × Dev :=
  let b := replyBytes op 0 r x
  let z : Session := { id := 0, udp := r.udp, ip := r.ip, port := r.port, lastSeq := some r.seq, reply := b, beat := x.dev.beat.count }
  (x.otp, sendTo r b { x.dev with beluf := { x.dev.beluf with
    zero := x.dev.beluf.zero.filter (fun s => !(decide (s.ip = r.ip) && s.udp == r.udp)) ++ [z] } })
/-- Performs a request and answers it, or leaves its answer to the store. -/
def answer (op : Nat) (r : Req) (f : Otp → Dev → Res) (o : Otp) (d : Dev) : Otp × Dev :=
  let x := f o d
  if x.later then (x.otp, x.dev) else if r.session = 0 ∨ op = 8 then replyZero op r x else replyTo op r x
/-- The reply to the last request performed for the source of `r`, where `r` repeats its SEQ (R432). -/
def repeated (op : Nat) (r : Req) (d : Dev) : Option (List Byte) :=
  if r.session = 0 ∨ op = 8 then
    (d.beluf.zero.find? fun s => decide (s.ip = r.ip) && s.udp == r.udp && s.lastSeq == some r.seq).map fun s => s.reply
  else (sessionOf d r.session).bind fun s => if s.lastSeq = some r.seq then some s.reply else none
/-- A request whose source does not fit its open session (R439). -/
def foreign (r : Req) (d : Dev) : Bool :=
  match (if r.session = 0 then none else sessionOf d r.session) with
  | some s => decide (s.ip ≠ r.ip) || s.udp != r.udp
  | none => false

/-! ### The request queue (R433) -/

/-- Cycles that the engine spends on one request: the whole of its 60 ns (DESIGN CHOICE, notes/assumptions/89). -/
def engineCycles : Nat := 63
/-- Places of the queue that are taken. -/
def placesTaken (d : Dev) : Nat := (d.beluf.busy + engineCycles - 1) / engineCycles
/-- The queue has a place for a request: the last of 32 is kept for a HOLD. -/
def queueRoom (op : Nat) (r : Req) (d : Dev) : Bool := decide (placesTaken d < if op = 3 ∧ r.index = 0x1101 ∧ r.sub = 0 then 32 else 31)
/-- A request takes its place, and counts as one from its session (R433, R439). -/
def arrives (r : Req) (d : Dev) : Dev :=
  updSession r.session (fun s => { s with beat := d.beat.count }) { d with beluf := { d.beluf with busy := d.beluf.busy + engineCycles } }
/-- The request of the host for which a signal operation has been sent (R471). -/
def SigFor.req : SigFor → Option Req
  | .host _ q => some q
  | .own | .deliv => none
/-- The store has not yet answered an operation for a request of the session to the same index (R433, R471). -/
def storeWaits (d : Dev) (r : Req) : Bool :=
  d.sig.sent.any fun x => x.why.req.any fun q => q.session == r.session && q.index == r.index
/-- Commands that are performed away from the engine: those that use the security engine, among them every signature check, and
those of the numeric monitors and of a cell (R433, R461, R498). -/
def handedCommand (idx : Nat) : Bool :=
  idx == 0x1204 || idx == 0x1205 || idx == 0x1208 || idx == 0x1209 || idx == 0x120B || idx == 0x120C || idx == 0x120D ||
  idx == 0x1210 || idx == 0x1211 || idx == 0x5002 || idx == 0x5004 || idx == 0x8003
/-- Requests that the engine hands off: opcode 1 READ, 2 WRITE, 3 COMMAND (R433, R461, R498). A write of a signal and a raise
go to their store at once, whose reply answers them (R471). -/
def handedOver (op idx : Nat) : Bool := (op == 1 && objHanded idx) || (op == 2 && idx == 0x5000) || (op == 3 && handedCommand idx)
/-- A signature operation, of which the security engine serves one at a time (R498). -/
def signs (op : Nat) (r : Req) : Bool := op == 3 && handedCommand r.index && decide (r.index < 0x5000)
/-- Lines of a memory write stream have still to be acknowledged: its close waits for them (R306, R433, R442). -/
def streamWaits (d : Dev) (op : Nat) (r : Req) : Bool :=
  op == 6 && (d.beluf.streams.find? fun t => t.id == beNat r.data).any fun t => t.kind == 2 && hostBusy d (opHandle d t.op)
/-- A request waits for one to the same index that its session has handed off, or is handed off itself (R433, R461). -/
def handsOff (op : Nat) (r : Req) (d : Dev) : Bool :=
  handedOver op r.index || storeWaits d r || streamWaits d op r ||
  d.beluf.deferred.any fun q => q.req.session == r.session && q.req.index == r.index
/-- A request waits to be performed later (R433). -/
def handOff (op : Nat) (r : Req) (otpOk : Bool) (d : Dev) : Dev :=
  { d with beluf := { d.beluf with deferred := d.beluf.deferred ++ [{ op := op, req := r, sels := selsOf d r.session, otpOk := otpOk }] } }
/-- A request that has taken its place is served: a repeated one is answered again, one that may not be made is refused, one
that is handed off waits, and any other is performed (R432, R433, R437, R504). -/
def serveNow (op : Nat) (r : Req) (f : Otp → Dev → Res) (otpOk : Bool) (o : Otp) (d : Dev) : Otp × Dev :=
  match repeated op r d with
  | some b => (o, sendTo r b d)
  | none =>
    if r.session = 0 ∨ op = 8 then
      if !zeroMay op r.index r.sub then replyZero op r (refuse (if op = 3 ∧ keySession r.index r.sub = true then 3 else 6) o d)
      else if handsOff op r d then (o, handOff op r otpOk d) else answer op r f o d
    else if (sessionOf d r.session).isNone then (o, sendTo r (replyBytes op r.session r (refuse 6 o d)) d)
    else if handsOff op r d then (o, handOff op r otpOk d)
    else answer op r f o d
/-- One request arrives and is served (R432, R433, R437, R439): `f` performs it. One from another source than its session's, or
that finds no place in the queue, is discarded and counted. -/
def serve (op : Nat) (r : Req) (f : Otp → Dev → Res) (o : Otp) (d : Dev) (otpOk : Bool := true) : Otp × Dev :=
  if !hostHears o d r.port r.dst (op == 8) then (o, d)
  else if (op ≠ 8 ∧ foreign r d = true) ∨ queueRoom op r d = false then (o, belufDrop d)
  else serveNow op r f otpOk o (arrives r d)

/-- A request on the object of a row: the row fixes INDEX and SUB. -/
def onObject (idx sub : Nat) (r : Req) : Req := { r with index := idx, sub := sub }
/-- Serves a COMMAND on object `idx`:00; `f` performs it. -/
def serveCommand (idx : Nat) (r : Req) (f : Req → Otp → Dev → Res) (s : State) (otpOk : Bool := true) : Out :=
  let q := onObject idx 0 r
  onBoth (fun o d => serve 3 q (command q (f q)) o d otpOk) s
/-- A WRITE of VALUE through the selectors `t`: a SET at the store, whose reply is the request's (R471). -/
def signalWrite (t : Sels) (r : Req) (o : Otp) (d : Dev) : Res :=
  match objWriteCheck false r.index r.sub r.data d with
  | some e => refuse e o d
  | none =>
    if storeReachable d (selSig t).1 then
      { done [] o (hostSignal false 2 r (selSig t).1 (selSig t).2 (BitVec.ofNat 64 (beNat r.data)) d) with later := true }
    else refuse 4 o d
/-- Performs a WRITE (R436). -/
def writeObject (r : Req) (sels : Sels) (o : Otp) (d : Dev) : Res :=
  if r.index = 0x4201 ∧ r.sub = 1 then signalWrite sels r o d
  else
  let w := objWrite sels false r.index r.sub r.data d
  { st := w.1, otp := o, dev := updSession r.session (fun s => { s with sels := w.2.2 }) w.2.1 }
/-- Serves a WRITE of object `idx`:`sub`. -/
def serveWrite (idx sub : Nat) (r : Req) (s : State) : Out :=
  let q := onObject idx sub r
  onBoth (serve 2 q fun o d => writeObject q (selsOf d q.session) o d) s

/-! ### Writes with rows of their own -/

/-- BEAT_PERIOD_NS_WRITE (R337). -/
def execBeatPeriodNsWrite (r : Req) (s : State) : Out := serveWrite 0x2202 0 r s
/-- SCHED_ENTRY_WRITE (R348, R350). -/
def execSchedEntryWrite (r : Req) (s : State) : Out := serveWrite 0x4010 r.sub r s
/-- SCIENTIFIC_ENABLE_WRITE (R469). -/
def execScientificEnableWrite (r : Req) (s : State) : Out := serveWrite 0x4020 0 r s
/-- HBM_INTERLEAVE_WRITE (R315). -/
def execHbmInterleaveWrite (r : Req) (s : State) : Out := serveWrite 0x3001 0 r s
/-- MON_SELECT_WRITE (R135, R472). -/
def execMonSelectWrite (r : Req) (s : State) : Out := serveWrite 0x5000 0 r s
/-- FAB_ENABLE_WRITE (R376, R398). -/
def execFabEnableWrite (r : Req) (s : State) : Out := serveWrite 0x2100 r.sub r s
/-- ROUTE_TABLE_WRITE (R391). -/
def execRouteTableWrite (r : Req) (s : State) : Out := serveWrite 0x2109 r.sub r s
/-- HOST_ENABLE_WRITE (R375, R510). -/
def execHostEnableWrite (r : Req) (s : State) : Out := serveWrite 0x2000 r.sub r s
/-- SIG_VALUE_WRITE (R471). -/
def execSigValueWrite (r : Req) (s : State) : Out := serveWrite 0x4201 1 r s

/-! ### Signal replies (R300-R302, R308, R471) -/

/-- A store answers an operation of a mover or an I/O die: a delivered raise ends its delivery (R308), a host's request is answered
(R471), and one of the agent's own has nothing that waits for it. -/
def agentReply (src : Src) (f : Nat) (res : SigRes) (v : W64) (o : Otp) (d : Dev) : Otp × Dev :=
  let own (x : SigSent) : Bool := decide (x.src = src) && x.f == f
  match d.sig.sent.find? own with
  | none => (o, d)
  | some x =>
    let d := { d with sig := { d.sig with sent := eraseFirst own d.sig.sent } }
    match x.why with
    | .own => (o, d)
    | .deliv => (o, match (srcMover src).bind (delivOn d) with
        | some y => delivEnd { y with refused := res != .done } d
        | none => d)
    | .host op r =>
      if (sessionOf d r.session).isNone then (o, d)
      else if res = .done then replyTo op r (done (if op = 3 then beBytes 8 v.toNat else []) o d)
      else replyTo op r (refuse 4 o d)
/-- A reply of store `f` reaches a cell, which `g` serves, or another agent. -/
def storeAnswers (dst : Src) (f : Nat) (res : SigRes) (v : W64) (g : LCell → Dev → Dev) : Otp → Dev → Otp × Dev :=
  arriveO (.store f) dst [.sigReply f res v] fun o d => match srcCell dst with
    | some c => (o, g c d)
    | none => agentReply dst f res v o d
/-- SIGNAL_REPLY_DONE (R218, R300). -/
def execSignalReplyDone (dst : Src) (f : Nat) (v : W64) (s : State) : Out :=
  onBoth (storeAnswers dst f .done v fun c => signalAnswer c f v) s
/-- SIGNAL_REPLY_REFUSED: the old value returns to the register (R302). -/
def execSignalReplyRefused (dst : Src) (f : Nat) (v : W64) (s : State) : Out :=
  onBoth (storeAnswers dst f .refused v fun c => signalAnswer c f v) s
/-- SIGNAL_REPLY_ABSENT: the register of a READ or ADD becomes zero (R301). -/
def execSignalReplyAbsent (dst : Src) (f : Nat) (s : State) : Out :=
  onBoth (storeAnswers dst f .absent 0 fun c => signalAnswer c f 0) s

end Sys2Proof.Machine
end

