-- ==== Sys2Proof/Machine/OpControl.lean ====
section
/-! DEFINITION. The control of long operations (R451, R452), and what a load or a waiting reload leaves where it ends before its time
(R408, R417, R423, R448). -/
namespace Sys2Proof.Machine

/-- Changes images and cascade. -/
def updConfig (f : Config → Config) (d : Dev) : Dev := { d with config := f d.config }

/-- The selectors through which a preset acts: those of session 0, with the clause that the record names, whatever session 0
has selected (R461). -/
def presetSels (clause : Nat) (d : Dev) : Sels := { d.beluf.zeroSels with clause := clause }

/-! ### Releasing a load (R408, R417, R448) -/

/-- The words of a frame that stay failed once every word is free. -/
def freeWord (w : SigWord) : SigWord := { failed := w.failed }
/-- Every clause, sentence and allocation goes: slots are EMPTY, words free, the image copy and its reservations freed. -/
def clearPlan (d : Dev) : Dev :=
  let t := NMap.mapVals {} (fun k e => if k = 0 then e else {}) d.plan.sched
  { d with
    plan := { sched := t, sci := d.plan.sci }
    cells := NMap.mapVals {} (fun _ x => { x with slots := [], ctrOf := 0 }) d.cells
    sig := { d.sig with words := NMap.mapVals {} (fun _ => freeWord) d.sig.words, monitors := [] }
    tiers := { d.tiers with copyBase := 0, copyLen := 0, reserved := [] }
    config := { d.config with copy := [], undo := [], selftest := false, reloads := [], rewrite := [], seals := [] } }
/-- Takes back the presets of a load, newest first; those of clause objects went with their clauses. -/
def undoPresets (l : List (Nat × Nat × Nat × List Byte)) (d : Dev) : Dev :=
  l.foldl (fun d u =>
    if u.1 = 0x4201 ∨ u.1 = 0x5000 then d
    else match objPut (presetSels u.2.2.1 d) u.1 u.2.1 u.2.2.2 d with
      | .inr r => if objSelector u.1 then { r.1 with beluf := { r.1.beluf with zeroSels := r.2 } } else r.1
      | .inl _ => d) d
/-- Nothing of a load is released: its clauses, presets and image copy go, its stream closes, and its operation ends (R408). -/
def dropLoad (st result : Nat) (o : Otp) (d : Dev) : Dev :=
  let u := d.config.undo
  let d := undoPresets u (clearPlan d)
  let d := match d.config.loading with
    | some l => opEnd l.op st result d
    | none => d
  let d := { d with
    config := { d.config with loading := none }
    beluf := { d.beluf with streams := d.beluf.streams.filter fun t => t.kind != 0 } }
  driveDomains o.ordering (setState .inert d)
/-! ### Releasing a reload (R423) -/

/-- The image stream of a reload closes. -/
def dropReloadStream (r : Reload) (d : Dev) : Dev :=
  { d with beluf := { d.beluf with streams := d.beluf.streams.filter fun t => t.kind != 1 || some t.op != r.op } }
/-- The reload of an operation slot. -/
def reloadOf (d : Dev) (k : Nat) : Option Reload := d.config.reloads.find? fun r => r.op == some k
/-- A reload that has not begun goes: its operation ends in state `st` (R423). -/
def dropReload (k st result : Nat) (d : Dev) : Dev :=
  match reloadOf d k with
  | some r => opEnd k st result (dropReloadStream r (updConfig (fun c => { c with reloads := c.reloads.filter fun r => r.op != some k }) d))
  | none => d

/-! ### OP_CONTROL (R451, R452) -/

/-- A stream of an operation slot. -/
def streamOfOp (d : Dev) (k : Nat) : Option Stream := d.beluf.streams.find? fun t => t.op == k && decide (2 ≤ t.kind)
/-- Cancels the operation in slot `k` where R452 permits it. -/
def opCancel (k : Nat) (o : Otp) (d : Dev) : Res :=
  let p := opOf d k
  if p.index = 0 then
    match streamOfOp d k with
    | some t => done [] o (endStream t.id 4 0 d)
    | none => refuse 3 o d
  else if p.index = 0x1110 then done [] o (dropLoad 4 0 o d)
  else if p.index = 0x1112 ∧ p.state = 0 then done [] o (dropReload k 4 0 d)
  else if p.index = 0x3108 ∧ p.state = 0 then
    done [] o (opEnd k 4 0 { d with epoch := { d.epoch with abandonOps := d.epoch.abandonOps.filter (· != k) } })
  else if p.index = 0x3109 then done [] o (opEnd k 4 0 { d with epoch := { d.epoch with commitNow := none } })
  else if p.index = 0x6100 ∧ p.state = 0 then
    done [] o (opEnd k 4 0 { d with health := { d.health with jigs := d.health.jigs.map fun j => { j with queue := j.queue.filter fun q => q.2.2 != k } } })
  else refuse 3 o d
/-- An accepted write of OP_CONTROL with handle `h` and action `act`. -/
def opControl (h act : Nat) (o : Otp) (d : Dev) : Res :=
  let k := h % 64
  let p := opOf d k
  if h / 64 ≠ p.serial % 1024 then refuse 4 o d
  else if !p.used then refuse 3 o d
  else match act with
  | 0 => if opTerminal p then done [] o (updOp k (fun p => { p with used := false }) d) else refuse 3 o d
  | 1 => if p.index = 0 ∧ p.state ≤ 1 then done [] o (updOp k (fun p => { p with state := 2 }) d) else refuse 3 o d
  | 2 => if p.state = 2 then done [] o (startStreams (updOp k (fun p => { p with state := if p.started then 1 else 0 }) d)) else refuse 3 o d
  | _ => if opTerminal p then refuse 3 o d else opCancel k o d

end Sys2Proof.Machine
end

