-- ==== Sys2Proof/Machine/Load.lean ====
section
/-! DEFINITION. Loading an image (R408, R413-R420): its bytes on arrival, placement, presets, the end of the load, the
cascade's start. -/
namespace Sys2Proof.Machine

/-- A notice of R408. -/
def recImage (e : ImgErr) (d : Dev) : Dev := recPlain e.code 0 e.clause e.d0 e.d1 d

/-! ### Bytes on arrival (R408) -/

/-- The device's position (R413). -/
def cascPosition (d : Dev) : Nat := if d.power.straps.master then 0 else d.config.position
/-- The header of an image. -/
def Loading.header (l : Loading) : List Byte := getBytes l.bytes 0 0x100
/-- The segment table of an image whose header is known. -/
def Loading.table (l : Loading) : List Byte := getBytes l.bytes 0x100 (64 * hdSegments l.header)
/-- The kept segment's range in the image. -/
def Loading.keptRange (l : Loading) : Option (Nat × Nat × Nat) := l.kept.map fun i => (i, segOff l.table i, segLen l.table i)
/-- The first number from `a` on and below `e` that a rising map does not list. -/
def firstMissing : NMap (Option Byte) → Nat → Nat → Option Nat
  | [], a, e => if a < e then some a else none
  | (k, _) :: m, a, e => if e ≤ a then none else if k < a then firstMissing m a e else if k = a then firstMissing m (a + 1) e else some a
/-- The first byte of a range that has not arrived. -/
def firstGap (m : NMap (Option Byte)) (a n : Nat) : Option Nat := firstMissing m a (a + n)
/-- Checks the parts that have fully arrived; the measurements that they extend under LOAD or, for a partial image, under
RELOAD (R408, R506). -/
def checkParts (part : Bool) (o : Otp) (l : Loading) (d : Dev) : Loading × Dev :=
  let fail (e : ImgErr) (l : Loading) : Loading := { l with fail := some (e.code, e.d0, e.d1) }
  let ext (a b : Nat) (v : List Byte) (d : Dev) : Dev := if part then (if b = 0 then d else extend b v d) else extend a v d
  let p := if l.hdr || (firstGap l.bytes 0 0x100).isSome then (l, d)
    else match headerErr part o l.header with
      | some e => (fail e l, d)
      | none => ({ l with hdr := true }, ext 0 3 (sha256 l.header) d)
  let l := p.1
  let p := if !l.hdr || l.tab || l.fail.isSome || (firstGap l.bytes 0x100 (64 * hdSegments l.header)).isSome then p
    else match tableErr l.header l.table with
      | some e => (fail e l, p.2)
      | none =>
        let k := match imageSegment o (cascPosition p.2) l.header l.table with
          | .inr i => some i
          | .inl _ => none
        ({ l with tab := true, kept := k }, ext 1 0 (hdBody l.header) p.2)
  let l := p.1
  match l.keptRange with
  | none => p
  | some (i, a, n) =>
    if l.seg || l.fail.isSome || (firstGap l.bytes a n).isSome then p
    else if sha256 (getBytes l.bytes a n) ≠ segHash l.table i then (fail { code := 0x0803, d0 := a, d1 := i } l, p.2)
    else ({ l with seg := true }, ext 2 4 (segHash l.table i) p.2)
/-- Image data arrive: bytes received again replace those held; bytes past TOTAL_LENGTH are ignored, and after a failure none
is kept (R402, R408, R416, R441). -/
def takeImage (part : Bool) (o : Otp) (off : Nat) (data : List Byte) (l : Loading) (d : Dev) : Loading × Dev :=
  let data := if l.hdr then data.take (hdTotal l.header - off) else data
  let l := { l with last := d.beat.count }
  if l.fail.isSome || l.ended.isSome || data.isEmpty then (l, d)
  else checkParts part o { l with bytes := putBytes l.bytes off data } d
/-- The first failure of an image at its end: the failure on arrival, a byte that is missing, the image's own end, another
device's image (R408). `short` is the idle limit's case. -/
def imageErr (o : Otp) (short : Bool) (d : Dev) (l : Loading) : Option ImgErr :=
  let total := if l.hdr then hdTotal l.header else 0x100
  let miss : Option (Nat × Nat) :=
    if !l.hdr then (firstGap l.bytes 0 0x100).map fun a => (a, 0xFFFFFFFF)
    else match firstGap l.bytes 0x100 (64 * hdSegments l.header) with
      | some a => some (a, 0xFFFFFFFF)
      | none => match l.keptRange with
        | some (i, a, n) => (firstGap l.bytes a n).map fun b => (b, i)
        | none => none
  match l.fail, miss with
  | some (c, a, b), _ => some { code := c, d0 := a, d1 := b }
  | none, some (a, i) => some { code := 0x0801, d0 := a, d1 := i }
  | none, none =>
    if short then some { code := 0x0801, d0 := total }
    else match l.ended with
      | some (some a) => some { code := 0x0801, d0 := a }
      | _ => match imageSegment o (cascPosition d) l.header l.table with
        | .inl a => some { code := 0x0802, d0 := a }
        | .inr _ => none

/-! ### Forwarding (R414, R415) -/

/-- The OFFSET word of an IMAGE frame (R414). -/
def offsetWord (fin : Bool) (pos byte : Nat) : List Byte := beBytes 8 ((if fin then 2 ^ 63 else 0) + pos % 64 * 2 ^ 56 + byte % 2 ^ 40)
/-- A device forwards where its position is not the last (R415). -/
def forwards (d : Dev) : Bool := cascPosition d + 1 != d.config.size
/-- Forwards image bytes out of F2. -/
def sendImage (fin : Bool) (off : Nat) (data : List Byte) (d : Dev) : Dev :=
  fabPut 2 (linkFrame d 9 (offsetWord fin (cascPosition d) off ++ data)) d
/-- A range lies wholly inside the kept segment. -/
def Loading.keeps (l : Loading) (off n : Nat) : Bool :=
  match l.keptRange with
  | some (_, a, k) => decide (a ≤ off) && decide (off + n ≤ a + k)
  | none => false
/-- The boundaries that no frame spans: the table's end and each segment's start and end (R414). -/
def Loading.bounds (l : Loading) : List Nat :=
  tableEnd l.header :: (List.range (hdSegments l.header)).flatMap fun i => [segOff l.table i, segOff l.table i + segLen l.table i]
/-- Cuts data into frames of at most 4,096 B that span no boundary. -/
def cutFrames (bounds : List Nat) : Nat → Nat → List Byte → List (Nat × List Byte)
  | 0, _, _ => []
  | k + 1, off, data =>
    if data.isEmpty then []
    else
      let n := bounds.foldl (fun n b => if off < b then min n (b - off) else n) (min 4096 data.length)
      (off, data.take n) :: cutFrames bounds k (off + n) (data.drop n)
/-- The master re-frames what has arrived, in arrival order; every frame but those inside the kept segment goes on (R415). -/
def forwardRest (l : Loading) (d : Dev) : Loading × Dev :=
  let fs := l.unsent.flatMap fun x => cutFrames (if l.tab then l.bounds else []) (x.2.length + 1) x.1 x.2
  ({ l with unsent := [] }, fs.foldl (fun d f => if l.keeps f.1 f.2.length then d else sendImage false f.1 f.2 d) d)
/-- Image data of the master go on once the segment table is known or the image has failed (R415). -/
def forwardBulk (off : Nat) (data : List Byte) (l : Loading) (d : Dev) : Loading × Dev :=
  let w := l.unsent ++ [(off, data)]
  if !forwards d then (l, d)
  else if !l.tab && l.fail.isNone then ({ l with unsent := w }, d)
  else forwardRest { l with unsent := w } d

/-! ### Placement (R43-R47, R296, R297, R313, R355) -/

/-- Writes the words of a placed clause from its signal table (R295, R297). -/
def placeWords (cl : Clause) (d : Dev) : Dev :=
  (List.range cl.signals).foldl (fun d i => match runAt cl.runs i with
    | none => d
    | some (f, w) =>
      let b := slice cl.sigTab (24 * i) 24
      let fl := fld b 0x10 1
      let v : W64 := BitVec.ofNat 64 (fld b 0 8)
      updSig f w (fun _ => { value := v, alloc := true, ceilEn := bit fl 0, remote := bit fl 1, resetOnAct := bit fl 2, failed := false,
                             owner := cl.id, refused := 0, ceiling := BitVec.ofNat 64 (fld b 8 8), init := v }) d) d
/-- The slot `k` of a clause's cells is its own from now on. -/
def takeSlots (cl : Clause) (d : Dev) : Dev :=
  cl.cells.foldl (fun d c => updCell c (updSlot cl.slot fun _ => { st := .filling, clause := cl.id }) d) d
/-- The next free granule of the ledger: granules go to regions in load order (R355). -/
def nextGranule (d : Dev) : Nat := (d.plan.clauses.flatMap fun c => c.durable).foldl (fun n u => n + u.len / Config.granuleBytes) 0
/-- Places one clause of a segment that starts at image offset `base` (R534): the failure, or the device with the clause's
resources taken. -/
def placeClause (ord base : Nat) (c : ImgClause) (d : Dev) : Sum ImgErr Dev :=
  let k := c.contract
  match (cellsErr c).or (durableErr k [] c.durable) with
  | some e => .inl e
  | none => match searchPlace ord d k 0 with
    | .inl u => let w := unmetDetails d k u; .inl { code := 0x0805, d0 := w.1, d1 := w.2, clause := ctId k }
    | .inr p =>
      let cl : Clause := {
        id := ctId k, contract := k, orow := p.orow, ocol := p.ocol, slot := p.slot, hbmBase := p.hbm, lpBase := p.lp
        runs := p.runs, durable := durableList p.hbm p.lp (nextGranule d) c.durable, recs := c.recs, sigTab := c.sigTab
        filling := true, cfg := (base + c.off, c.len) }
      .inr (placeWords cl (takeSlots cl { d with plan := { d.plan with clauses := d.plan.clauses ++ [cl] } }))
/-- Places clauses in order (R45). -/
def placeClauses (ord base : Nat) : List ImgClause → Dev → Sum ImgErr Dev
  | [], d => .inr d
  | c :: cs, d => match placeClause ord base c d with
    | .inl e => .inl e
    | .inr d => placeClauses ord base cs d
/-- Relocates the placed clauses (R411). -/
def relocateAll (base : Nat) : List ImgClause → Dev → Sum ImgErr Dev
  | [], d => .inr d
  | c :: cs, d => match clauseOf d (ctId c.contract) with
    | none => relocateAll base cs d
    | some cl => match applyRelocs (base + c.relOff) 0 c.relocs cl with
      | .inl e => .inl e
      | .inr cl => relocateAll base cs (updClause cl.id (fun _ => cl) d)

/-! ### Presets (R407, R411, R417, R461) -/

/-- Writes an object as a preset: the STATUS and the device. -/
def presetWrite (idx sub clause : Nat) (v : List Byte) (d : Dev) : Nat × Dev :=
  let s := presetSels clause d
  let r := objWrite s true idx sub v d
  let z := if idx = 0x4001 then r.2.2 else { r.2.2 with clause := d.beluf.zeroSels.clause }
  (r.1, if objSelector idx then { r.2.1 with beluf := { r.2.1.beluf with zeroSels := z } } else r.2.1)
/-- The value of a preset with its relocation, where that is not BEAT (R410): the clause that it names is placed. -/
def presetValue (x : ImgPreset) (d : Dev) : Option (List Byte) :=
  if x.rtype = 0 ∨ x.rtype = 9 then some x.value
  else (clauseOf d x.clause).bind fun cl => patchValue x.index x.value x.field.1 x.field.2 (relocValue cl 0 x.rtype)
/-- The value that an object reads before a preset writes it. -/
def presetBefore (x : ImgPreset) (o : Otp) (d : Dev) : List (Nat × Nat × Nat × List Byte) :=
  match objRow x.index x.sub with
  | none => []
  | some r => match r.get o d (presetSels x.clause d) x.sub with
    | .inr b => [(x.index, x.sub, x.clause, b)]
    | .inl _ => []
/-- The BEAT field of a preset. -/
def ImgPreset.beatField (x : ImgPreset) : Option (Nat × Nat) := if x.rtype = 9 then some x.field else none
/-- A preset of OP_CONTROL acts as a host's write does (R435, R451, R459): none where that refuses it, else the device. -/
def presetControl (x : ImgPreset) (v : List Byte) (o : Otp) (d : Dev) : Option Dev :=
  if (objWriteCheck true x.index x.sub v d).isSome then none
  else
    let w := beNat v
    let r := opControl (bits w 31 16) (bits w 1 0) o d
    if r.st = 0 then some r.dev else none
/-- Writes the `i`-th preset record of segment `si`, which starts at image offset `base` (R417, R506). A preset of a schedule
entry is stored for the start beat (R350). Code 0 is that of a preset that cancels its own load. -/
def putPreset (base si i : Nat) (x : ImgPreset) (o : Otp) (d : Dev) : Sum ImgErr Dev :=
  let ioff := base + x.off
  match presetValue x d with
  | none => .inl { code := 0x0807, d0 := ioff, d1 := i }
  | some v =>
    let later : List StartPreset := [{ index := x.index, sub := x.sub, clause := x.clause, value := v, field := x.beatField, ioff := ioff, idx := i }]
    let store (d : Dev) : Dev := extend 5 (sha256 x.raw) { d with plan := { d.plan with startPresets := d.plan.startPresets ++ later } }
    let no : Sum ImgErr Dev := .inl { code := 0x0808, d0 := ioff, d1 := si }
    if x.index = 0x1121 then
      (match presetControl x v o d with
       | none => no
       | some u => if d.config.loading.isSome && u.config.loading.isNone then .inl { code := 0, d0 := ioff } else .inr (extend 5 (sha256 x.raw) u))
    else if x.index = 0x4010 then (if (objWriteCheck true x.index x.sub v d).isSome then no else .inr (store d))
    else
      let u := presetBefore x o d
      let r := presetWrite x.index x.sub x.clause v d
      if r.1 ≠ 0 then no
      else
        let d := updConfig (fun c => { c with undo := u ++ c.undo }) r.2
        .inr (if x.rtype = 9 then store d else extend 5 (sha256 x.raw) d)
/-- Writes preset records in order, up to the first that is refused: its failure, and the device. -/
def putPresets (base si : Nat) (o : Otp) : List (ImgPreset × Nat) → Dev → Option ImgErr × Dev
  | [], d => (none, d)
  | x :: xs, d => match putPreset base si x.2 x.1 o d with
    | .inl e => (some e, d)
    | .inr d => putPresets base si o xs d
/-- A preset that comes before placement (R417 step 2). -/
def presetFirst (x : ImgPreset) : Bool := (x.index == 0x4020 || x.index == 0x3001) && x.sub == 0

/-- A load fails: the record, and INERT. A preset that cancels the load (code 0) leaves the operation CANCELLED, and no record (R417). -/
def failLoad (e : ImgErr) (o : Otp) (d : Dev) : Dev := if e.code = 0 then dropLoad 4 0 o d else dropLoad 5 e.code o (recImage e d)

/-! ### Completing a load (R417) -/

/-- The image copy and the save areas take the top of HBM (R313). -/
def reserveCopy (n : Nat) (d : Dev) : Dev :=
  let len := upTo 4096 n
  let b := Config.hbmBytes - len
  let save := 0x1000000
  { d with tiers := { d.tiers with
    copyBase := b, copyLen := len
    reserved := [(b - save, save), ((frameWindow 2).2 - save, save), ((frameWindow 1).2 - save, save), ((frameWindow 0).2 - save, save)] } }
/-- The image copy of a load. -/
def keepCopy (l : Loading) (d : Dev) : Dev :=
  match l.keptRange with
  | none => d
  | some (_, a, n) =>
    let top := tableEnd l.header
    reserveCopy (top + n) (updConfig (fun c => { c with copy := putBytes (putBytes [] 0 (getBytes l.bytes 0 top)) a (getBytes l.bytes a n) }) d)
/-- Free spares take the places of failed words (R293); what a word then holds is not stated until a clause writes it. -/
def spareWords (d : Dev) : Dev :=
  (d.sig.words.filter fun e => e.2.failed).foldl (fun d e =>
    let f := e.1 / 4096
    let w := e.1 % 4096
    match (sparesFree d f).head? with
    | none => d
    | some k =>
      let r := drawFree 6 d
      let old := NMap.mapVals 0 (fun i v => if i / 128 = f ∧ v = w + 1 then 0 else v) r.2.sig.spares
      updSig f w (fun x => { x with failed := false, value := r.1 })
        { r.2 with sig := { r.2.sig with spares := NMap.set 0 old (f * 128 + k) (w + 1) } }) d
/-- Shims come into use (R72, R91). -/
def bringShims (o : Otp) (d : Dev) : Dev := applyTables (askTables (retireMap o d) (fun _ => true) d)
/-- The tables of a load may take effect: they are those in force, or phase 0 has come and no flit injected under the old ones is
still to be delivered (R84). No cell injects while the device loads. -/
def shimsMayCome (o : Otp) (d : Dev) : Bool :=
  let n := newTables (retireMap o d) (fun _ => true) d
  (d.mesh.next.isNone && decide (n.1 = d.mesh.remap) && decide (n.2.1 = d.mesh.detour)) ||
    (d.beat.cyc == 0 && d.mesh.flits.all fun f => !f.inj)
/-- Step 2 of R417 after its presets, with the checks of R534: every clause in order up to a malformed one, relocation, the
sentences. -/
def placeParts (o : Otp) (base : Nat) (bad : Nat → ImgErr) (p : ImgParts) (d : Dev) : Sum ImgErr Dev :=
  match placeClauses o.ordering base p.clauses (bringShims o (spareWords d)) with
  | .inl e => .inl e
  | .inr d => match p.bad with
    | some a => .inl (bad a)
    | none => match relocateAll base p.clauses d with
      | .inl e => .inl e
      | .inr d => match (sentenceErr (d.plan.clauses.map fun c => c.id) p.sentences).or (p.badSentence.map bad) with
        | some e => .inl e
        | none =>
          let d := { d with plan := { d.plan with sentences := p.sentences } }
          .inr (d.plan.clauses.foldl (fun d cl => endFill cl d) d)
/-- Steps 1 to 3 of R417: the failure, and the device as it then stands. -/
def buildLoad (l : Loading) (o : Otp) (d : Dev) : Option ImgErr × Dev :=
  match l.keptRange with
  | none => (some { code := 0x0802, d0 := 0x100 }, d)
  | some (si, base, n) =>
    let d := keepCopy l d
    let bad (a : Nat) : ImgErr := { code := 0x0807, d0 := base + a, d1 := si }
    match segmentParts (getBytes l.bytes base n) with
    | none => (some (bad 0), d)
    | some p =>
      let ps := p.presets.zipIdx
      let a := putPresets base si o (ps.filter fun x => presetFirst x.1) d
      if a.1.isSome then a
      else match placeParts o base bad p a.2 with
      | .inl e => (some e, a.2)
      | .inr d =>
        let b := putPresets base si o (ps.filter fun x => !presetFirst x.1) d
        if b.1.isSome then b else (p.badPreset.map bad, b.2)

/-- The throttle schedule step is 0 after a LOAD (R524). -/
def noSchedStep (d : Dev) : Dev :=
  updPower (fun p => { p with schedStep := 0, stepNext := max p.powerStep p.thermStep }) d
/-- What an accepted LOAD does, with its operation in slot `k` (R417, R499, R506, R524). -/
def beginLoad (src k : Nat) (o : Otp) (d : Dev) : Dev :=
  let d := [0, 1, 2, 5].foldl (fun d i => setMeasure i (List.replicate 32 0) d) (opStart k 0x1110 0 1 d)
  let d := noSchedStep (updConfig (fun c => { c with loading := some { source := src, op := k, last := d.beat.count } }) d)
  let d := driveDomains o.ordering (setState .loading d)
  if d.sec.identity = some 0 then d else recPlain 0x0B03 2 0 (d.sec.identity.getD 0) 0 d
/-- LOAD (R417, R445). -/
def loadCmd (r : Req) (o : Otp) (d : Dev) : Res :=
  let src := beNat r.data
  if d.ctl.state ≠ .inert ∨ d.power.fatalInert ∨ d.config.loading.isSome then refuse 3 o d
  else if 2 < src then refuse 4 o d
  else match opSlot d with
  | none => refuse 7 o d
  | some k => let d := beginLoad src k o d; done (beBytes 2 (opHandle d k)) o d
/-- LOAD. -/
def execLoad (r : Req) (s : State) : Out := serveCommand 0x1110 r loadCmd s

/-- The load under way, while its image still comes. -/
def loadingNow (d : Dev) : Option Loading :=
  match d.config.loading with
  | some l => if booted d && d.ctl.state == .loading && !d.config.selftest then some l else none
  | none => none
/-- Sets the load under way, and its operation's progress. -/
def setLoading (l : Loading) (d : Dev) : Dev :=
  updOp l.op (fun p => { p with progress := min 0xFFFFFFFF l.bytes.length }) (updConfig (fun c => { c with loading := some l }) d)

/-- A member takes an IMAGE frame of its chain (R413-R415). CASC_POSITION's detail words are the position and 0xFFFFFFFF (DESIGN
CHOICE, log 76: the spec names neither). -/
def chainFrame (off : W64) (data : List Byte) (l : Loading) (o : Otp) (d : Dev) : Dev :=
  let first := l.chain.isNone
  let sp := l.chain.getD (bits off.toNat 61 56 + 1)
  let d := if first ∧ sp < 64 then updConfig (fun c => { c with position := sp }) d else d
  let l := if first then { l with chain := some sp, fail := if d.config.size ≤ sp then some (0x080A, sp, 0xFFFFFFFF) else l.fail } else l
  let byte := bits off.toNat 39 0
  let fin := bit off.toNat 63
  let r := if fin then
      ({ l with last := d.beat.count, ended := some (if l.hdr && decide (data ≠ hdBody l.header) then some (hdTotal l.header) else none) }, d)
    else takeImage false o byte data l d
  let d := setLoading r.1 r.2
  if sp + 1 = d.config.size ∨ (!fin && r.1.keeps byte data.length) then d
  else fabPut 2 (linkFrame d 9 (beBytes 8 (off.toNat - bits off.toNat 61 56 * 2 ^ 56 + sp % 64 * 2 ^ 56) ++ data)) d
/-- IMAGE_FRAME (R414, R415): ignored and counted but on F3 of a member under LOAD with source 1. -/
def execImageFrame (p : Nat) (lseq : Nat) (off : W64) (data : List Byte) (s : State) : Out :=
  onBoth (linkPass p 9 (8 + data.length) lseq fun o d =>
    match loadingNow d with
    | some l =>
      if p = 3 ∧ l.source = 1 ∧ d.power.straps.master = false ∧ l.ended = none ∧ data.length ≤ 4096 then (o, chainFrame off data l o d)
      else (o, fabDiscard p d)
    | none => (o, fabDiscard p d)) s

/-- IMAGE_END (R408, R417): the image has ended; it fails, or the load goes on to its self-test, at a phase 0 where its shims
change the tables (R84). The presets that a failed load had written stay measured (R506). -/
def execImageEnd (s : State) : Out :=
  onDevO (fun o d => match loadingNow d with
    | none => d
    | some l =>
      if l.ended.isNone then d
      else match imageErr o false d l with
        | some e => failLoad e o d
        | none => if !shimsMayCome o d then d else match buildLoad l o d with
          | (some e, u) => failLoad e o { d with sec := { d.sec with measure := u.sec.measure } }
          | (none, d) => updConfig (fun c => { c with selftest := true }) d) s
/-- IMAGE_IDLE_TIMEOUT (R408): 2^20 beats without image data. -/
def execImageIdleTimeout (s : State) : Out :=
  onDevO (fun o d => match loadingNow d with
    | none => d
    | some l =>
      if l.ended.isSome ∨ d.beat.count < l.last + 2 ^ 20 then d
      else match imageErr o true d l with
        | some e => failLoad e o d
        | none => d) s

/-! ### The start-up self-test (R417 step 4, R492) -/

/-- The self-test leaves every Noun byte, queue entry and working store at zero. -/
def zeroCell (x : Cell) : Cell :=
  { x with queues := [], pend := [], pendS := [], opfile := [], noun := { x.noun with mem := [], bad := [] }
           conj := { x.conj with regs := [], dmem := [], mbox := [] } }
/-- Re-placed cell records of a clause, parsed anew from its configuration in the image copy. -/
def configOf (d : Dev) (cl : Clause) : Option ImgClause :=
  match clauseConfig [] (getBytes d.config.copy cl.cfg.1 cl.cfg.2) 0 with
  | .inr c => some c
  | .inl _ => none
/-- A clause relocated anew at its place. -/
def relocated (d : Dev) (cl : Clause) : Sum ImgErr Clause :=
  match configOf d cl with
  | none => .inl { code := 0x0807, d0 := cl.cfg.1, clause := cl.id }
  | some c => applyRelocs (cl.cfg.1 + c.relOff) 0 c.relocs { cl with recs := c.recs, beatRel := [] }
/-- Frees a clause's slot in the cells of its region. -/
def freeSlots (cl : Clause) (d : Dev) : Dev := cl.cells.foldl (fun d c => updCell c (updSlot cl.slot fun _ => {}) d) d
/-- A clause whose own region no longer satisfies its contract moves; its memory and words stay (R48, R425). -/
def movePlaced (ord : Nat) (cl : Clause) (d : Dev) : Sum ImgErr Dev :=
  match searchPlace ord d cl.contract cl.id with
  | .inl u => let w := unmetDetails d cl.contract u; .inl { code := 0x0805, d0 := w.1, d1 := w.2, clause := cl.id }
  | .inr p => match relocated d { cl with orow := p.orow, ocol := p.ocol, slot := p.slot } with
    | .inl e => .inl e
    | .inr c => let d := takeSlots c (freeSlots cl d); .inr (endFill c (updClause c.id (fun _ => c) d))
/-- The check of R48 for every clause at the end of a load. -/
def checkLoaded (ord : Nat) : List Clause → Dev → Sum ImgErr Dev
  | [], d => .inr d
  | cl :: cls, d => match stillMet d cl with
    | none => checkLoaded ord cls d
    | some _ => match movePlaced ord cl d with
      | .inl e => .inl e
      | .inr d => checkLoaded ord cls d
/-- The slots of the loaded clauses, and nothing else, stand in the cells: shims have come in. -/
def restamp (d : Dev) : Dev :=
  d.plan.clauses.foldl (fun d cl => takeSlots cl d) { d with cells := NMap.mapVals {} (fun _ x => { x with slots := [] }) d.cells }
/-- A unit that the start-up self-test found failed: its record, and its retirement. -/
def startupFail (f : Nat) (x : SliceFail) (o : Otp) (d : Dev) : Otp × Dev :=
  let bench := x.part = 2 ∨ x.part = 3
  let u := if bench then x.cell / 36 / 4 * 9 + x.cell % 36 / 4 else x.cell
  retireFail f x o (selftestFail f (if bench then 1 else 0) u x d)
/-- STARTUP_SELFTEST_DONE (R417 steps 4 and 5, R492), at a phase 0 where it changes the tables (R84). -/
def execStartupSelftestDone (fails : List (Nat × SliceFail)) (s : State) : Out :=
  onBoth (fun o d0 => let d := d0; match d.config.loading with
    | none => (o, d)
    | some l =>
      if !booted d || d.ctl.state != .loading || !d.config.selftest then (o, d)
      else
        let d := { d with cells := NMap.mapVals {} (fun _ x => zeroCell x) d.cells }
        let r := (fails.filter fun x => decide (x.1 < 4) && failOk x.2).foldl (fun r x => startupFail x.1 x.2 r.1 r.2) (o, d)
        if !shimsMayCome r.1 r.2 then (o, d0) else
        let d := restamp (bringShims r.1 r.2)
        match checkLoaded r.1.ordering d.plan.clauses d with
        | .inl e => (r.1, failLoad e r.1 d)
        | .inr d =>
          let d := d.plan.clauses.foldl (fun d cl => endFill cl d) d
          let d := updConfig (fun c => { c with selftest := false, loading := none, undo := [], serial := fld l.header 0x30 8, segment := l.kept.getD 0xFFFF }) d
          (r.1, setState .loaded (opEnd l.op 3 0 d))) s

/-! ### Arming and the start beat (R418-R420) -/

/-- ARM (R420). -/
def armCmd (r : Req) (o : Otp) (d : Dev) : Res :=
  if d.ctl.state ≠ .loaded then refuse 3 o d
  else if beNat r.data ≤ d.beat.count then refuse 4 o d
  else done [] o (setState .armed (updConfig (fun c => { c with armBeat := beNat r.data }) d))
/-- ARM. -/
def execArm (r : Req) (s : State) : Out := serveCommand 0x1111 r armCmd s
/-- DISARM (R445). -/
def disarmCmd (_ : Req) (o : Otp) (d : Dev) : Res :=
  if d.ctl.state ≠ .armed then refuse 3 o d else done [] o (setState .loaded d)
/-- DISARM. -/
def execDisarm (r : Req) (s : State) : Out := serveCommand 0x1104 r disarmCmd s
/-- CASC_DONE_SAMPLE (R419): the line is high where no member drives it low. -/
def execCascDoneSample (otherLow : Bool) (s : State) : Out :=
  onDev (fun d => if d.power.boot == .down then d
    else updConfig (fun c => { c with level := !(c.driveLow || otherLow), sampleBeat := d.beat.count }) d) s

/-- A stored preset acts at the start beat `b` (R350, R411, R420). -/
def startPreset (b : Nat) (x : StartPreset) (d : Dev) : Dev :=
  match (match x.field with
    | some (l, w) => patchValue x.index x.value l w fun v => some (v + b)
    | none => some x.value) with
  | none => recPlain 0x0807 0 0 x.ioff x.idx d
  | some v =>
    if x.index = 0x4010 then
      (let e := schedOf v
       if schedOk d e then { d with plan := { d.plan with sched := NMap.set {} d.plan.sched x.sub e } } else recPlain 0x0808 0 0 x.ioff 0xFFFFFFFF d)
    else
      let r := presetWrite x.index x.sub x.clause v d
      if r.1 = 0 then r.2 else recPlain 0x0808 0 0 x.ioff 0xFFFFFFFF d
/-- START_BEAT (R420): phase 0 of the first beat, from ARM_BEAT on, after one whose sample read high. -/
def execStartBeat (s : State) : Out :=
  onDev (fun d =>
    let c := d.config
    let b := d.beat.count
    if booted d && d.ctl.state == .armed && decide (c.armBeat ≤ b) && c.level && c.sampleBeat + 1 == b then
      let ps := d.plan.startPresets
      let d := updConfig (fun c => { c with startBeat := b }) d
      setState .running (ps.foldl (fun d x => startPreset b x d) d)
    else d) s

end Sys2Proof.Machine
end

