-- ==== Sys2Proof/Machine/Reload.lean ====
section
/-! DEFINITION. Partial reload (R423-R427): the command, the clamp, the writing, the reopening, the restart and the clamp
timeout. -/
namespace Sys2Proof.Machine

/-- Changes the reload at work. -/
def updReload (f : Reload → Reload) (d : Dev) : Dev :=
  updConfig (fun c => { c with reloads := match c.reloads with
    | r :: rs => f r :: rs
    | [] => [] }) d
/-- The reload at work ends; its operation ends in state `st`. -/
def endReload (st result : Nat) (d : Dev) : Dev :=
  match headReload d with
  | some r => opEnd? r.op st result (dropReloadStream r (updConfig (fun c => { c with reloads := c.reloads.drop 1 }) d))
  | none => d
/-- RELOAD (R423). -/
def reloadCmd (r : Req) (o : Otp) (d : Dev) : Res :=
  let id := fldBE r.data 0 2
  let mode := fldBE r.data 2 1
  let f (i : Nat) : Nat := fldBE r.data (4 + i) 1
  let at_ := fldBE r.data 8 8
  if d.ctl.state ≠ .running ∧ d.ctl.state ≠ .held then refuse 3 o d
  else match clauseOf d id with
  | none => refuse 4 o d
  | some cl =>
    let inside := decide (1 ≤ f 2) && decide (1 ≤ f 3) && decide (f 0 + f 2 ≤ cl.benchRows) && decide (f 1 + f 3 ≤ cl.benchCols)
    if 2 < mode ∨ (mode ≠ 2 ∧ inside = false) ∨ (at_ ≠ 0 ∧ at_ ≤ d.beat.count) then refuse 4 o d
    else match opSlot d with
    | none => refuse 7 o d
    | some k =>
      let rect := if mode = 2 then (0, 0, cl.benchRows, cl.benchCols) else (f 0, f 1, f 2, f 3)
      let x : Reload := { op := some k, clause := id, mode := mode, rect := rect, at_ := if at_ = 0 then d.beat.count + 1 else at_ }
      let d := updConfig (fun c => { c with reloads := c.reloads ++ [x] }) (opStart k 0x1112 0 0 d)
      done (beBytes 2 (opHandle d k)) o d
/-- RELOAD. -/
def execReload (r : Req) (s : State) : Out := serveCommand 0x1112 r reloadCmd s

/-! ### Tables (R84, R91, R425 step 2) -/

/-- A shim may come into use for a logical bench (entry `i` of a remap table) at a reload with held set `hs`: no cell of the
bench outside the held set has an ACTIVE slot (R91). -/
def shimAt (d : Dev) (hs : List LCell) (i : Nat) : Bool :=
  (List.range 16).all fun k =>
    let c : LCell := { row := i / 128 * 32 + i % 64 / 8 * 4 + k / 4, col := i / 64 % 2 * 32 + i % 8 * 4 + k % 4 }
    hs.contains c || (activeSlot (cellAt d c)).isNone
/-- The tables of a reload are in force. -/
def tablesReady (m : List Nat) (hs : List LCell) (d : Dev) : Bool :=
  let n := newTables m (shimAt d hs) d
  d.mesh.next.isNone && decide (n.1 = d.mesh.remap) && decide (n.2.1 = d.mesh.detour)
/-- Asks for the tables of a reload, where no change is already asked for. -/
def readyTables (m : List Nat) (hs : List LCell) (d : Dev) : Dev := if d.mesh.next.isSome then d else askTables m (shimAt d hs) d

/-! ### Writing (R424, R425 step 2) -/

/-- The clause as a reload's new configuration has it, and the image copy with that configuration (R424). -/
def freshClause (r : Reload) (cl : Clause) (d : Dev) : Clause × Dev :=
  match r.fresh, r.img with
  | some f, some l =>
    ({ cl with contract := f.contract, recs := f.recs, beatRel := f.beatRel, cfg := f.cfg },
     updConfig (fun c => { c with copy := putBytes c.copy f.cfg.1 (getBytes l.bytes r.seg.2 f.cfg.2) }) d)
  | _, _ => (cl, d)
/-- A rewrite that waits is superseded by a reload that writes every cell of the clause in that frame (R427). -/
def supersedes (hs : List LCell) (cl : Clause) : ConfLoc → Bool
  | .slot f k => k == cl.slot && cl.cells.all fun c => frameOf c != f || hs.contains c
  | .table _ => false
/-- A rewrite that waits for the slot of a clause that MODE 2 re-places goes with it (R427). -/
def dropRewrites (cl : Clause) (d : Dev) : Dev :=
  updConfig (fun c => { c with rewrite := c.rewrite.filter fun l => !supersedes cl.cells cl l }) d
/-- The writing of a rectangle's slot data from the image copy or the partial image. -/
def writeRect (r : Reload) (hs : List LCell) (cl : Clause) (d : Dev) : Dev :=
  let f := freshClause r cl d
  let d := f.2
  let f := (f.1, updConfig (fun c => { c with rewrite := c.rewrite.filter fun l => !supersedes hs cl l }) d)
  fillCells f.1 (fun c => hs.contains c) (updClause cl.id (fun _ => f.1) f.2)
/-- The place of a clause that MODE 2 re-places, relocated: the failure, or the clause at its new place. Free spares have taken the
places of failed signal words before (R293). -/
def rePlace (ord : Nat) (cl : Clause) (d : Dev) : Sum ImgErr Clause :=
  match searchPlace ord d cl.contract cl.id with
  | .inl u => let w := unmetDetails d cl.contract u; .inl { code := 0x0805, d0 := w.1, d1 := w.2, clause := cl.id }
  | .inr p => relocated d { cl with orow := p.orow, ocol := p.ocol, slot := p.slot }
/-- The slots of a re-placed clause at its new place, written; a slot that it holds already keeps its state. -/
def writeMoved (c : Clause) (d : Dev) : Dev :=
  let d := c.cells.foldl (fun d x => updCell x (updSlot c.slot fun s => if s.clause = c.id && s.st != .empty then s else { st := .filling, clause := c.id }) d) d
  fillCells c (fun _ => true) (updClause c.id (fun _ => c) d)
/-- A reload of a held set that cannot be placed: CONTRACT_UNMET holds the clause (R48), a relocation failure is a notice;
the queues leave the clamp as they were. -/
def failReload (e : ImgErr) (hs : List LCell) (d : Dev) : Dev :=
  let d := recPlain e.code (if e.code = 0x0805 then 1 else 0) e.clause e.d0 e.d1 d
  let d := hs.foldl (fun d c => updCell c (fun x => { x with queues := NMap.mapVals {} (fun _ q => { q with clamped := false, clampDead := false }) x.queues }) d) d
  let d := hs.foldl (fun d c => admitWaiting c d) (endReload 5 e.code d)
  hs.foldl (fun d c => (cellAt d c).waiters.foldl (fun d w => resumeOne c w.1 d) d) d

/-! ### Presets of a partial image (R424) -/

/-- Applies a partial image's presets after the reload: what a load would store for the start beat acts at once, with the
start beat that has been (R410, R424). -/
def applyPresets (r : Reload) (o : Otp) (d : Dev) : Option ImgErr × Dev :=
  let n := d.plan.startPresets.length
  let undo := d.config.undo
  let x := putPresets 0 r.seg.1 o (r.presets.map fun p => ({ off := p.1, raw := p.2 } : ImgPreset)).zipIdx d
  let later := x.2.plan.startPresets.drop n
  let d := updConfig (fun c => { c with undo := undo }) { x.2 with plan := { x.2.plan with startPresets := x.2.plan.startPresets.take n } }
  (x.1, later.foldl (fun d p => startPreset d.config.startBeat p d) d)
/-- A reload ends, its partial image's presets applied; one that is refused is recorded (R424). -/
def finishReload (r : Reload) (o : Otp) (d : Dev) : Dev :=
  let x := applyPresets r o d
  match x.1 with
  | some e => endReload 5 e.code (recImage e x.2)
  | none => endReload 3 0 x.2

/-! ### Step 1 (R425, R427) -/

/-- What a clamp of a cell discards: its pending launches, and its mover requests that have not started. -/
def clampLoss (c : LCell) (d : Dev) : Nat :=
  let x := cellAt d c
  x.pend.length + x.pendS.length + x.conj.mreqs.length + ((d.movers.queue.flatMap fun e => e.2).filter fun q => decide (q.cell = c)).length
/-- A held cell is clamped: its queues answer FULL, its pending launches and unstarted mover requests go and are counted, in its
counter of discarded messages (DESIGN CHOICE, log 75: the spec names no counter of launches and requests). -/
def clampCell (c : LCell) (d : Dev) : Dev :=
  let n := clampLoss c d
  let d := updCell c (fun x => { x with
    queues := (List.range 64).foldl (fun m q => NMap.upd {} m q fun k => { k with clamped := true }) x.queues
    pend := [], pendS := [], conj := { x.conj with mreqs := [] }
    win := { x.win with queueDiscarded := satAdd 32 x.win.queueDiscarded n } }) d
  { d with movers := { d.movers with queue := NMap.mapVals [] (fun _ l => l.filter fun q => decide (q.cell ≠ c)) d.movers.queue } }
/-- Each frame's queue takes waiting requests of its cells while it has room (R320). -/
def refillAll (d : Dev) : Dev := (List.range 4).foldl (fun d f => (List.range 64).foldl (fun d _ => queueRefill f d) d) d
/-- A reload of a clause that is not ACTIVE rewrites its slot at once, and applies the presets of a partial image (R424, R427). -/
def reloadAtRest (r : Reload) (cl : Clause) (o : Otp) (d : Dev) : Dev :=
  let hs := heldSet d r
  if r.mode ≠ 2 then finishReload r o (writeRect r hs cl d)
  else
    let d := spareWords d
    match rePlace o.ordering cl d with
    | .inl e => failReload e [] d
    | .inr c => endReload 3 0 (updClause c.id (fun _ => { c with activated := false }) (writeMoved c (freeSlots cl (dropRewrites cl d))))
/-- The device's state lets a reload begin: RUNNING or HELD, or for the device's own reloads any state with clauses. -/
def reloadMay (d : Dev) (r : Reload) : Bool :=
  booted d && (d.ctl.state == .running || d.ctl.state == .held || (r.op.isNone && (d.ctl.state == .loaded || d.ctl.state == .armed)))
/-- A switch that has begun names the clause (R456). -/
def midSwitch (d : Dev) (id : Nat) : Bool := d.plan.switches.any fun w => w.stage != .late && (w.outs.contains id || w.ins.contains id)
/-- RELOAD_CLAMP (R425 step 1). -/
def execReloadClamp (s : State) : Out :=
  onDevO (fun o d => match headReload d with
    | none => d
    | some r => match clauseOf d r.clause with
      | none => d
      | some cl =>
        if reloadMay d r && r.stage == .queued && (r.mode != 1 || r.fresh.isSome) && decide (r.at_ ≤ d.beat.count) && !cl.filling && !midSwitch d cl.id then
          let live := clauseActive d cl
          let d := match r.op with
            | some k =>
              let n := if live then (heldSet d r).countP fun c => (cellAt d c).stopped else 0
              updOp k (fun p => { p with state := 1, started := true, progress := n }) d
            | none => d
          let d := updReload (fun r => { r with stage := .clamped, live := live, p := d.beat.count }) d
          if live then refillAll ((heldSet d r).foldl (fun d c => clampCell c d) d)
          else if tablesReady (retireMap o d) [] d then reloadAtRest r cl o d
          else readyTables (retireMap o d) [] d
        else d) s

/-! ### Step 2 (R425, R491) -/

/-- Every held cell has stopped; a Noun cell has no boundary of its own. -/
def heldStopped (d : Dev) (hs : List LCell) : Bool :=
  hs.all fun c => let x := cellAt d c; x.stopped || kindAt c.row c.col == .noun || x.fence != .none || (activeSlot x).isNone
/-- RELOAD_WRITE (R425 step 2): the tables change where they must, then the slot data are written. -/
def execReloadWrite (s : State) : Out :=
  onDevO (fun o d => match headReload d with
    | none => d
    | some r => match clauseOf d r.clause with
      | none => d
      | some cl =>
        let hs := heldSet d r
        let wrote (r : Reload) : Reload := { r with stage := .written, e := d.beat.count + 1 }
        if !(reloadMay d r && r.stage == .clamped && heldStopped d hs && !hs.any fun c => underTest d (phys d c)) then d
        else if !tablesReady (retireMap o d) (if r.live then hs else []) d then readyTables (retireMap o d) (if r.live then hs else []) d
        else if !r.live then reloadAtRest r cl o d
        else if r.mode ≠ 2 then updReload wrote (writeRect r hs cl d)
        else
          let d := spareWords d
          match rePlace o.ordering cl d with
          | .inl e => failReload e hs d
          | .inr c =>
          if c.cells.any fun x => underTest d (phys d x) then d
          else updReload (fun r => { wrote r with old := some (cl.orow, cl.ocol, cl.slot) }) (writeMoved c (dropRewrites cl d))) s

/-! ### Step 3 (R425) -/

/-- Every waiter of a cell receives RESUME. -/
def resumeAll (c : LCell) (d : Dev) : Dev := (cellAt d c).waiters.foldl (fun d w => resumeOne c w.1 d) d
/-- A queue reopens: OPEN in the next generation, or CLOSED where it has no entries now; its entries stay where `carry`. -/
def reopenQueue (s : SlotData) (carry : Bool) (q : Nat) (k : Queue) : Queue :=
  let k := { k with clamped := false, clampDead := false }
  let k := if carry && qUsed s q then k else k.restart
  if qUsed s q then { k with st := .open, gen := (k.gen + 1) % 256 } else { k with st := .closed }
/-- A held cell reopens under its new slot data; what it drops counts in QUEUE_DROPPED (R425, R475). -/
def reopenCell (carry : Bool) (c : LCell) (d : Dev) : Dev :=
  let x := cellAt d c
  let sd := activeData x
  let lost := x.queues.foldl (fun n q => if carry && qUsed sd q.1 then n else n + q.2.entries.length + q.2.ready.length) 0
  let mlost := if carry then 0 else x.conj.mbox.length
  let d := updCell c (fun x => { x with
    queues := (List.range 64).foldl (fun m q => NMap.upd {} m q (reopenQueue sd carry q)) x.queues
    noun := { x.noun with merge := [] }
    conj := { x.conj with mbox := if carry then x.conj.mbox else [] }
    win := { x.win with queueDropped := satAdd 32 x.win.queueDropped lost, mboxDiscarded := satAdd 32 x.win.mboxDiscarded mlost } }) d
  admitWaiting c (resumeAll c d)
/-- The generations of a cell's queues. -/
def queueGens (x : Cell) : List Nat := (List.range 64).map fun q => (queueOf x q).gen
/-- A cell of a re-placed clause becomes ACTIVE; its queues go on from the generations `gs` of the cell that it stands for. -/
def activateMoved (cl : Clause) (c : LCell) (i : Nat) (gs : List Nat) (d : Dev) : Dev :=
  updCell c (fun x => { x with queues := (List.range 64).foldl (fun m q =>
      NMap.upd {} m q fun k => { k with clamped := false, clampDead := false, gen := if k.st == .open then (gs.getD q 0 + 1) % 256 else k.gen }) x.queues })
    (activateCell cl cl.actGen true c i d)
/-- A re-placed clause leaves its old cells and becomes ACTIVE in the new ones. -/
def moveActive (hs : List LCell) (old : Nat × Nat × Nat) (cl : Clause) (d : Dev) : Dev :=
  let was : Clause := { cl with orow := old.1, ocol := old.2.1, slot := old.2.2 }
  let gens := hs.map fun c => queueGens (cellAt d c)
  let d := hs.foldl (fun d c => closeCell was c (resumeAll c d)) d
  let d := match busyCell d cl with
    | some c => endReload 5 0x0903 (recCell 0x0903 1 c cl.id none 0 0 d)
    | none => (cl.indexed.zip gens).foldl (fun d x => activateMoved cl x.1.1 x.1.2 x.2 d) (updClause cl.id (fun c => { c with gone := [] }) <| updReload (fun r => { r with stage := .reopened, e := d.beat.count }) d)
  hs.foldl (fun d c => admitWaiting c d) d
/-- RELOAD_REOPEN (R425 step 3): beat edge E. -/
def execReloadReopen (s : State) : Out :=
  onDev (fun d => match headReload d with
    | none => d
    | some r => match clauseOf d r.clause with
      | none => d
      | some cl =>
        let hs := heldSet d r
        if inRun d && r.stage == .written && decide (r.e ≤ d.beat.count) then
          match r.old with
          | some old => moveActive hs old cl d
          | none =>
            let d := updReload (fun r => { r with stage := .reopened, e := d.beat.count }) d
            hs.foldl (fun d c => reopenCell (ctFlag cl.contract 3) c d) d
        else d) s

/-! ### Step 4 (R425, R424) -/

/-- Launches that waited at their senders take the pending places of an engine (R176). -/
def admitLaunches (c : LCell) (e : Engine) (d : Dev) : Dev :=
  (List.range 4).foldl (fun d _ =>
    let x := cellAt d c
    match x.waitL.find? fun l => sameEngine l.eng e with
    | some l =>
      if (pendOf x e).length < 4 then
        freeLaunch c l (updCell c (fun x => setPend e (pendOf x e ++ [l]) { x with waitL := eraseFirst (fun k => sameEngine k.eng e) x.waitL }) d)
      else d
    | none => d) d
/-- A cell of the held set starts: its engines with no descriptor, its core at offset 0 with the new data preset. -/
def restartCell (cl : Clause) (preset : Bool) (c : LCell) (i : Nat) (d : Dev) : Dev :=
  let conj := kindAt c.row c.col == .conj
  let p := if conj && preset then dataPreset cl i d else ((cellAt d c).conj.dmem, d)
  let d := updCell c (fun x =>
    let k := { x.conj with dmem := p.1, pc := 0, st := if conj then .running else x.conj.st, stall := none, sigs := x.conj.sigs.map fun o => { o with reg := none } }
    { x with pend := [], pendS := [], mats := [], vecs := [], stage := none, smm := none, stopped := cl.held, conj := k }) p.2
  admitLaunches c .smm (admitLaunches c .vec d)
/-- The old slots of a re-placed clause become EMPTY where the clause does not use them at its new place. -/
def emptyOld (hs : List LCell) (old : Nat × Nat × Nat) (cl : Clause) (d : Dev) : Dev :=
  hs.foldl (fun d c => if cl.has c && old.2.2 == cl.slot then d else updCell c (updSlot old.2.2 fun _ => {}) d) d
/-- RELOAD_RESTART (R425 step 4, R427): beat E + 1, while RUNNING. -/
def execReloadRestart (s : State) : Out :=
  onDevO (fun o d => match headReload d with
    | none => d
    | some r => match clauseOf d r.clause with
      | none => d
      | some cl =>
        if booted d && d.ctl.state == .running && r.stage == .reopened && decide (r.e + 1 ≤ d.beat.count) then
          let hs := heldSet d r
          let d := match r.old with
            | some old => emptyOld hs old cl d
            | none => d
          let now := if r.mode = 2 then cl.cells else hs
          let d := cl.indexed.foldl (fun d ci => if now.contains ci.1 then restartCell cl (r.mode != 2) ci.1 ci.2 d else d) d
          finishReload r o d
        else d) s

/-- CLAMP_TIMEOUT (R426). -/
def execClampTimeout (s : State) : Out :=
  onDev (fun d => match headReload d with
    | none => d
    | some r =>
      if booted d && r.live && (r.stage == .clamped || r.stage == .written) && !r.timedOut && decide (r.p + d.config.clampTimeout ≤ d.beat.count) then
        let d := recPlain 0x0809 0 r.clause 0 0 (updReload (fun r => { r with timedOut := true }) d)
        (heldSet d r).foldl (fun d c => updCell c (fun x => { x with queues := NMap.mapVals {} (fun _ q => if q.clamped then { q with clampDead := true } else q) x.queues }) d) d
      else d) s

/-! ### The partial image of MODE 1 (R424) -/

/-- Contract records that agree in every field but CARRY, CONFIG_BYTES and RELOC_COUNT; reserved bits and bytes are ignored (R7, R38). -/
def contractsAgree (a b : List Byte) : Bool :=
  let bare (k : List Byte) : List Byte := setFld (setFld (setFld (setFld k 3 1 (fld k 3 1 % 8)) 0x0C 2 0) 0x30 8 0) 0x38 8 0
  decide (bare (a.take 64) = bare (b.take 64))
/-- A complete partial image, its segment checked as a load's but for placement, and its sentences' steps, which it does not take
(R408, R424; notes/assumptions/45): its failure, or the reload with what it takes from the image. -/
def acceptPartial (o : Otp) (l : Loading) (r : Reload) (d : Dev) : Sum ImgErr Reload :=
  match imageErr o false d l with
  | some e => .inl e
  | none => match l.keptRange, clauseOf d r.clause with
    | some (si, base, n), some cl =>
      let bad (a : Nat) : ImgErr := { code := 0x0807, d0 := base + a, d1 := si }
      match segmentParts (getBytes l.bytes base n) with
      | none => .inl (bad 0)
      | some p => match (p.clauses.findSome? fun c => (cellsErr c).or (durableErr c.contract [] c.durable)).or (p.bad.map bad) with
        | some e => .inl e
        | none => match p.clauses.find? fun c => ctId c.contract == cl.id with
        | none => .inl { bad 0 with clause := cl.id }
        | some c =>
          if !contractsAgree c.contract cl.contract || decide (cl.cfg.2 < c.len) then .inl { bad c.off with clause := cl.id }
          else
            let at_ := { cl with contract := c.contract, recs := c.recs, beatRel := [], cfg := (cl.cfg.1, c.len) }
            match applyRelocs (base + c.relOff) 0 c.relocs at_ with
            | .inl e => .inl e
            | .inr f => match (p.badSentence.or p.badPreset).map bad with
              | some e => .inl e
              | none => .inr { r with img := some l, fresh := some f, seg := (si, base + c.off), presets := p.presets.map fun x => (base + x.off, x.raw) }
    | _, _ => .inl { code := 0x0802, d0 := 0x100 }

end Sys2Proof.Machine
end

