-- ==== Sys2Proof/Machine/Bulk.lean ====
section
/-! DEFINITION. Beluf bulk streams (R440-R442, R365, R408, R416, R424): opening, host data, closing, and the frames of read
streams. -/
namespace Sys2Proof.Machine

/-- An open stream. -/
def streamOf (d : Dev) (id : Nat) : Option Stream := d.beluf.streams.find? fun t => t.id == id
/-- The lowest stream ID from 1 that is free. -/
def freeStream (d : Dev) : Nat :=
  (((List.range (d.beluf.streams.length + 1)).map (· + 1)).find? fun i => (streamOf d i).isNone).getD 0

/-! ### Opening (R440) -/

/-- Two ranges meet. -/
def meets (a n b m : Nat) : Bool := decide (a < b + m) && decide (b < a + n)
/-- A range lies in a clause's HBM allocation or in its LPDDR5X allocation. -/
def ownsRange (c : Clause) (a n : Nat) : Bool :=
  c.owns a && c.owns (a + n - 1) && decide (a < Config.lpBase) == decide (a + n - 1 < Config.lpBase)
/-- The STATUS that refuses a memory stream (R440). -/
def memStreamErr (kind id a n rate : Nat) (d : Dev) : Option Nat :=
  if !(d.ctl.state == .loaded || d.ctl.state == .armed || d.ctl.state == .running || d.ctl.state == .held) then some 3
  else match clauseOf d id with
  | none => some 4
  | some c =>
    let in0 := c.durable.any fun u => meets a n u.copy0 u.len
    let in1 := c.durable.any fun u => meets a n u.copy1 u.len
    if !ownsRange c a n || in1 || (kind != 2 && (rate == 0 || decide (400000 < rate))) || (kind == 3 && in0) ||
        (kind == 4 && !c.durable.any fun u => decide (u.copy0 ≤ a) && decide (a + n ≤ u.copy0 + u.len)) then some 4
    else if kind = 2 && in0 && d.epoch.enable then some 3
    else none
/-- Opens a stream and answers with its ID and handle. -/
def openStream (t : Stream) (o : Otp) (d : Dev) : Res :=
  done (beBytes 2 t.id ++ beBytes 2 (opHandle d t.op)) o (startStreams { d with beluf := { d.beluf with streams := d.beluf.streams ++ [t] } })
/-- BULK_OPEN. -/
def bulkOpen (r : Req) (o : Otp) (d : Dev) : Res :=
  let b := r.data
  let kind := fldBE b 0 1
  let mc := bit (fldBE b 1 1) 0
  let id := if mc then fldBE b 2 2 else freeStream d
  let n := fldBE b 0x10 8
  let t : Stream := { id := id, session := r.session, op := 0, kind := kind, mcast := mc, clause := fldBE b 4 2, addr := fldBE b 8 8, len := n, rate := fldBE b 0x18 4 }
  if b.length ≠ 32 then refuse 8 o d
  else if 4 < kind ∨ (mc ∧ kind ≠ 0) ∨ n = 0 ∨ 2 ^ 40 < n ∨ (streamOf d id).isSome then refuse 4 o d
  else if kind = 0 then
    match loadingNow d with
    | some l =>
      if l.ended.isNone && (l.source == 0 || l.source == 2) && !(d.beluf.streams.any fun t => t.kind == 0) then openStream { t with op := l.op } o d
      else refuse 3 o d
    | none => refuse 3 o d
  else if kind = 1 then
    match d.config.reloads.find? fun r => r.mode == 1 && r.fresh.isNone && r.img.isNone && (r.op.any fun k => decide ((opOf d k).state ≤ 1)) with
    | some x =>
      let k := x.op.getD 0
      let l : Loading := { source := 0, op := k, last := d.beat.count }
      openStream { t with op := k } o (updConfig (fun c => { c with reloads := mapFirst (fun y => y.op == some k) (fun y => { y with img := some l }) c.reloads }) d)
    | none => refuse 3 o d
  else match memStreamErr kind t.clause t.addr n t.rate d with
  | some e => refuse e o d
  | none => match opSlot d with
    | none => refuse 7 o d
    | some k => openStream { t with op := k } o (opStart k 0 0 0 d)
/-- BULK_OPEN (R440). -/
def execBulkOpen (r : Req) (s : State) : Out := onBoth (serve 4 r (bulkOpen r)) s

/-! ### Host data (R441, R452) -/

/-- Marks bytes of a stream as held. -/
def markGot (id off n : Nat) (d : Dev) : Dev := updStream id (fun t => { t with got := putBytes t.got off (List.replicate n 0) }) d
/-- The line writes of bytes from address `a` on: line address, bytes in place, enables. -/
def spanLines : Nat → Nat → List Byte → List (Nat × List Byte × W64)
  | 0, _, _ => []
  | k + 1, a, bs =>
    if bs.isEmpty then []
    else
      let lo := a % 64
      let n := min (64 - lo) bs.length
      (a - lo, padTo 64 (List.replicate lo 0 ++ bs.take n), spanEn lo n) :: spanLines k (a + n) (bs.drop n)
/-- Data of a memory-write stream, while it is RUNNING: a mover takes their lines to the controllers (R320, R442, R452). -/
def memData (p : Nat) (t : Stream) (off : Nat) (bs : List Byte) (d : Dev) : Dev :=
  if (opOf d t.op).state ≠ 1 then belufDrop d
  else
    let h := opHandle d t.op
    let ls := spanLines (bs.length + 1) (t.addr + off) bs
    hostCarry p h ((pieces hostChunk 256 ls).map fun l => .hostWrite h l) d
/-- Data of a host stream. -/
def streamData (p : Nat) (t : Stream) (data : List Byte) (o : Otp) (d : Dev) : Otp × Dev :=
  let off := bits (fldBE data 0 8) 39 0
  let bs := (data.drop 8).take (t.len - off)
  if t.kind = 0 then
    match loadingNow d with
    | none => (o, d)
    | some l =>
      let x := takeImage false o off bs l (markGot t.id off bs.length d)
      let y := if l.source = 0 && d.power.straps.master && !bs.isEmpty then forwardBulk off bs x.1 x.2 else x
      (o, setLoading y.1 y.2)
  else if t.kind = 1 then
    match (reloadOf d t.op).bind fun r => r.img with
    | none => (o, d)
    | some l =>
      let x := takeImage true o off bs l (markGot t.id off bs.length d)
      (o, updConfig (fun c => { c with reloads := mapFirst (fun y => y.op == some t.op) (fun y => { y with img := some x.1 }) c.reloads }) x.2)
  else (o, memData p t off bs d)
/-- BULK_DATA (R441). The lines of a memory write meet errors at their controllers (MOVER_WRITE_LINE), not here. -/
def execBulkData (p : Nat) (ip : List Byte) (udp : Nat) (stream : Nat) (_seq : Nat) (data : List Byte) (s : State) (_es : List Ecc := []) : Out :=
  onBoth (fun o d =>
    if !hostLive d p then (o, d)
    else match streamOf d stream with
    | none => (o, belufDrop d)
    | some t => match sessionOf d t.session with
      | none => (o, belufDrop d)
      | some q => if q.ip ≠ ip ∨ q.udp ≠ udp ∨ 3 ≤ t.kind ∨ data.length < 8 then (o, belufDrop d) else streamData p t data o d) s

/-! ### Closing (R408, R416, R424, R442) -/

/-- The end of an image stream: the image ends at the stream's length; the master sends the end frame,
after a failure too, once the header has come (R408, R414, R415). -/
def endImage (t : Stream) (d : Dev) : Dev :=
  match loadingNow d with
  | none => d
  | some l =>
    let l := { l with ended := some (if !t.mcast && l.hdr && decide (t.len < hdTotal l.header) then some t.len else none) }
    if l.source = 0 && d.power.straps.master then
      let x := forwardRest l d
      setLoading x.1 (if forwards d && (l.hdr || l.fail.isSome) then sendImage true (hdTotal l.header) (hdBody l.header) x.2 else x.2)
    else setLoading l d
/-- The end of a partial image: it is accepted, or the reload fails with a notice. -/
def endPartial (t : Stream) (o : Otp) (d : Dev) : Dev :=
  match reloadOf d t.op with
  | none => d
  | some r => match r.img with
    | none => d
    | some l =>
      let l := { l with ended := some (if l.hdr && decide (t.len < hdTotal l.header) then some t.len else none) }
      match acceptPartial o l r d with
      | .inl e => dropReload t.op 5 e.code (recImage e d)
      | .inr r => updConfig (fun c => { c with reloads := mapFirst (fun y => y.op == some t.op) (fun _ => r) c.reloads }) d
/-- A stream is gone from the list. -/
def forgetStream (id : Nat) (d : Dev) : Dev := { d with beluf := { d.beluf with streams := d.beluf.streams.filter fun t => t.id != id } }
/-- BULK_CLOSE. -/
def bulkClose (r : Req) (o : Otp) (d : Dev) : Res :=
  if r.data.length ≠ 2 then refuse 8 o d
  else match streamOf d (beNat r.data) with
  | none => refuse 4 o d
  | some t =>
    if t.session ≠ r.session ∨ 3 ≤ t.kind then refuse 4 o d
    else match firstMissing t.got 0 t.len with
    | some a =>
      { st := 9, data := beBytes 8 a, otp := o, dev := if t.mcast then endImage t (forgetStream t.id d) else d }
    | none =>
      if t.kind = 0 then done [] o (endImage t (forgetStream t.id d))
      else if t.kind = 1 then done [] o (endPartial t o (forgetStream t.id d))
      else done [] o (endStream t.id 3 0 d)
/-- BULK_CLOSE (R442). -/
def execBulkClose (r : Req) (s : State) : Out := onBoth (serve 6 r (bulkClose r)) s

/-! ### Read streams (R365, R441, R442) -/

/-- The bytes of a read stream's next frame, from its lines. -/
def frameBody (t : Stream) : List Byte :=
  let a := t.addr + t.next
  slice ((spanOfLines a (frameLen t)).flatMap fun l => (NMap.get none t.lines (l / 64)).getD (List.replicate 64 0)) (a % 64) (frameLen t)
/-- The next frame of a read stream leaves and the lines of the one after it are read, or the stream's BULK_CLOSE leaves after the
last one; a refused read ends it FAILED (R365, R441, R442). -/
def readFrame (t : Stream) (q : Session) (d : Dev) : Dev :=
  let n := frameLen t
  if t.lost then endStream t.id 5 0x0603 d
  else
    let body := beBytes 8 t.next ++ (if t.kind = 4 then beBytes 8 t.epoch else []) ++ frameBody t
    let u : Stream := { t with next := t.next + n, seq := t.seq + 1 }
    let d := { d with tx := .host q.port q.ip q.udp (belufFrame 5 (t.seq % 0x10000) t.id 0 0 0 0 body) (hostEther d q.port q.mac) d.ports.bulkUdp :: d.tx }
    let d := updStream t.id (fun _ => u) (updOp t.op (fun p => { p with progress := min 0xFFFFFFFF u.next }) d)
    if u.next < t.len then askFrame u d
    else endStream t.id 3 0 { d with
      tx := .host q.port q.ip q.udp (belufFrame 6 (u.seq % 0x10000) q.id 0 0 0 0 (beBytes 2 t.id ++ beBytes 8 t.len)) (hostEther d q.port q.mac) d.ports.bulkUdp :: d.tx }
/-- BULK_READ_SEND (R441): the running read stream's next frame, once its lines have come. They meet errors at their controllers
(MOVER_READ_LINE), not here. -/
def execBulkReadSend (stream : Nat) (s : State) (_es : List Ecc := []) : Out :=
  onDev (fun d => match streamOf d stream with
    | none => d
    | some t => match sessionOf d t.session with
      | none => d
      | some q =>
        if 3 ≤ t.kind ∧ (opOf d t.op).state = 1 ∧ hostLive d q.port ∧ hostBusy d (opHandle d t.op) = false then readFrame t q d else d) s

end Sys2Proof.Machine
end

