-- ==== Sys2Proof/Machine/Commands.lean ====
section
/-! DEFINITION. Holds and releases (R107, R138, R166, R188, R447, R453-R456, R480), UNLOAD (R448), the control of long
operations (R451, R452), and the commands on sentences, signals, monitors, epochs and cells (R88, R362, R363, R468, R471,
R472, R476). -/
namespace Sys2Proof.Machine

/-! ### HOLD (R453) -/

/-- A cell that a hold stops at a boundary: a Verb, Adverb or Conjunction cell with an ACTIVE slot whose clock runs. -/
def holdsAt (x : Cell) (p : Nat) : Bool := physKind p != .noun && clockRuns x
/-- Every cell concerned by a hold of clause `id`, 0xFFFF the device, has stopped. -/
def holdReached (d : Dev) (id : Nat) : Bool :=
  d.cells.all fun e => !(holdsAt e.2 e.1 && (id == 0xFFFF || activeId e.2 == id)) || e.2.stopped
/-- The cells concerned that have stopped. -/
def holdCount (d : Dev) (id : Nat) : Nat :=
  d.cells.countP fun e => holdsAt e.2 e.1 && (id == 0xFFFF || activeId e.2 == id) && e.2.stopped
/-- HOLD (R453, R456). -/
def holdCmd (r : Req) (o : Otp) (d : Dev) : Res :=
  let id := beNat r.data
  if d.ctl.state ≠ .running ∧ d.ctl.state ≠ .held then refuse 3 o d
  else if id ≠ 0xFFFF && !((clauseOf d id).map (clauseActive d)).getD false then refuse 4 o d
  else match opSlot d with
  | none => refuse 7 o d
  | some k =>
    let d := opStart k 0x1101 0 (if d.ctl.holds.any fun g => g.op.isSome then 0 else 1) d
    let h := beBytes 2 (opHandle d k)
    if d.ctl.state = .held then
      let d := if id = 0xFFFF then d else updClause id (fun c => { c with held := true }) d
      done h o (opEnd k 3 0 (updOp k (fun p => { p with progress := holdCount d id }) d))
    else
      let d := updOp k (fun p => { p with progress := holdCount d id }) d
      done h o { d with ctl := { d.ctl with holds := d.ctl.holds ++ [{ clause := id, op := some k, cause := 1 }] } }
/-- HOLD. -/
def execHold (r : Req) (s : State) : Out := serveCommand 0x1101 r holdCmd s

/-- A Conjunction core as its cell takes a hold (R188): a wait whose condition has been met completes, any other is abandoned
and issues again; the monitor of a signal wait is cancelled. -/
def holdCore (c : LCell) (d : Dev) : Dev :=
  match (cellAt d c).conj.st with
  | .waiting w dl r =>
    if waitHolds d c w then waitTake c w r .good (waitStay c w dl r) d
    else match w with
    | .signal f n v k cancelled _ woken =>
      let d := updConj c (fun x => { x with st := .waiting (.signal f n v k true true woken) dl r }) d
      if cancelled then d else sendCancel c f n d
    | _ => updConj c (fun x => { x with st := .running }) d
  | _ => d
/-- A cell given a hold runs up to its boundary (R107, R166, R188). -/
def toBoundary (c : LCell) (d : Dev) : Dev :=
  match kindAt c.row c.col with
  | .conj => holdCore c d
  | .adverb => runToBoundary c d
  | _ => d
/-- A cell stands where it may stop: a Verb cell at the end of a segment, its drain done (R107); the others between lane groups,
segments and instructions (R166, R188). -/
def atBoundary (c : LCell) (d : Dev) : Bool := kindAt c.row c.col != .verb || matBoundary (cellAt d c)
/-- CELL_HOLD_STOP (R107, R166, R188, R425): the cell reaches its boundary. -/
def execCellHoldStop (c : LCell) (s : State) : Out :=
  onDev (fun d =>
    if booted d && cellOk c && holdsAt (cellAt d c) (phys d c) && !(cellAt d c).stopped && holdDue d (phys d c) && atBoundary c d then
      stopCell c (toBoundary c d)
    else d) s
/-- HOLD_COMPLETE (R453, R456): the holds are DONE together, once every cell concerned by any of them has stopped
(notes/assumptions/47). -/
def execHoldComplete (s : State) : Out :=
  onDev (fun d =>
    if !inRun d || !d.ctl.holds.all fun h => holdReached d h.clause then d
    else d.ctl.holds.foldl (fun d h =>
      let d := { d with ctl := { d.ctl with holds := eraseFirst (fun g => decide (g = h)) d.ctl.holds } }
      let d := if h.clause = 0xFFFF then enterHeld h.cause d else updClause h.clause (fun c => { c with held := true }) d
      opEnd? h.op 3 0 d) d) s
/-- Nothing of the schedule is still to act at the beat at hand (R138). -/
def scheduleRun (d : Dev) : Bool :=
  !commitDue d && (d.plan.sched.all fun e => e.1 == 0 || !entryDue d e.2) && d.plan.sentences.all fun q => (stepDue d q).isNone
/-- NAN_WATCH_HOLD (R138): phase 0 of the beat after the one of the record, after the entries of that beat. -/
def execNanWatchHold (s : State) : Out :=
  onDev (fun d =>
    if booted d && d.ctl.state == .running && (d.ctl.nanHold.any fun n => decide (n.2 + 1 ≤ d.beat.count)) && scheduleRun d then
      enterHeld 3 d
    else d) s

/-! ### RELEASE (R447, R456, R476, R480) -/

/-- RELEASE. -/
def releaseCmd (r : Req) (o : Otp) (d : Dev) : Res :=
  let id := fldBE r.data 0 2
  let beat := fldBE r.data 2 8
  let held := if id = 0xFFFF then d.ctl.state == .held else ((clauseOf d id).map fun c => c.held).getD false
  if beat ≤ d.beat.count then refuse 4 o d
  else if !held || (d.ctl.holds.any fun h => h.clause == 0xFFFF || h.clause == id) || (d.cells.any fun e => e.2.fence == .byCommand) then refuse 3 o d
  else done [] o { d with ctl := { d.ctl with releases := d.ctl.releases ++ [(id, beat)] } }
/-- RELEASE. -/
def execRelease (r : Req) (s : State) : Out := serveCommand 0x1102 r releaseCmd s

/-- The cells of clause `id`, 0xFFFF any, that nothing else holds resume where they stopped. -/
def resumeCells (id : Nat) (d : Dev) : Dev :=
  let ps := (d.cells.filter fun e => e.2.stopped && (id == 0xFFFF || activeId e.2 == id) && !holdDue d e.1).map fun e => e.1
  let d := ps.foldl (fun d p => updP p (fun x => { x with stopped := false }) d) d
  ps.foldl (fun d p => match logicalOf d p with
    | some c => stageAsk c (vecAdvance c (matAdvance c d))
    | none => d) d
/-- The releases of one beat: clauses first, then the device (R447); the first release after an abandon restarts the epoch and
ends clause holds with it (R364, R480). -/
def releaseAt (id beat : Nat) (d : Dev) : Dev :=
  let d := { d with ctl := { d.ctl with releases := eraseFirst (fun e => decide (e = (id, beat))) d.ctl.releases } }
  let movers (d : Dev) : Dev := (d.movers.run.map fun e => e.1).foldl (fun d k => moverAdvance (moverOfKey k) d) d
  if id ≠ 0xFFFF then movers (resumeCells id (updClause id (fun c => { c with held := false }) d))
  else if d.ctl.state ≠ .held then d
  else
    let d := if d.epoch.state = 3 then { d with plan := { d.plan with clauses := d.plan.clauses.map fun c => { c with held := false } } } else d
    movers (resumeCells 0xFFFF (setState .running (restartEpoch beat d)))
/-- RELEASE_BEAT (R447): phase 0 of the beat of the oldest release whose beat has come. -/
def execReleaseBeat (s : State) : Out :=
  onDev (fun d => match (if booted d then d.ctl.releases.find? fun e => decide (e.2 ≤ d.beat.count) else none) with
    | some e => releaseAt e.1 e.2 d
    | none => d) s

/-! ### UNLOAD (R448) -/

/-- A cell whose bench-row half has powered down: its counters, its failures and a fence that is not a slice's stay. What its
queues and its mailbox held is counted as its slot leaves ACTIVE (R185, R275). -/
def darkCell (x : Cell) : Cell :=
  let keep := x.fence == .byCommand || x.fence == .retired
  let w := (closeQueues x).win
  { fence := if keep then x.fence else .none
    clockOff := keep && x.clockOff
    win := { w with mboxDiscarded := satAdd 32 w.mboxDiscarded x.conj.mbox.length }
    badEntries := x.badEntries, noun := { failedBanks := x.noun.failedBanks } }
/-- Requests of the host that a store had still to answer are answered STATE: their words are free (R448, R471). -/
def dropSent (o : Otp) (d : Dev) : Dev :=
  d.sig.sent.foldl (fun d x => match x.why with
    | .host op r => (replyTo op r (refuse 3 o d)).2
    | _ => d) { d with sig := { d.sig with sent := [] } }
/-- Deliveries of fabric frames whose accesses are on the mesh end as refused (notes/assumptions/68); those of closed streams go. -/
def dropDelivs (d : Dev) : Dev :=
  (d.ports.deliv.filter fun x => x.mover.isSome).foldl (fun d x => delivEnd { x with refused := true } d)
    { d with ports := { d.ports with deliv := liveDelivs d } }
/-- Every operation that is not terminal is cancelled. -/
def cancelOps (d : Dev) : Dev := (List.range 64).foldl (fun d k => if (opOf d k).used then opEnd k 4 0 d else d) d
/-- What UNLOAD does. -/
def unload (o : Otp) (d : Dev) : Dev :=
  let d := cancelOps (clearPlan d)
  let d := [0, 1, 2, 3, 4, 5].foldl (fun d i => setMeasure i (List.replicate 32 0) d) d
  let jigs := d.health.jigs.map fun j => { j with running := none, queue := [] }
  let d := { d with
    cells := NMap.mapVals {} (fun _ x => darkCell x) d.cells
    mesh := { d.mesh with flits := [], drain := false }
    movers := { d.movers with run := [], queue := [], wires := [] }
    tiers := { d.tiers with waiting := [] }
    epoch := { d.epoch with enable := false, w := [], cows := [], winRec := false, heldWrites := [], commitNow := none, abandoning := false, abandonOps := [] }
    beluf := { d.beluf with streams := [] }
    health := { d.health with jigs := jigs }
    ctl := { d.ctl with holds := [], releases := [], nanHold := [] } }
  driveDomains o.ordering (setState .inert (armEpoch (dropDelivs (dropSent o d))))
/-- UNLOAD. -/
def unloadCmd (_ : Req) (o : Otp) (d : Dev) : Res :=
  if d.ctl.state == .loaded || d.ctl.state == .armed || d.ctl.state == .held then done [] o (unload o d) else refuse 3 o d
/-- UNLOAD. -/
def execUnload (r : Req) (s : State) : Out := serveCommand 0x1103 r unloadCmd s

/-! ### OP_CONTROL (R451, R452) -/

/-- A write of OP_CONTROL (R435, R449, R451). -/
def writeOpControl (r : Req) (o : Otp) (d : Dev) : Res :=
  if d.ctl.state = .faulted then refuse 3 o d
  else if r.data.length ≠ 4 then refuse 5 o d
  else let v := beNat r.data; opControl (bits v 31 16) (bits v 1 0) o d
/-- OP_CONTROL with the action of a row. -/
def opRow (act : Nat) (r : Req) (s : State) : Out :=
  let q : Req := { onObject 0x1121 0 r with data := if r.data.length = 4 then beBytes 4 (beNat r.data / 4 * 4 + act) else r.data }
  onBoth (serve 2 q (writeOpControl q)) s
/-- OP_ACKNOWLEDGE. -/
def execOpAcknowledge (r : Req) (s : State) : Out := opRow 0 r s
/-- OP_SUSPEND. -/
def execOpSuspend (r : Req) (s : State) : Out := opRow 1 r s
/-- OP_RESUME. -/
def execOpResume (r : Req) (s : State) : Out := opRow 2 r s
/-- OP_CANCEL. -/
def execOpCancel (r : Req) (s : State) : Out := opRow 3 r s

/-! ### Sentences, signals, monitors -/

/-- SENTENCE_RESTART (R468). -/
def restartCmd (r : Req) (o : Otp) (d : Dev) : Res :=
  let id := fldBE r.data 0 2
  let beat := fldBE r.data 2 8
  if !(d.ctl.state == .running || d.ctl.state == .held) then refuse 3 o d
  else if beat ≤ d.beat.count ∨ (sentenceOf d id).isNone then refuse 4 o d
  else done [] o (updSentence id (startSentence beat) d)
/-- SENTENCE_RESTART. -/
def execSentenceRestart (r : Req) (s : State) : Out := serveCommand 0x4005 r restartCmd s
/-- SIG_RAISE (R471), through the selectors `t`: an ADD at the store, whose reply is the command's. -/
def sigRaiseCmd (t : Sels) (r : Req) (o : Otp) (d : Dev) : Res :=
  if storeReachable d (selSig t).1 then
    { done [] o (hostSignal true 3 r (selSig t).1 (selSig t).2 (BitVec.ofNat 64 (beNat r.data)) d) with later := true }
  else refuse 4 o d
/-- SIG_RAISE. -/
def execSigRaise (r : Req) (s : State) : Out := serveCommand 0x4202 r (fun q o d => sigRaiseCmd (selsOf d q.session) q o d) s
/-- A command on the clause of CLAUSE_SEL. -/
def clauseCmd (f : Clause → Clause) (t : Sels) (_ : Req) (o : Otp) (d : Dev) : Res :=
  match selClause d t with
  | .inl e => refuse e o d
  | .inr c => done [] o (updClause c.id f d)
/-- NAN_REARM (R472), from the next beat. -/
def nanRearmCmd : Sels → Req → Otp → Dev → Res := clauseCmd fun c => { c with rearm := true }
/-- NAN_REARM. -/
def execNanRearm (r : Req) (s : State) : Out := serveCommand 0x5002 r (fun q o d => nanRearmCmd (selsOf d q.session) q o d) s
/-- COUNTER_RESET (R140, R472), at the next beat. -/
def counterResetCmd : Sels → Req → Otp → Dev → Res := clauseCmd fun c => { c with ctrReset := true }
/-- COUNTER_RESET. -/
def execCounterReset (r : Req) (s : State) : Out := serveCommand 0x5004 r (fun q o d => counterResetCmd (selsOf d q.session) q o d) s

/-! ### Epochs -/

/-- EPOCH_ABANDON (R363). -/
def abandonCmd (_ : Req) (o : Otp) (d : Dev) : Res :=
  if d.ctl.state ≠ .held then refuse 3 o d
  else match opSlot d with
  | none => refuse 7 o d
  | some k =>
    if d.epoch.abandoning then
      let d := opStart k 0x3108 0 0 d
      done (beBytes 2 (opHandle d k)) o (updEpoch (fun e => { e with abandonOps := e.abandonOps ++ [k] }) d)
    else
      let d := opStart k 0x3108 0 1 d
      done (beBytes 2 (opHandle d k)) o (beginAbandon o.ordering [k] d)
/-- EPOCH_ABANDON. -/
def execEpochAbandon (r : Req) (s : State) : Out := serveCommand 0x3108 r abandonCmd s
/-- The movers whose requests started in the epoch in progress, before its window (R362). -/
def epochRuns (d : Dev) : List Nat :=
  d.movers.run.filterMap fun e => (e.2.filter fun r => r.epoch == some (epochIndex d)).map fun _ => e.1
/-- EPOCH_COMMIT_NOW (R362): the epoch's requests that started before the window resume issuing. -/
def commitNowCmd (_ : Req) (o : Otp) (d : Dev) : Res :=
  if d.epoch.state ≠ 2 || d.epoch.commitNow.isSome || d.epoch.abandoning then refuse 3 o d
  else match opSlot d with
  | none => refuse 7 o d
  | some k =>
    let d := updEpoch (fun e => { e with commitNow := some k }) (opStart k 0x3109 0 1 d)
    done (beBytes 2 (opHandle d k)) o ((epochRuns d).foldl (fun d k => moverAdvance (moverOfKey k) d) d)
/-- EPOCH_COMMIT_NOW. -/
def execEpochCommitNow (r : Req) (s : State) : Out := serveCommand 0x3109 r commitNowCmd s

/-! ### Fences (R88, R476) -/

/-- CELL_FENCE on the cell of CELL_SEL: argument 1 fences, 0 unfences. -/
def fenceCmd (t : Sels) (r : Req) (o : Otp) (d : Dev) : Res :=
  let v := beNat r.data
  if d.ctl.state ≠ .held then refuse 3 o d
  else if 1 < v then refuse 4 o d
  else match selCell d t with
  | none => refuse 4 o d
  | some p =>
    if v = 1 then done [] o (fenceCell .byCommand p d)
    else done [] o (updP p (fun x => if x.fence == .byCommand then { x with fence := if underTest d p then .byJig else .none, clockOff := underTest d p && x.clockOff } else x) d)
/-- CELL_FENCE with the argument of a row. -/
def fenceRow (v : Byte) (r : Req) (s : State) : Out :=
  let q : Req := { r with data := if r.data.length = 1 ∧ beNat r.data ≤ 1 then [v] else r.data }
  serveCommand 0x8003 q (fun q o d => fenceCmd (selsOf d q.session) q o d) s
/-- CELL_FENCE. -/
def execCellFence (r : Req) (s : State) : Out := fenceRow 1 r s
/-- CELL_UNFENCE. -/
def execCellUnfence (r : Req) (s : State) : Out := fenceRow 0 r s
/-- CELL_FENCE_DONE (R88): the accepted accesses are done, and the clock of the fenced cell stops. -/
def execCellFenceDone (p : Nat) (s : State) : Out :=
  onDev (fun d =>
    if booted d && decide (p < 4608) && (cellP d p).fence != .none && ((cellP d p).noun.reqs.filter fun r => !r.waits).isEmpty then
      updP p (fun x => { x with clockOff := true }) d
    else d) s

end Sys2Proof.Machine
end

