-- ==== Sys2Proof/Machine/Health.lean ====
section
/-! DEFINITION. Self-test on demand and the end of slices (R486-R491, R496), RETIRE (R495, R496), and the readback of
configuration memory (R421, R422). -/
namespace Sys2Proof.Machine

/-! ### JIG_RUN and RETIRE (R486, R496) -/

/-- JIG_RUN: kind, frame, unit. -/
def jigRunCmd (r : Req) (o : Otp) (d : Dev) : Res :=
  let kind := fldBE r.data 0 1
  let f := fldBE r.data 1 1
  let u := fldBE r.data 2 2
  if !(d.ctl.state == .loaded || d.ctl.state == .armed || d.ctl.state == .running || d.ctl.state == .held) then refuse 3 o d
  else if 1 < kind ∨ 3 < f ∨ (unitCount kind ≤ u ∧ u ≠ 0xFFFF) then refuse 4 o d
  else match opSlot d with
  | none => refuse 7 o d
  | some k =>
    let d := opStart k 0x6100 0 0 d
    done (beBytes 2 (opHandle d k)) o (updJig f (fun j => { j with queue := j.queue ++ [(kind, u, k)] }) d)
/-- JIG_RUN. -/
def execJigRun (r : Req) (s : State) : Out := serveCommand 0x6100 r jigRunCmd s

/-- The entry that an argument of RETIRE spells, its reserved bits clear (R494). -/
def retireArg (v : Nat) : Nat := retireEntry (bits v 63 60) (bits v 55 48) (bits v 31 0) (bits v 63 60 == 1 && bit v 59)
/-- RETIRE: the retirement is whole as the operation ends; a unit already retired changes nothing (R496). -/
def retireCmd (r : Req) (o : Otp) (d : Dev) : Res :=
  let v := beNat r.data
  if !(d.ctl.state == .inert || d.ctl.state == .loaded || d.ctl.state == .held) then refuse 3 o d
  else if !retireOk o.ordering v then refuse 4 o d
  else match opSlot d with
  | none => refuse 7 o d
  | some k =>
    let d := opStart k 0x6204 0 1 d
    let known := (retireMap o d).any fun x => decide (entryUnit x = entryUnit (retireArg v))
    let x := if known then (o, d) else retireUnit (retireArg v) o d
    done (beBytes 2 (opHandle d k)) x.1 (opEnd k 3 0 x.2)
/-- RETIRE. -/
def execRetire (r : Req) (s : State) : Out := serveCommand 0x6204 r retireCmd s

/-! ### The end of a slice (R487-R491) -/

/-- A cell as its slice leaves it: registers, working store, operand file, mailbox and queue entries zero; slots and Noun
banks untouched (R488). -/
def zeroTested (x : Cell) : Cell :=
  { x with queues := NMap.mapVals {} (fun _ q => { q with entries := [], ready := [] }) x.queues
           opfile := [], conj := { x.conj with regs := [], dmem := [], mbox := [] } }
/-- A cell leaves its fence of a slice; one of CELL_FENCE stays (R88). -/
def unfenceJig (x : Cell) : Cell := if x.fence == .byJig then { x with fence := .none, clockOff := false } else x
/-- A failure that a slice of this kind and unit can find (R488-R490). -/
def inSlice (kind unit_ : Nat) (x : SliceFail) : Bool :=
  failOk x && (if kind = 0 then x.cell == unit_ && (x.part == 1 || x.part == 4 || x.part == 5)
    else (x.part == 2 || x.part == 3) && x.cell / 36 / 4 * 9 + x.cell % 36 / 4 == unit_)
/-- The coverage figures in units of 0.01 % (R488, R489; notes/assumptions/35). -/
def coverage (kind : Nat) : Nat × Nat := if kind = 0 then (9650, 8800) else (9990, 9650)
/-- The restore of a bench slice: a line of the frame's save area whose read is refused is written as zero in its Noun cell, and
recorded against every loaded clause whose region contains the bench (R489, R317). -/
def restoreLost (f unit_ : Nat) : List (Nat × Nat × Nat) → Otp → Dev → Otp × Dev
  | [], o, d => (o, d)
  | (a, p, la) :: l, o, d =>
    if (saveArea d f).2 != 0 && decide (la + 64 ≤ nounBytes) && la % 64 == 0 &&
        ((benchNouns f unit_).zipIdx.any fun x => x.1 == p && saveAddr d f x.2 la == a) then
      let b := logicalBench d f unit_
      let rec' (d : Dev) : Dev := d.plan.clauses.foldl (fun d c => if (b.map c.hasBench).getD false then recPlain 0x0603 1 c.id a (devNumber (memDevice d a)) d else d) d
      let x := readMem rec' a .upset o d
      restoreLost f unit_ l x.1
        (updP p (fun y => { y with noun := { y.noun with
          mem := y.noun.mem.wrLine la (List.replicate 64 0) (BitVec.allOnes 64), bad := y.noun.bad.filter (· != la) } }) x.2.1)
    else restoreLost f unit_ l o d
/-- A slice ends. -/
def endSlice (f cycles : Nat) (fails : List SliceFail) (lost : List (Nat × Nat × Nat)) (s : Slice) (o : Otp) (d : Dev) : Otp × Dev :=
  let bad := fails.filter (inSlice s.kind s.unit_)
  let z := if s.kind = 0 then (o, d) else restoreLost f s.unit_ lost o (restoreBench f s.unit_ d)
  let o := z.1
  let d := z.2
  let d := (unitCells f s.kind s.unit_).foldl (fun d p => updP p (fun x => unfenceJig (if s.kind = 0 then zeroTested x else x)) d) d
  let c := coverage s.kind
  let next := (s.unit_ + 1) % unitCount s.kind
  let d := updJig f (fun j => { j with
    running := none
    rotCell := if s.kind = 0 then next else j.rotCell
    rotBench := if s.kind = 0 then j.rotBench else next
    result := jigResult s.kind (if bad.isEmpty then 0 else 1) s.unit_ cycles c.1 c.2 s.beat
    passed := if bad.isEmpty then satAdd 64 j.passed 1 else j.passed
    failed := if bad.isEmpty then j.failed else satAdd 32 j.failed 1 }) d
  let d := if s.kind = 0 then d else askTables (retireMap o d) noShims d
  let r := match firstFailure bad with
    | none => (o, d)
    | some x => retireFails f bad o (selftestFail f s.kind s.unit_ x d)
  (r.1, opEnd? s.op 3 0 r.2)
/-- SLICE_END (R490). -/
def execSliceEnd (f cycles : Nat) (fails : List SliceFail) (lost : List (Nat × Nat × Nat)) (s : State) : Out :=
  onBoth (fun o d => match (if booted d then (d.health.jigs.getD f {}).running else none) with
    | some x => endSlice f cycles fails lost x o d
    | none => (o, d)) s
/-- SLICE_OVERRUN (R491): the last reserved beat has passed. -/
def execSliceOverrun (f : Nat) (s : State) : Out :=
  onDev (fun d => match (if booted d then (d.health.jigs.getD f {}).running else none) with
    | some x =>
      if x.overrun || decide (d.beat.count < x.beat + x.r) then d
      else recPlain 0x0A04 0 0 (sliceWord x.kind 0 x.unit_) (d.beat.count - x.beat)
        (updJig f (fun j => { j with running := some { x with overrun := true } }) d)
    | none => d) s

/-! ### Configuration readback (R421, R422) -/

/-- The frames have power and hold a configuration. -/
def configLive (d : Dev) : Bool := booted d && d.ctl.state != .inert
/-- The frame of a place of configuration memory. -/
def locIn (f : Nat) : ConfLoc → Bool
  | .slot g k => g == f && decide (k < 4)
  | .table g => g == f
/-- The clauses of a slot in a frame. -/
def slotClauses (d : Dev) (f k : Nat) : List Nat :=
  (d.plan.clauses.filter fun c => c.slot == k && c.cells.any fun x => frameOf x == f).map fun c => c.id
/-- A place holds only slot data that the reload at work is about to write: every cell of its clauses there is held (R427). -/
def aboutToWrite (l : ConfLoc) (d : Dev) : Bool :=
  match l, headReload d with
  | .slot f k, some r => r.stage == .clamped && r.live && decide (slotClauses d f k = [r.clause]) &&
      ((clauseOf d r.clause).any fun cl => cl.cells.all fun c => frameOf c != f || (heldSet d r).contains c)
  | _, _ => false
/-- CONFIG_UPSET: clause-fatal for the clauses of the slot, a notice for a table; the place waits to be rewritten (R422). One in the
slot of held cells that a reload is about to write is superseded (R427). -/
def configUpset (l : ConfLoc) (d : Dev) : Dev :=
  if aboutToWrite l d then d
  else
  let d := match l with
    | .slot f k => match slotClauses d f k with
      | [] => recPlain 0x0804 0 0 (f * 0x10000 + k) 0 d
      | ids => ids.foldl (fun d id => recPlain 0x0804 1 id (f * 0x10000 + k) 0 d) d
    | .table f => recPlain 0x0804 0 0 (f * 0x10000) 0 d
  updConfig (fun c => { c with rewrite := if c.rewrite.contains l then c.rewrite else c.rewrite ++ [l] }) d
/-- CONFIG_READBACK_ERROR: a single-bit error is corrected in place and counted (R421). -/
def execConfigReadbackError (l : ConfLoc) (double : Bool) (s : State) : Out :=
  onDev (fun d =>
    if !configLive d || !((List.range 4).any fun f => locIn f l) then d
    else if double then configUpset l d
    else updConfig (fun c => { c with corrected := satAdd 64 c.corrected 1 }) d) s
/-- READBACK_PASS_END: the duration of the pass; each slot whose CRC differs from that of its fill is upset, and the place `bad` of
which the pass read other bytes than stand there (R421, R422). -/
def execReadbackPassEnd (f beats : Nat) (bad : Option ConfLoc) (s : State) : Out :=
  onDev (fun d =>
    if !configLive d || decide (4 ≤ f) then d
    else
      let d := updConfig (fun c => { c with pass := NMap.set 0 c.pass f (beats % 2 ^ 32) }) d
      let ks := (List.range 4).filter fun k => sealBroken d f k || bad == some (.slot f k)
      let d := ks.foldl (fun d k => configUpset (.slot f k) d) d
      if bad = some (.table f) then configUpset (.table f) d else d) s
/-- The image copy can be read (R317, R422). -/
def copyReadable (d : Dev) : Bool :=
  !(d.tiers.poison.any fun k => (List.range (d.tiers.copyLen / 4096)).any fun i => memKey d (d.tiers.copyBase + 4096 * i) / 4096 == k / 4096)
/-- The slots of a clause in a frame are written again from its records; data stores are not (R422). -/
def rewriteSlots (f : Nat) (cl : Clause) (d : Dev) : Dev :=
  sealSlot cl.slot (cl.indexed.foldl (fun d ci =>
    if frameOf ci.1 == f && [SlotSt.active, .resident].contains (slotOf (cellAt d ci.1) cl.slot).st then
      updCell ci.1 (updSlot cl.slot (Slot.written cl ci.2 (phys d ci.1) d)) d
    else d) d)
/-- CONFIG_REWRITE_DONE (R422): the oldest place that waits has been written again; the tables are made anew. -/
def execConfigRewriteDone (s : State) : Out :=
  onDev (fun d => match (if configLive d then d.config.rewrite else []) with
    | [] => d
    | l :: rest =>
      let d := updConfig (fun c => { c with rewrite := rest }) d
      match l with
      | .slot f k => if copyReadable d then (slotClauses d f k).foldl (fun d id => match clauseOf d id with
          | some cl => rewriteSlots f cl d
          | none => d) d else d
      | .table _ => if d.mesh.next.isSome then d else { d with mesh := { d.mesh with next := some (d.mesh.remap, d.mesh.detour) } }) s

end Sys2Proof.Machine
end

