-- ==== Sys2Proof/Machine/Keys.lean ====
section
/-! DEFINITION. Nonces and sessions (R438, R439), owner-signed commands (R503-R505), quotes (R507) and debug access (R508). -/
namespace Sys2Proof.Machine

/-! ### Nonces (R438) -/

/-- Changes Beluf. -/
def updBeluf (f : Beluf → Beluf) (d : Dev) : Dev := { d with beluf := f d.beluf }
/-- Beats that a nonce is valid. -/
def nonceLife : Nat := 2 ^ 20
/-- Draws a nonce and keeps it; the oldest of nine is dropped. -/
def issueNonce (d : Dev) : List Byte × Dev :=
  let r := drawBytes d
  let ns := r.2.beluf.nonces ++ [(r.1, d.beat.count)]
  (r.1, updBeluf (fun b => { b with nonces := ns.drop (ns.length - 8) }) r.2)
/-- Spends a nonce: whether it was kept and is still valid. -/
def spendNonce (n : List Byte) (d : Dev) : Bool × Dev :=
  (d.beluf.nonces.any fun x => decide (x.1 = n) && decide (d.beat.count ≤ x.2 + nonceLife),
   updBeluf (fun b => { b with nonces := eraseFirst (fun x => decide (x.1 = n)) b.nonces }) d)
/-- SESSION_CHALLENGE and DEBUG_CHALLENGE answer with a nonce. -/
def challengeCmd (_ : Req) (o : Otp) (d : Dev) : Res := let r := issueNonce d; done r.1 o r.2
/-- SESSION_CHALLENGE. -/
def execSessionChallenge (r : Req) (s : State) : Out := serveCommand 0x1210 r challengeCmd s
/-- DEBUG_CHALLENGE (R503). -/
def execDebugChallenge (r : Req) (s : State) : Out := serveCommand 0x120C r challengeCmd s
/-- NONCE_EXPIRY: the nonce at place `k` is older than 2^20 beats. -/
def execNonceExpiry (k : Nat) (s : State) : Out :=
  onDev (fun d => match d.beluf.nonces[k]? with
    | some x => if x.2 + nonceLife < d.beat.count then updBeluf (fun b => { b with nonces := b.nonces.eraseIdx k }) d else d
    | none => d) s

/-! ### Sessions (R438, R439) -/

/-- No owner key is installed (R465). -/
def ownerAbsent (o : Otp) : Bool := o.owner.all fun b => b == 0
/-- What SESSION_OPEN signs. -/
def openMessage (r : Req) (o : Otp) : List Byte := r.data.take 32 ++ padTo 16 o.uniqueId ++ ip16 r.ip ++ beBytes 2 r.udp
/-- The lowest session ID that is free. -/
def freeSession (d : Dev) : Nat :=
  (((List.range (d.beluf.sessions.length + 1)).map (· + 1)).find? fun i => (sessionOf d i).isNone).getD 0
/-- SESSION_OPEN. -/
def sessionOpenCmd (r : Req) (o : Otp) (d : Dev) : Res :=
  if 8 ≤ d.beluf.sessions.length then refuse 7 o d
  else
    let n := spendNonce (r.data.take 32) d
    if !n.1 || ownerAbsent o || !ecdsaVerify o.owner (openMessage r o) (r.data.drop 32) then refuse 4 o n.2
    else
      let id := freeSession d
      let s : Session := { id := id, udp := r.udp, mac := r.mac, ip := r.ip, port := r.port, beat := d.beat.count }
      done (beBytes 2 id) o (updBeluf (fun b => { b with sessions := b.sessions ++ [s] }) n.2)
/-- SESSION_OPEN. -/
def execSessionOpen (r : Req) (s : State) : Out := serveCommand 0x1211 r sessionOpenCmd s
/-- SESSION_CLOSE. -/
def sessionCloseCmd (r : Req) (o : Otp) (d : Dev) : Res := done [] o (closeSession r.session d)
/-- SESSION_CLOSE. -/
def execSessionClose (r : Req) (s : State) : Out := serveCommand 0x1212 r sessionCloseCmd s
/-- SESSION_IDLE_TIMEOUT: SESSION_IDLE beats without a request. -/
def execSessionIdleTimeout (sid : Nat) (s : State) : Out :=
  onDev (fun d => match sessionOf d sid with
    | some x => if x.beat + d.beluf.idle ≤ d.beat.count then closeSession sid d else d
    | none => d) s

/-! ### Owner-signed commands (R503, R504) -/

/-- The 560 bytes of fuse state (R506). -/
def fuseState (o : Otp) : List Byte :=
  leBytes 1 o.ordering ++ leBytes 1 o.stepping ++
  ((List.range 8).flatMap fun i => leBytes 1 (o.slot i).st.code) ++
  ((List.range 8).flatMap fun i => keyHash (o.slot i)) ++
  padTo 64 o.owner ++ leBytes 1 o.ownerSlots ++ List.replicate 229 0
/-- KEY_COMMAND_REFUSED (R504): RANGE, with the nonce spent. -/
def keyRefused (idx reason : Nat) (o : Otp) (d : Dev) : Res := refuse 4 o (recPlain 0x0B01 0 0 idx reason d)
/-- What the signatures of a key command cover (R503). -/
def keyMessage (tag : List Byte) (r : Req) (bodyLen : Nat) (o : Otp) : List Byte :=
  tag ++ r.data.take 32 ++ padTo 16 o.uniqueId ++ slice r.data 32 bodyLen
/-- A key command in a state that R503 allows: the nonce is spent, then the nonce, the signatures (key and place in the
argument) and `late` are checked; the first reason refuses (R504). `f` is the accepted command. -/
def keyCommand (tag : List Byte) (bodyLen : Nat) (sigs : List (List Byte)) (late : Option Nat) (f : Otp → Dev → Res) (r : Req) (o : Otp) (d : Dev) : Res :=
  let n := spendNonce (r.data.take 32) d
  let msg := keyMessage tag r bodyLen o
  if !n.1 then keyRefused r.index 1 o n.2
  else if !(sigs.zipIdx.all fun k => ecdsaVerify k.1 msg (slice r.data (32 + bodyLen + 64 * k.2) 64)) then keyRefused r.index 2 o n.2
  else match late with
    | some e => keyRefused r.index e o n.2
    | none => f o n.2
/-- The OTP write of an accepted command, which extends register 7 (R504, R506). -/
def fuse (o : Otp) (d : Dev) : Res := done [] o (extend 7 (sha256 (fuseState o)) d)
/-- OWNER_INSTALL. -/
def ownerInstallCmd (otpOk : Bool) (r : Req) (o : Otp) (d : Dev) : Res :=
  let key := slice r.data 32 64
  if d.ctl.state ≠ .inert || !ownerAbsent o then refuse 3 o d
  else keyCommand [0x4F, 0x57, 0x4E, 0x49] 64 [key] (if otpOk then none else some 5) (fun o d => fuse { o with ownerKey := key, ownerSound := true } d) r o d
/-- OWNER_INSTALL. -/
def execOwnerInstall (r : Req) (otpOk : Bool) (s : State) : Out := serveCommand 0x1208 r (ownerInstallCmd otpOk) s otpOk
/-- Every session closes (R505). -/
def closeAll (d : Dev) : Dev := d.beluf.sessions.foldl (fun d s => closeSession s.id d) d
/-- OWNER_REPLACE (R505). -/
def ownerReplaceCmd (otpOk : Bool) (r : Req) (o : Otp) (d : Dev) : Res :=
  let key := slice r.data 32 64
  if d.ctl.state ≠ .inert then refuse 3 o d
  else keyCommand [0x4F, 0x57, 0x4E, 0x52] 64 [o.owner, key]
    (if o.ownerSlots = 0 then some 4 else if otpOk then none else some 5)
    (fun o d => fuse { o with ownerKey := key, ownerSound := true, ownerSlots := o.ownerSlots - 1 } (closeAll d)) r o d
/-- OWNER_REPLACE. -/
def execOwnerReplace (r : Req) (otpOk : Bool) (s : State) : Out := serveCommand 0x1209 r (ownerReplaceCmd otpOk) s otpOk
/-- Sets an image-signing slot. -/
def setSlot (k : Nat) (x : SignSlot) (o : Otp) : Otp := { o with slots := o.slots.set k x }
/-- The state of an image-signing slot; none above slot 7. -/
def slotState (o : Otp) (k : Nat) : Option KeyState := if k < o.slots.length then some (o.slot k).st else none
/-- SIGN_KEY_INSTALL (R502). -/
def signInstallCmd (otpOk : Bool) (r : Req) (o : Otp) (d : Dev) : Res :=
  let k := fldBE r.data 32 1
  if d.ctl.state ≠ .inert then refuse 3 o d
  else keyCommand [0x53, 0x4B, 0x49, 0x4E] 65 [o.owner] (if slotState o k ≠ some .empty then some 3 else if otpOk then none else some 5)
    (fun o d => fuse (setSlot k { st := .valid, key := slice r.data 33 64 } o) d) r o d
/-- SIGN_KEY_INSTALL. -/
def execSignKeyInstall (r : Req) (otpOk : Bool) (s : State) : Out := serveCommand 0x1204 r (signInstallCmd otpOk) s otpOk
/-- SIGN_KEY_REVOKE (R502): the key stays in its slot. -/
def signRevokeCmd (otpOk : Bool) (r : Req) (o : Otp) (d : Dev) : Res :=
  let k := fldBE r.data 32 1
  if d.ctl.state ≠ .inert then refuse 3 o d
  else keyCommand [0x53, 0x4B, 0x52, 0x56] 1 [o.owner] (if slotState o k ≠ some .valid then some 3 else if otpOk then none else some 5)
    (fun o d => fuse (setSlot k { o.slot k with st := .revoked } o) d) r o d
/-- SIGN_KEY_REVOKE. -/
def execSignKeyRevoke (r : Req) (otpOk : Bool) (s : State) : Out := serveCommand 0x1205 r (signRevokeCmd otpOk) s otpOk
/-- DEBUG_UNLOCK (R508): DEBUG_STATE 1, DEBUG_UNLOCKED, register 8 and, as every command of R503, register 7. -/
def debugUnlockCmd (r : Req) (o : Otp) (d : Dev) : Res :=
  let scope := fldBE r.data 32 1
  if !(d.ctl.state == .inert || d.ctl.state == .loaded || d.ctl.state == .held) then refuse 3 o d
  else keyCommand [0x44, 0x42, 0x47, 0x55] 1 [o.owner] (if scope ≠ 1 then some 3 else none)
    (fun o d => fuse o (extend 8 (sha256 r.data) (recPlain 0x0B02 0 0 scope 0 { d with sec := { d.sec with debug := true } }))) r o d
/-- DEBUG_UNLOCK. -/
def execDebugUnlock (r : Req) (s : State) : Out := serveCommand 0x120D r debugUnlockCmd s

/-! ### Quotes (R507) -/

/-- Bytes 0x000 to 0x25F of a quote. -/
def quoteBody (nonce : List Byte) (o : Otp) (d : Dev) : List Byte :=
  [0x45, 0x56, 0x51, 0x54] ++ leBytes 2 1 ++ leBytes 1 d.ctl.state.code ++ leBytes 1 (bNat d.sec.debug) ++ padTo 16 o.uniqueId ++ padTo 32 nonce ++
  leBytes 8 d.beat.count ++ leBytes 8 d.config.serial ++ leBytes 8 d.epoch.committed ++ leBytes 4 (retireMap o d).length ++
  List.replicate 12 0 ++ (List.range 16).flatMap fun i => measureOf d i
/-- QUOTE: signed with the identity key and a secret of the random source. -/
def quoteCmd (r : Req) (o : Otp) (d : Dev) : Res :=
  if d.sec.identity ≠ some 0 then refuse 3 o d
  else
    let q := quoteBody r.data o d
    let k := drawSign identityKey q signTries d
    done (q ++ k.1) o k.2
/-- QUOTE. -/
def execQuote (r : Req) (s : State) : Out := serveCommand 0x120B r quoteCmd s

/-! ### JTAG (R508) -/

/-- IDCODE. -/
def idcode (o : Otp) : Nat := o.stepping % 16 * 2 ^ 28 + 0x4896 * 2 ^ 12 + 0x6E3 * 2 + 1
/-- JTAG_INSTRUCTION: the four instructions of R508, and internal scan: where that is not unlocked the port does not offer it,
and IEEE 1149.1 makes an instruction not offered BYPASS (PRESUMED, notes/assumptions/36); once unlocked the manual does not say
what a scan does. -/
def execJtagInstruction (j : JtagOp) (s : State) : Out :=
  let bypass : Dev → Dev := fun d => { d with tx := .jtag 0 1 :: d.tx, sec := { d.sec with jtag := .bypass } }
  if s.dev.power.boot == .down then .next s
  else match j with
  | .bypass => onDev bypass s
  | .idcode => onDevO (fun o d => { d with tx := .jtag (idcode o) 32 :: d.tx, sec := { d.sec with jtag := .idcode } }) s
  | .samplePreload => onDev (fun d => { d with sec := { d.sec with jtag := .samplePreload } }) s
  | .extest outs => onDev (fun d => { d with sec := { d.sec with jtag := .extest outs } }) s
  | .internal => if s.dev.sec.debug then .fault .debugScan else onDev bypass s

end Sys2Proof.Machine
end

