-- ==== Sys2Proof/Machine/PowerSeq.lean ====
section
/-! DEFINITION. Reset and power (R494, R499, R506, R510, R514, R516-R520, R527): the reset sequence, the retirement map as it
applies from reset, and the device-fatal faults of rails, clocks and temperature. -/
namespace Sys2Proof.Machine


/-! ### Resets (R518, R519) -/

/-- The device as RESET_N rises with straps `st`: what is left of the device before is what it has sent and drawn. -/
def afterReset (st : Straps) (d : Dev) : Dev :=
  let n := Dev.reset st
  { n with tx := d.tx, sec := { n.sec with draws := d.sec.draws } }
/-- POWER_ON_RESET (R518). -/
def execPowerOnReset (st : Straps) (s : State) : Out := onDev (afterReset st) s
/-- WARM_RESET (R519): RESET_CAUSE 1; LAST_FATAL stays, and so do retirements that no OTP entry holds (R473, R494). -/
def execWarmReset (st : Straps) (s : State) : Out :=
  onDev (fun d =>
    if d.power.boot == .down then d
    else
      let n := updPower (fun p => { p with cause := 1 }) (afterReset st d)
      { n with health := { n.health with last := d.health.last, extra := d.health.extra } }) s
/-- POWER_DOWN (R519): only one-time-programmable memory survives. -/
def execPowerDown (s : State) : Out :=
  onDev (fun d => updPower (fun p => { p with boot := .down, domains := [] }) (afterReset d.power.straps d)) s
/-- PLL_LOCK (R516): the PLL of frame `n`, or of I/O die `n` - 4, whose SERDES reference clock is then reported too
(DESIGN CHOICE, notes/assumptions/37). -/
def execPllLock (n : Nat) (s : State) : Out :=
  onDev (fun d =>
    if d.power.boot == .down || decide (6 ≤ n) then d
    else updPower (fun p => { p with pll := NMap.set false p.pll n true, serdes := if 4 ≤ n then NMap.set false p.serdes (n - 4) true else p.serdes }) d) s

/-! ### The retirement map from reset (R91, R494) -/

/-- A page entry as a reset finds it: the first good spare stands in its page's place (R317). -/
def pageAtReset (m : List Nat) (dev pp : Nat) (d : Dev) : Dev :=
  match pageBehind d dev pp with
  | none => d
  | some page =>
    let used := goodSpare m dev m.length (NMap.get 0 d.tiers.sparesUsed dev)
    if sparePages ≤ used then d
    else { d with tiers := { d.tiers with
      sparesUsed := NMap.set 0 d.tiers.sparesUsed dev (used + 1)
      pages := NMap.set none d.tiers.pages (dev * 0x2000000 + page) (some (dataPages + used)) } }
/-- What an entry of the map changes besides the tables. -/
def applyEntry (m : List Nat) (e : Nat) (d : Dev) : Dev :=
  let u := entryUnit e
  match u.1 with
  | 1 => retireCells u.2.1 u.2.2 d
  | 3 => updP (u.2.1 * 1152 + u.2.2 / 32) (failBank (u.2.2 % 32)) d
  | 4 => updP (u.2.1 * 1152 + u.2.2 / 1024) (fun x => { x with badEntries := x.badEntries ++ [u.2.2 % 1024] }) d
  | 5 =>
    if u.2.2 < 4096 then updSig u.2.1 u.2.2 (fun w => { w with failed := true }) d
    else markSpare u.2.1 (u.2.2 - 4096) d
  | 6 => pageAtReset m u.2.1 u.2.2 d
  | 7 => pageAtReset m (8 + u.2.1) u.2.2 d
  | 8 => if u.2.2 < 8 then updFab u.2.1 (fun x => { x with spared := some u.2.2, spareNext := some u.2.2 }) d else d
  | _ => d
/-- The map applies: units, then the tables; a bench without its shim reads AVAIL 0 until a load (R91). -/
def applyMap (o : Otp) (d : Dev) : Dev :=
  let m := retireMap o d
  if m.isEmpty then d else applyTables (askTables m noShims (m.foldl (fun d e => applyEntry m e d) d))
/-- The cause for which the identity is invalid, 0 where it is valid: what the known-answer tests and the reconstruction gave, and
then the comparison with the certificate (R499). -/
def identityCause (cause : Nat) (o : Otp) : Nat := if cause = 0 ∧ certDiffers o then 2 else cause
/-- IDENTITY_CHECK (R499, R518 step 4): the identity is judged, the map applied, registers 6 and 7 extended (R506). -/
def execIdentityCheck (cause : Nat) (s : State) : Out :=
  onDevO (fun o d =>
    if d.power.boot != .released || d.sec.identity.isSome || decide (3 < cause) then d
    else
      let d := applyMap o { d with sec := { d.sec with identity := some (identityCause cause o) } }
      extend 7 (sha256 (fuseState o)) (extend 6 (retireHash (retireMap o d)) d)) s
/-- INERT_READY (R518 step 6): the PLLs are locked and the identity judged; the beat counts from 0 (R336), and a host
port whose link has come up probes for its addresses (R373). -/
def execInertReady (s : State) : Out :=
  onDevO (fun o d =>
    if d.power.boot == .released && d.sec.identity.isSome && (List.range 6).all fun n => NMap.get false d.power.pll n then
      probeHost o 1 (probeHost o 0 (updBeat (fun u => { u with count := 0, cyc := 0 }) (updPower (fun p => { p with boot := .ready }) d)))
    else d) s

/-! ### Device-fatal faults of this chapter (R510, R514, R516, R520, R527) -/

/-- A device-fatal record; one in INERT bars LOAD until the next reset (R520). -/
def powerFault (code d0 d1 : Nat) (d : Dev) : Dev :=
  let inert := d.ctl.state == .inert
  updPower (fun p => { p with fatalInert := p.fatalInert || inert }) (recPlain code 2 0 d0 d1 d)
/-- The domains that go off after THERMAL_TRIP and the fault of a frame rail (R510): bench-row halves, dovetail groups, and the
interfaces of the memories that go into self-refresh. -/
def darken (d : Dev) : Dev := (List.range 80 ++ [90, 91, 92, 93]).foldl (fun d n => switchDomain false n d) d
/-- A rail's nominal voltage in mV and its total tolerance in percent (R512, R514). -/
def railLimits : Nat → Nat × Nat
  | 0 | 1 | 2 | 3 => (700, 3)
  | 4 | 5 => (750, 4)
  | 6 => (900, 3)
  | _ => (1200, 3)
/-- A voltage lies outside a rail's total tolerance. -/
def railOut (rail mv : Nat) : Bool :=
  let l := railLimits rail
  decide (100 * mv < l.1 * (100 - l.2)) || decide (l.1 * (100 + l.2) < 100 * mv)
/-- RAIL_FAULT (R514). -/
def execRailFault (rail mv : Nat) (s : State) : Out :=
  onDev (fun d =>
    if d.power.boot == .down || decide (8 ≤ rail) || !railOut rail mv then d
    else let d := powerFault 0x0C03 rail mv d; if rail < 4 then darken d else d) s
/-- CLOCK_FAULT (R516). -/
def execClockFault (clk : Nat) (s : State) : Out :=
  onDev (fun d =>
    if d.power.boot == .down || decide (9 ≤ clk) then d
    else
      let d := updPower (fun p =>
        if clk < 6 then { p with pll := NMap.set false p.pll clk false }
        else if 7 ≤ clk then { p with serdes := NMap.set false p.serdes (clk - 7) false } else p) d
      powerFault 0x0C04 clk 0 d) s
/-- THERMAL_TRIP (R527): a reading above 108.0 degrees, in units of 0.01 degrees. -/
def execThermalTrip (die sensor reading : Nat) (s : State) : Out :=
  onDev (fun d =>
    if d.power.boot == .down || decide (6 ≤ die) || decide ((if die < 4 then 16 else 4) ≤ sensor) || decide (reading ≤ 10800) then d
    else darken (powerFault 0x0C02 (die * 256 + sensor) reading d)) s

end Sys2Proof.Machine
end

