-- ==== Sys2Proof/Machine/Beluf.lean ====
section
/-! DEFINITION. Beluf requests by opcode (R429-R433, R444): READ, WRITE, DISCOVER, the requests answered later, and
datagrams as they arrive. -/
namespace Sys2Proof.Machine

/-- The COMMAND of an index, through the selectors `t` (R463-R476); `otpOk` says whether an OTP write succeeds (R504). -/
def commandFor (t : Sels) (otpOk : Bool) (r : Req) : Otp → Dev → Res :=
  match r.index with
  | 0x1101 => holdCmd r
  | 0x1102 => releaseCmd r
  | 0x1103 => unloadCmd r
  | 0x1104 => disarmCmd r
  | 0x1110 => loadCmd r
  | 0x1111 => armCmd r
  | 0x1112 => reloadCmd r
  | 0x1204 => signInstallCmd otpOk r
  | 0x1205 => signRevokeCmd otpOk r
  | 0x1208 => ownerInstallCmd otpOk r
  | 0x1209 => ownerReplaceCmd otpOk r
  | 0x120B => quoteCmd r
  | 0x120C => challengeCmd r
  | 0x120D => debugUnlockCmd r
  | 0x1210 => challengeCmd r
  | 0x1211 => sessionOpenCmd r
  | 0x1212 => sessionCloseCmd r
  | 0x3108 => abandonCmd r
  | 0x3109 => commitNowCmd r
  | 0x4005 => restartCmd r
  | 0x4202 => sigRaiseCmd t r
  | 0x5002 => nanRearmCmd t r
  | 0x5004 => counterResetCmd t r
  | 0x6100 => jigRunCmd r
  | 0x6204 => retireCmd r
  | 0x8003 => fenceCmd t r
  | _ => refuse 2
/-- A WRITE through the selectors `t`, of which only a selector object changes the session's (R436, R460). -/
def writeVia (t : Sels) (r : Req) (o : Otp) (d : Dev) : Res :=
  if r.index = 0x1121 ∧ r.sub = 0 then writeOpControl r o d
  else if r.index = 0x4201 ∧ r.sub = 1 then signalWrite t r o d
  else
    let w := objWrite t false r.index r.sub r.data d
    { st := w.1, otp := o, dev := if objSelector r.index then updSession r.session (fun s => { s with sels := w.2.2 }) w.2.1 else w.2.1 }
/-- A READ through the selectors `t`. -/
def readVia (t : Sels) (r : Req) (o : Otp) (d : Dev) : Res :=
  match objRead o d t r.index r.sub with
  | .inr b => done b o d
  | .inl e => refuse e o d
/-- The answer to DISCOVER (R444). -/
def discoverBytes (p : Nat) (o : Otp) (d : Dev) : List Byte :=
  beBytes 2 0x4896 ++ beBytes 1 o.ordering ++ beBytes 1 o.stepping ++ padTo 16 o.uniqueId ++ hostMac o p ++ beBytes 3 d.ports.fabricId ++
  beBytes 1 d.ctl.state.code ++ beBytes 1 d.config.position ++ List.replicate 9 0
/-- A request by its opcode: 1 READ, 2 WRITE, 3 COMMAND, 4 BULK_OPEN, 6 BULK_CLOSE, 8 DISCOVER. -/
def performOp (op : Nat) (t : Sels) (otpOk : Bool) (r : Req) (o : Otp) (d : Dev) : Res :=
  match op with
  | 1 => readVia t r o d
  | 2 => writeVia t r o d
  | 3 => command r (commandFor t otpOk r) o d
  | 4 => bulkOpen r o d
  | 6 => bulkClose r o d
  | _ => done (discoverBytes r.port o d) o d
/-- Serves a request by its opcode. -/
def serveOp (op : Nat) (r : Req) : Otp → Dev → Otp × Dev := fun o d => serve op r (fun o d => performOp op (selsOf d r.session) true r o d) o d
/-- BELUF_READ (R435). -/
def execBelufRead (r : Req) (s : State) : Out := onBoth (serveOp 1 r) s
/-- BELUF_WRITE (R435, R436). -/
def execBelufWrite (r : Req) (s : State) : Out := onBoth (serveOp 2 r) s
/-- DISCOVER (R444): in every state, in session 0. -/
def execDiscover (r : Req) (s : State) : Out := onBoth (serveOp 8 r) s

/-- The `k`-th waiting request may be performed: none of its session to the same index waits before it, nor for a store's reply
or a stream's lines, and no signature operation comes before its own (R433, R498). -/
def deferredTurn (d : Dev) (k op : Nat) (r : Req) : Bool :=
  !storeWaits d r && !streamWaits d op r &&
  !((d.beluf.deferred.take k).any fun q => (q.req.session == r.session && q.req.index == r.index) || (signs op r && signs q.op q.req))
/-- BELUF_DEFERRED_REPLY (R433, R461): a waiting request is performed and answered; one that repeats the last performed is
answered again (R432), and one whose session has closed is gone. -/
def execBelufDeferredReply (k : Nat) (s : State) : Out :=
  onBoth (fun o d => match d.beluf.deferred[k]? with
    | none => (o, d)
    | some h =>
      let r := h.req
      if !deferredTurn d k h.op r then (o, d)
      else
        let d := updBeluf (fun b => { b with deferred := b.deferred.eraseIdx k }) d
        if r.session ≠ 0 ∧ (sessionOf d r.session).isNone then (o, d)
        else match repeated h.op r d with
          | some b => (o, sendTo r b d)
          | none => answer h.op r (performOp h.op h.sels h.otpOk r) o d) s

/-! ### Datagrams (R429, R430) -/

/-- The request that a Beluf payload of at least 16 B spells, with its opcode and LENGTH. -/
def parseReq (p : Nat) (mac ip : List Byte) (udp : Nat) (raw : List Byte) (dst : Option (List Byte)) : Nat × Nat × Req :=
  (fldBE raw 1 1, fldBE raw 0x0A 2,
   { port := p, mac := mac, ip := ip, udp := udp, session := fldBE raw 4 2, seq := fldBE raw 2 2, index := fldBE raw 6 2, sub := fldBE raw 8 1, data := raw.drop 16, dst := dst })
/-- A datagram at BELUF_UDP. -/
def datagram (p : Nat) (mac ip : List Byte) (udp : Nat) (raw : List Byte) (dst : Option (List Byte)) (o : Otp) (d : Dev) : Otp × Dev :=
  let x := parseReq p mac ip udp raw dst
  let op := x.1
  let r := x.2.2
  if !hostHears o d p dst (op == 8) then (o, d)
  else if raw.length < 16 ∨ fldBE raw 0 1 ≠ 1 ∨ (op ≠ 8 ∧ foreign r d = true) then (o, belufDrop d)
  else if x.2.1 ≠ r.data.length ∨ 8192 < x.2.1 ∨ ¬ [1, 2, 3, 4, 6, 8].contains op then
    if queueRoom op r d = false then (o, belufDrop d)
    else
      let d := arrives r d
      (o, sendTo r ((repeated op r d).getD (replyBytes op r.session r (refuse 8 o d))) d)
  else serveOp op r o d
/-- BELUF_MALFORMED (R429, R430): a raw datagram; one that is well formed is served as the request that it spells. -/
def execBelufMalformed (p : Nat) (ip : List Byte) (udp : Nat) (raw : List Byte) (s : State) (mac : List Byte := []) (dst : Option (List Byte) := none) : Out :=
  onBoth (datagram p mac ip udp raw dst) s

end Sys2Proof.Machine
end

