-- ==== Sys2Proof/Machine/Dispatch.lean ====
section
/-! DEFINITION. The dispatch of every command to its meaning. -/
namespace Sys2Proof.Machine

def exec (i : Instr) (s : State) : Host.Outcome State Fault Refusal :=
  match i with
  | .add c a b d => Sys2Proof.Machine.execAdd c a b d s
  | .sub c a b d => Sys2Proof.Machine.execSub c a b d s
  | .and c a b d => Sys2Proof.Machine.execAnd c a b d s
  | .ior c a b d => Sys2Proof.Machine.execIor c a b d s
  | .xor c a b d => Sys2Proof.Machine.execXor c a b d s
  | .lsl c a b d => Sys2Proof.Machine.execLsl c a b d s
  | .lsr c a b d => Sys2Proof.Machine.execLsr c a b d s
  | .asr c a b d => Sys2Proof.Machine.execAsr c a b d s
  | .lts c a b d => Sys2Proof.Machine.execLts c a b d s
  | .ltu c a b d => Sys2Proof.Machine.execLtu c a b d s
  | .mins c a b d => Sys2Proof.Machine.execMins c a b d s
  | .maxs c a b d => Sys2Proof.Machine.execMaxs c a b d s
  | .minu c a b d => Sys2Proof.Machine.execMinu c a b d s
  | .maxu c a b d => Sys2Proof.Machine.execMaxu c a b d s
  | .mullo c a b d => Sys2Proof.Machine.execMullo c a b d s
  | .mulhs c a b d => Sys2Proof.Machine.execMulhs c a b d s
  | .mulhu c a b d => Sys2Proof.Machine.execMulhu c a b d s
  | .quos c a b d => Sys2Proof.Machine.execQuos c a b d s
  | .quou c a b d => Sys2Proof.Machine.execQuou c a b d s
  | .rmds c a b d => Sys2Proof.Machine.execRmds c a b d s
  | .rmdu c a b d => Sys2Proof.Machine.execRmdu c a b d s
  | .addk c a d imm => Sys2Proof.Machine.execAddk c a d imm s
  | .andk c a d imm => Sys2Proof.Machine.execAndk c a d imm s
  | .iork c a d imm => Sys2Proof.Machine.execIork c a d imm s
  | .xork c a d imm => Sys2Proof.Machine.execXork c a d imm s
  | .ltsk c a d imm => Sys2Proof.Machine.execLtsk c a d imm s
  | .ltuk c a d imm => Sys2Proof.Machine.execLtuk c a d imm s
  | .lslk c a d imm => Sys2Proof.Machine.execLslk c a d imm s
  | .lsrk c a d imm => Sys2Proof.Machine.execLsrk c a d imm s
  | .asrk c a d imm => Sys2Proof.Machine.execAsrk c a d imm s
  | .kld c d imm => Sys2Proof.Machine.execKld c d imm s
  | .ksh c a d imm => Sys2Proof.Machine.execKsh c a d imm s
  | .ld8s c a d imm => Sys2Proof.Machine.execLd8s c a d imm s
  | .ld8u c a d imm => Sys2Proof.Machine.execLd8u c a d imm s
  | .ld16s c a d imm => Sys2Proof.Machine.execLd16s c a d imm s
  | .ld16u c a d imm => Sys2Proof.Machine.execLd16u c a d imm s
  | .ld32s c a d imm => Sys2Proof.Machine.execLd32s c a d imm s
  | .ld32u c a d imm => Sys2Proof.Machine.execLd32u c a d imm s
  | .ld64 c a d imm => Sys2Proof.Machine.execLd64 c a d imm s
  | .st8 c a r imm => Sys2Proof.Machine.execSt8 c a r imm s
  | .st16 c a r imm => Sys2Proof.Machine.execSt16 c a r imm s
  | .st32 c a r imm => Sys2Proof.Machine.execSt32 c a r imm s
  | .st64 c a r imm => Sys2Proof.Machine.execSt64 c a r imm s
  | .jeq c a b off => Sys2Proof.Machine.execJeq c a b off s
  | .jne c a b off => Sys2Proof.Machine.execJne c a b off s
  | .jlts c a b off => Sys2Proof.Machine.execJlts c a b off s
  | .jges c a b off => Sys2Proof.Machine.execJges c a b off s
  | .jltu c a b off => Sys2Proof.Machine.execJltu c a b off s
  | .jgeu c a b off => Sys2Proof.Machine.execJgeu c a b off s
  | .call c d imm => Sys2Proof.Machine.execCall c d imm s
  | .jmpr c a d imm => Sys2Proof.Machine.execJmpr c a d imm s
  | .jdnz c a off => Sys2Proof.Machine.execJdnz c a off s
  | .undefinedEncoding c w => Sys2Proof.Machine.execUndefinedEncoding c w s
  | .cstate c d imm => Sys2Proof.Machine.execCstate c d imm s
  | .beat c d => Sys2Proof.Machine.execBeat c d s
  | .phaseRead c d => Sys2Proof.Machine.execPhaseRead c d s
  | .bwait c a dl d => Sys2Proof.Machine.execBwait c a dl d s
  | .sread c a d => Sys2Proof.Machine.execSread c a d s
  | .sset c a b => Sys2Proof.Machine.execSset c a b s
  | .sadd c a b d => Sys2Proof.Machine.execSadd c a b d s
  | .swait c a b dl d cond => Sys2Proof.Machine.execSwait c a b dl d cond s
  | .qopen c a => Sys2Proof.Machine.execQopen c a s
  | .qclose c a => Sys2Proof.Machine.execQclose c a s
  | .qreset c a => Sys2Proof.Machine.execQreset c a s
  | .qsend c a b strict => Sys2Proof.Machine.execQsend c a b strict s
  | .qrecv c a b dl d e => Sys2Proof.Machine.execQrecv c a b dl d s e
  | .launch c idx t p0 p1 smm => Sys2Proof.Machine.execLaunch c idx t p0 p1 smm s
  | .move c idx p0 p1 => Sys2Proof.Machine.execMove c idx p0 p1 s
  | .mbpop c a dl d e => Sys2Proof.Machine.execMbpop c a dl d e s
  | .mbtake c a b dl d e => Sys2Proof.Machine.execMbtake c a b dl d e s
  | .nop c => Sys2Proof.Machine.execNop c s
  | .cend c => Sys2Proof.Machine.execCend c s
  | .sync c => Sys2Proof.Machine.execSync c s
  | .faultNotice c a b => Sys2Proof.Machine.execFaultNotice c a b s
  | .faultFatal c a b => Sys2Proof.Machine.execFaultFatal c a b s
  | .blockingWaitResume c e => Sys2Proof.Machine.execBlockingWaitResume c s e
  | .waitDeadline c e => Sys2Proof.Machine.execWaitDeadline c s e
  | .signalReplyDone dst f v => Sys2Proof.Machine.execSignalReplyDone dst f v s
  | .signalReplyWake dst f v => Sys2Proof.Machine.execSignalReplyWake dst f v s
  | .signalReplyCancelled dst f => Sys2Proof.Machine.execSignalReplyCancelled dst f s
  | .signalReplyRefused dst f v => Sys2Proof.Machine.execSignalReplyRefused dst f v s
  | .signalReplyAbsent dst f => Sys2Proof.Machine.execSignalReplyAbsent dst f s
  | .signalRead r e => Sys2Proof.Machine.execSignalRead r e s
  | .signalSet r e => Sys2Proof.Machine.execSignalSet r e s
  | .signalAdd r e => Sys2Proof.Machine.execSignalAdd r e s
  | .signalWait r cond e => Sys2Proof.Machine.execSignalWait r cond e s
  | .signalCancel r e => Sys2Proof.Machine.execSignalCancel r s e
  | .nounReadRequest c p addr src clause off => Sys2Proof.Machine.execNounReadRequest c p addr src clause off s
  | .nounWrite c p addr src clause off line en => Sys2Proof.Machine.execNounWrite c p addr src clause off line en s
  | .bankGrant c bank e => Sys2Proof.Machine.execBankGrant c bank e s
  | .nounReadData dst frm p addr refused line => Sys2Proof.Machine.execNounReadData dst frm p addr refused line s
  | .nounWriteAck dst frm p addr refused => Sys2Proof.Machine.execNounWriteAck dst frm p addr refused s
  | .queueMessage c q gen strict src pay => Sys2Proof.Machine.execQueueMessage c q gen strict src pay s
  | .qctlQopen c q src => Sys2Proof.Machine.execQctlQopen c q src s
  | .qctlQclose c q src => Sys2Proof.Machine.execQctlQclose c q src s
  | .qctlQreset c q src => Sys2Proof.Machine.execQctlQreset c q src s
  | .qcompAccepted dst c q gen => Sys2Proof.Machine.execQcompAccepted dst c q gen s
  | .qcompClosed dst c q gen cause => Sys2Proof.Machine.execQcompClosed dst c q gen cause s
  | .qcompFull dst c q gen => Sys2Proof.Machine.execQcompFull dst c q gen s
  | .qcompResume dst c q gen => Sys2Proof.Machine.execQcompResume dst c q gen s
  | .qcompFenced dst c q gen => Sys2Proof.Machine.execQcompFenced dst c q gen s
  | .fullResendTimeout dst c q => Sys2Proof.Machine.execFullResendTimeout dst c q s
  | .queueEntryTaken c port e => Sys2Proof.Machine.execQueueEntryTaken c port e s
  | .combineSlotDeliver c q es => Sys2Proof.Machine.execCombineSlotDeliver c q s es
  | .sendStall c => Sys2Proof.Machine.execSendStall c s
  | .mailboxSummary c src pay => Sys2Proof.Machine.execMailboxSummary c src pay s
  | .launchArrival c src idx eng p0 p1 => Sys2Proof.Machine.execLaunchArrival c src idx eng p0 p1 s
  | .badFlit p cls => Sys2Proof.Machine.execBadFlit p cls s
  | .routerForward n e => Sys2Proof.Machine.execRouterForward n e s
  | .tableChange => Sys2Proof.Machine.execTableChange s
  | .matmulStart c => Sys2Proof.Machine.execMatmulStart c s
  | .matmulSegmentEnd c => Sys2Proof.Machine.execMatmulSegmentEnd c s
  | .verbBlockDrain c => Sys2Proof.Machine.execVerbBlockDrain c s
  | .verbOutputWrite c => Sys2Proof.Machine.execVerbOutputWrite c s
  | .matmulComplete c => Sys2Proof.Machine.execMatmulComplete c s
  | .stageStart c => Sys2Proof.Machine.execStageStart c s
  | .stageComplete c => Sys2Proof.Machine.execStageComplete c s
  | .vectorStart c => Sys2Proof.Machine.execVectorStart c s
  | .adverbOutputWrite c y => Sys2Proof.Machine.execAdverbOutputWrite c y s
  | .summarySend c => Sys2Proof.Machine.execSummarySend c s
  | .vectorComplete c => Sys2Proof.Machine.execVectorComplete c s
  | .smmStart c => Sys2Proof.Machine.execSmmStart c s
  | .smmComplete c => Sys2Proof.Machine.execSmmComplete c s
  | .moverRequestStart f => Sys2Proof.Machine.execMoverRequestStart f s
  | .moverReadLine id tag e l => Sys2Proof.Machine.execMoverReadLine id tag e s l
  | .moverWriteLine id tag line e l => Sys2Proof.Machine.execMoverWriteLine id tag line e l s
  | .copyBeforeWriteDone granule => Sys2Proof.Machine.execCopyBeforeWriteDone granule s
  | .pageSpareCopyDone lp dev page => Sys2Proof.Machine.execPageSpareCopyDone lp dev page s
  | .moverReadData id tag line => Sys2Proof.Machine.execMoverReadData id tag line s
  | .moverWriteAck id tag => Sys2Proof.Machine.execMoverWriteAck id tag s
  | .moverRefused id tag => Sys2Proof.Machine.execMoverRefused id tag s
  | .moverComplete id => Sys2Proof.Machine.execMoverComplete id s
  | .beatEdge m => Sys2Proof.Machine.execBeatEdge m s
  | .beatInPulse width dev => Sys2Proof.Machine.execBeatInPulse width dev s
  | .beatInMissing => Sys2Proof.Machine.execBeatInMissing s
  | .beatInLost => Sys2Proof.Machine.execBeatInLost s
  | .ptpSync seqId t1 t2 twoStep dom => Sys2Proof.Machine.execPtpSync seqId t1 t2 twoStep s dom
  | .ptpDelayResp seqId t4 dom => Sys2Proof.Machine.execPtpDelayResp seqId t4 s dom
  | .ptpLost => Sys2Proof.Machine.execPtpLost s
  | .beatFrame rx count toEdge period tx lseq => Sys2Proof.Machine.execBeatFrame rx count toEdge period tx s lseq
  | .beatFrameSend tx toEdge => Sys2Proof.Machine.execBeatFrameSend tx toEdge s
  | .beatFrameLost => Sys2Proof.Machine.execBeatFrameLost s
  | .echoSend t1 => Sys2Proof.Machine.execEchoSend t1 s
  | .echoReq p t1 t2 t3 lseq => Sys2Proof.Machine.execEchoReq p t1 t2 t3 s lseq
  | .echoRsp t1 t2 t3 t4 lseq => Sys2Proof.Machine.execEchoRsp t1 t2 t3 t4 s lseq
  | .schedSwitch n => Sys2Proof.Machine.execSchedSwitch n s
  | .schedHold n => Sys2Proof.Machine.execSchedHold n s
  | .schedSentenceStart n => Sys2Proof.Machine.execSchedSentenceStart n s
  | .schedSentenceStop n => Sys2Proof.Machine.execSchedSentenceStop n s
  | .schedQopenSet n => Sys2Proof.Machine.execSchedQopenSet n s
  | .schedQcloseSet n => Sys2Proof.Machine.execSchedQcloseSet n s
  | .schedRaise n => Sys2Proof.Machine.execSchedRaise n s
  | .schedSelftest n => Sys2Proof.Machine.execSchedSelftest n s
  | .schedAbandon n => Sys2Proof.Machine.execSchedAbandon n s
  | .schedThrottle n => Sys2Proof.Machine.execSchedThrottle n s
  | .sentenceFill sid => Sys2Proof.Machine.execSentenceFill sid s
  | .sentenceSwitch sid => Sys2Proof.Machine.execSentenceSwitch sid s
  | .fillComplete clause => Sys2Proof.Machine.execFillComplete clause s
  | .switchCloseOut k => Sys2Proof.Machine.execSwitchCloseOut k s
  | .switchActivateIn k => Sys2Proof.Machine.execSwitchActivateIn k s
  | .switchStartIn k => Sys2Proof.Machine.execSwitchStartIn k s
  | .switchLateRecheck k => Sys2Proof.Machine.execSwitchLateRecheck k s
  | .switchGraceExpiry k => Sys2Proof.Machine.execSwitchGraceExpiry k s
  | .commitWindowOpen => Sys2Proof.Machine.execCommitWindowOpen s
  | .commit => Sys2Proof.Machine.execCommit s
  | .commitNowFlip => Sys2Proof.Machine.execCommitNowFlip s
  | .abandonComplete => Sys2Proof.Machine.execAbandonComplete s
  | .linkCtrlAck p lc => Sys2Proof.Machine.execLinkCtrlAck p lc s
  | .linkCtrlNak p lc => Sys2Proof.Machine.execLinkCtrlNak p lc s
  | .hello p lc mac => Sys2Proof.Machine.execHello p lc s mac
  | .spareReq p lc => Sys2Proof.Machine.execSpareReq p lc s
  | .spareGo p lane lseq lc => Sys2Proof.Machine.execSpareGo p lane lseq s lc
  | .linkCtrlSend p => Sys2Proof.Machine.execLinkCtrlSend p s
  | .helloSend p => Sys2Proof.Machine.execHelloSend p s
  | .replayTimeout p => Sys2Proof.Machine.execReplayTimeout p s
  | .laneFailure p lane => Sys2Proof.Machine.execLaneFailure p lane s
  | .neighbourSilence p => Sys2Proof.Machine.execNeighbourSilence p s
  | .pcsLockLoss p => Sys2Proof.Machine.execPcsLockLoss p s
  | .resendLimit p => Sys2Proof.Machine.execResendLimit p s
  | .fabricWrite p h firstEn lastEn lines => Sys2Proof.Machine.execFabricWrite p h firstEn lastEn lines s
  | .fabricRaise p h amount => Sys2Proof.Machine.execFabricRaise p h amount s
  | .fabricReadReq p h len => Sys2Proof.Machine.execFabricReadReq p h len s
  | .fabricReadData p h data => Sys2Proof.Machine.execFabricReadData p h data s
  | .fabricAck p h => Sys2Proof.Machine.execFabricAck p h s
  | .fabricAckTimeout id => Sys2Proof.Machine.execFabricAckTimeout id s
  | .pfcFrame p prio pause => Sys2Proof.Machine.execPfcFrame p prio pause s
  | .imageFrame p lseq off data => Sys2Proof.Machine.execImageFrame p lseq off data s
  | .linkNotice p lseq notice => Sys2Proof.Machine.execLinkNotice p lseq notice s
  | .arpRequest p mac ip target => Sys2Proof.Machine.execArpRequest p mac ip target s
  | .neighbourSolicitation p mac ip target => Sys2Proof.Machine.execNeighbourSolicitation p mac ip target s
  | .icmpEcho p mac ip target data => Sys2Proof.Machine.execIcmpEcho p mac ip target data s
  | .duplicateAddressDetection p kind other => Sys2Proof.Machine.execDuplicateAddressDetection p kind other s
  | .belufRead r => Sys2Proof.Machine.execBelufRead r s
  | .belufWrite r => Sys2Proof.Machine.execBelufWrite r s
  | .bulkOpen r => Sys2Proof.Machine.execBulkOpen r s
  | .bulkData p ip udp stream seq data es => Sys2Proof.Machine.execBulkData p ip udp stream seq data s es
  | .bulkClose r => Sys2Proof.Machine.execBulkClose r s
  | .bulkReadSend stream es => Sys2Proof.Machine.execBulkReadSend stream s es
  | .discover r => Sys2Proof.Machine.execDiscover r s
  | .belufDeferredReply k => Sys2Proof.Machine.execBelufDeferredReply k s
  | .sessionIdleTimeout sid => Sys2Proof.Machine.execSessionIdleTimeout sid s
  | .nonceExpiry k => Sys2Proof.Machine.execNonceExpiry k s
  | .load r => Sys2Proof.Machine.execLoad r s
  | .imageEnd => Sys2Proof.Machine.execImageEnd s
  | .imageIdleTimeout => Sys2Proof.Machine.execImageIdleTimeout s
  | .startupSelftestDone fails => Sys2Proof.Machine.execStartupSelftestDone fails s
  | .arm r => Sys2Proof.Machine.execArm r s
  | .disarm r => Sys2Proof.Machine.execDisarm r s
  | .cascDoneSample otherLow => Sys2Proof.Machine.execCascDoneSample otherLow s
  | .startBeat => Sys2Proof.Machine.execStartBeat s
  | .readbackPassEnd f beats bad => Sys2Proof.Machine.execReadbackPassEnd f beats bad s
  | .configRewriteDone => Sys2Proof.Machine.execConfigRewriteDone s
  | .reload r => Sys2Proof.Machine.execReload r s
  | .reloadClamp => Sys2Proof.Machine.execReloadClamp s
  | .reloadWrite => Sys2Proof.Machine.execReloadWrite s
  | .reloadReopen => Sys2Proof.Machine.execReloadReopen s
  | .reloadRestart => Sys2Proof.Machine.execReloadRestart s
  | .clampTimeout => Sys2Proof.Machine.execClampTimeout s
  | .hold r => Sys2Proof.Machine.execHold r s
  | .cellHoldStop c => Sys2Proof.Machine.execCellHoldStop c s
  | .holdComplete => Sys2Proof.Machine.execHoldComplete s
  | .nanWatchHold => Sys2Proof.Machine.execNanWatchHold s
  | .release r => Sys2Proof.Machine.execRelease r s
  | .releaseBeat => Sys2Proof.Machine.execReleaseBeat s
  | .unload r => Sys2Proof.Machine.execUnload r s
  | .sessionChallenge r => Sys2Proof.Machine.execSessionChallenge r s
  | .sessionOpen r => Sys2Proof.Machine.execSessionOpen r s
  | .sessionClose r => Sys2Proof.Machine.execSessionClose r s
  | .opAcknowledge r => Sys2Proof.Machine.execOpAcknowledge r s
  | .opSuspend r => Sys2Proof.Machine.execOpSuspend r s
  | .opResume r => Sys2Proof.Machine.execOpResume r s
  | .opCancel r => Sys2Proof.Machine.execOpCancel r s
  | .sentenceRestart r => Sys2Proof.Machine.execSentenceRestart r s
  | .sigRaise r => Sys2Proof.Machine.execSigRaise r s
  | .sigValueWrite r => Sys2Proof.Machine.execSigValueWrite r s
  | .nanRearm r => Sys2Proof.Machine.execNanRearm r s
  | .counterReset r => Sys2Proof.Machine.execCounterReset r s
  | .jigRun r => Sys2Proof.Machine.execJigRun r s
  | .sliceEnd f cycles fails lost => Sys2Proof.Machine.execSliceEnd f cycles fails lost s
  | .sliceOverrun f => Sys2Proof.Machine.execSliceOverrun f s
  | .retire r => Sys2Proof.Machine.execRetire r s
  | .cellFence r => Sys2Proof.Machine.execCellFence r s
  | .cellUnfence r => Sys2Proof.Machine.execCellUnfence r s
  | .cellFenceDone p => Sys2Proof.Machine.execCellFenceDone p s
  | .epochAbandon r => Sys2Proof.Machine.execEpochAbandon r s
  | .epochCommitNow r => Sys2Proof.Machine.execEpochCommitNow r s
  | .quote r => Sys2Proof.Machine.execQuote r s
  | .debugChallenge r => Sys2Proof.Machine.execDebugChallenge r s
  | .debugUnlock r => Sys2Proof.Machine.execDebugUnlock r s
  | .ownerInstall r otpOk => Sys2Proof.Machine.execOwnerInstall r otpOk s
  | .ownerReplace r otpOk => Sys2Proof.Machine.execOwnerReplace r otpOk s
  | .signKeyInstall r otpOk => Sys2Proof.Machine.execSignKeyInstall r otpOk s
  | .signKeyRevoke r otpOk => Sys2Proof.Machine.execSignKeyRevoke r otpOk s
  | .beatPeriodNsWrite r => Sys2Proof.Machine.execBeatPeriodNsWrite r s
  | .schedEntryWrite r => Sys2Proof.Machine.execSchedEntryWrite r s
  | .scientificEnableWrite r => Sys2Proof.Machine.execScientificEnableWrite r s
  | .hbmInterleaveWrite r => Sys2Proof.Machine.execHbmInterleaveWrite r s
  | .monSelectWrite r => Sys2Proof.Machine.execMonSelectWrite r s
  | .fabEnableWrite r => Sys2Proof.Machine.execFabEnableWrite r s
  | .routeTableWrite r => Sys2Proof.Machine.execRouteTableWrite r s
  | .hostEnableWrite r => Sys2Proof.Machine.execHostEnableWrite r s
  | .powerOnReset st => Sys2Proof.Machine.execPowerOnReset st s
  | .warmReset st => Sys2Proof.Machine.execWarmReset st s
  | .powerDown => Sys2Proof.Machine.execPowerDown s
  | .pllLock n => Sys2Proof.Machine.execPllLock n s
  | .identityCheck cause => Sys2Proof.Machine.execIdentityCheck cause s
  | .inertReady => Sys2Proof.Machine.execInertReady s
  | .domainSwitchDone n => Sys2Proof.Machine.execDomainSwitchDone n s
  | .railFault rail mv => Sys2Proof.Machine.execRailFault rail mv s
  | .clockFault clk => Sys2Proof.Machine.execClockFault clk s
  | .thermalTrip die sensor reading => Sys2Proof.Machine.execThermalTrip die sensor reading s
  | .hostLinkUp p rate => Sys2Proof.Machine.execHostLinkUp p rate s
  | .hostLinkDown p => Sys2Proof.Machine.execHostLinkDown p s
  | .hostPacketDiscarded p why => Sys2Proof.Machine.execHostPacketDiscarded p s why
  | .belufMalformed p ip udp raw mac dst => Sys2Proof.Machine.execBelufMalformed p ip udp raw s mac dst
  | .fabricFrameRejected p => Sys2Proof.Machine.execFabricFrameRejected p s
  | .fabricFrameDiscarded p hdr => Sys2Proof.Machine.execFabricFrameDiscarded p s hdr
  | .ptpFollowUp seqId t1 dom => Sys2Proof.Machine.execPtpFollowUp seqId t1 s dom
  | .ptpDelayReqSend seqId t3 => Sys2Proof.Machine.execPtpDelayReqSend seqId t3 s
  | .jtagInstruction j => Sys2Proof.Machine.execJtagInstruction j s
  | .configReadbackError loc double => Sys2Proof.Machine.execConfigReadbackError loc double s

end Sys2Proof.Machine
end

