-- ==== Sys2Proof/Safety.lean ====
section
/-! DEFINITION. What a safe run is, and the terms that the statements use: what an instruction of a core leaves, what a
record leaves, what stays as it was. -/
namespace Sys2Proof.Machine

/-- A step that goes on. -/
def Goes (o : Host.Outcome State Fault Refusal) : Prop := ∃ t, o = .next t

/-- Runs of `n` steps that all go on. -/
def runs : Nat → State → State → Prop
  | 0, s, t => s = t
  | n + 1, s, t => ∃ u, step s = .next u ∧ runs n u t

/-- A device-fatal record has not stopped the device (R445, R449). -/
def Unfaulted (s : State) : Prop := s.dev.ctl.state ≠ .faulted

/-! ### Conjunction cores -/

/-- The core goes on at offset `t`. -/
def Conj.goTo (k : Conj) (t : Nat) : Conj := { k with pc := t, stall := none }
/-- 64 bytes copied to the data store at `a` (R232). -/
def Conj.copyLine (k : Conj) (a : Nat) (m : List Byte) : Conj := { k with dmem := k.dmem.wrN a (padTo 64 (m.take 64)) }
/-- The state with core `c` changed by `f` and nothing else. -/
def State.withCore (s : State) (c : LCell) (f : Conj → Conj) : State := { s with dev := updConj c f s.dev }
/-- The state in which core `c` goes on at offset `t`, after `f`. -/
def State.coreAt (s : State) (c : LCell) (t : Nat) (f : Conj → Conj) : State :=
  s.withCore c fun k => (f k).goTo t
/-- The program counter of core `c` (R168). -/
def State.pc (s : State) (c : LCell) : Nat := (cellAt s.dev c).conj.pc
/-- The state in which core `c` goes on at its next instruction, after `f`. -/
def State.coreNext (s : State) (c : LCell) (f : Conj → Conj) : State := s.coreAt c (s.pc c + 1) f
/-- The state in which register `d` of core `c` holds `v` (x0 still zero, R218) and the core goes on at its next instruction. -/
def State.wrote (s : State) (c : LCell) (d : Reg) (v : W64) : State := s.coreNext c fun k => k.setReg d v
/-- Instruction `i` of core `c` issues, no register of `rs` having a result pending (R218). -/
def Issues (s : State) (c : LCell) (i : Instr) (rs : List Reg) : Prop := issues s.dev c i rs = true
/-- It issues, and an instruction follows it in the program (R225). -/
def IssuesInside (s : State) (c : LCell) (i : Instr) (rs : List Reg) : Prop :=
  issues s.dev c i rs = true ∧ s.pc c + 1 < progLen (cellAt s.dev c)
/-- Instruction `i` of core `c`, after its effect `f` on the core, passes control to offset `t` beyond the program: ILLEGAL_INSTRUCTION
names the instruction's offset and the target, the core stops, and no other cell changes (R225, R480). -/
def PassesBeyond (s : State) (c : LCell) (i : Instr) (t : Nat) (f : Conj → Conj) : Prop :=
  ∃ u, exec i s = .next u ∧
    u.dev.health.total = s.dev.health.total + 1 ∧
    NMap.get none u.dev.health.ring (s.dev.health.total % 1024) = some {
      code := 0x0106, severity := 1, rflags := 7, lcell := lcellCode c, pcell := physCode (phys s.dev c),
      clause := activeId (cellAt s.dev c), off := s.pc c, d0 := 0xFFFFFFFF, d1 := t % 2 ^ 32, beat := s.dev.beat.count } ∧
    (cellAt u.dev c).conj.regs = (f (cellAt s.dev c).conj).regs ∧ (cellAt u.dev c).conj.dmem = (f (cellAt s.dev c).conj).dmem ∧
    (cellAt u.dev c).stopped = true ∧ (∀ p, p ≠ phys s.dev c → cellP u.dev p = cellP s.dev p) ∧
    u.pending = s.pending ∧ u.otp = s.otp ∧ u.dev.sig = s.dev.sig ∧ u.dev.tiers = s.dev.tiers
/-- Instruction `i`, which reads and writes the registers `rs`, has the effect `f` on its core and nothing else, and goes on at the
next instruction; at the last word of the program control passes beyond it (R220-R225). -/
def Completes (s : State) (c : LCell) (i : Instr) (rs : List Reg) (f : Conj → Conj) : Prop :=
  (IssuesInside s c i rs → exec i s = .next (s.coreNext c f)) ∧
  (Issues s c i rs → progLen (cellAt s.dev c) ≤ s.pc c + 1 → PassesBeyond s c i (s.pc c + 1) f)
/-- `n` bytes of core `c`'s data store from `a` on, as a number, least significant byte first (R168). -/
def State.dataNat (s : State) (c : LCell) (a n : Nat) : Nat := leNat ((cellAt s.dev c).conj.dmem.rdN a n)

/-! ### Records -/

/-- Record `r` has entered the fault log between `s` and `t`, with the beat count of `s` (R477, R478). -/
def Recorded (s t : State) (r : FaultRec) : Prop :=
  t.dev.health.total = s.dev.health.total + 1 ∧
  NMap.get none t.dev.health.ring (s.dev.health.total % 1024) = some { r with beat := s.dev.beat.count }
/-- Record `r` has entered the fault log first between `s` and `t`; others may follow it in the same step. -/
def RecordedFirst (s t : State) (r : FaultRec) : Prop :=
  s.dev.health.total < t.dev.health.total ∧
  NMap.get none t.dev.health.ring (s.dev.health.total % 1024) = some { r with beat := s.dev.beat.count }
/-- The record of core `c`'s instruction at its program counter: clause-fatal, with both coordinates and the offset (R477). -/
def coreRecord (s : State) (c : LCell) (code d0 d1 : Nat) : FaultRec :=
  { code := code, severity := 1, rflags := 7, lcell := lcellCode c, pcell := physCode (phys s.dev c),
    clause := activeId (cellAt s.dev c), off := s.pc c, d0 := d0 % 2 ^ 32, d1 := d1 % 2 ^ 32 }

/-- A record that names logical cell `c`, with an instruction or descriptor offset or none (R477). -/
def recordAt (s : State) (c : LCell) (code sev clause : Nat) (off : Option Nat) (d0 d1 : Nat) : FaultRec :=
  { code := code, severity := sev, rflags := if off.isSome then 7 else 3, lcell := lcellCode c, pcell := physCode (phys s.dev c),
    clause := clause, off := off.getD 0, d0 := d0 % 2 ^ 32, d1 := d1 % 2 ^ 32 }
/-- A record that names no cell (R477). -/
def plainRecord (code sev clause d0 d1 : Nat) : FaultRec :=
  { code := code, severity := sev, clause := clause, d0 := d0 % 2 ^ 32, d1 := d1 % 2 ^ 32 }

/-- The fault log has grown from `a` to `b` by the records `rs`, in order: each stands in the ring at its number modulo 1,024, the
total counts them, and LAST_FATAL is the newest device-fatal one (R462, R478, R480). -/
def LogTakes (a b : Health) (rs : List FaultRec) : Prop :=
  b.total = a.total + rs.length ∧
  b.ring = rs.zipIdx.foldl (fun m x => NMap.set none m ((a.total + x.2) % 1024) (some x.1)) a.ring ∧
  b.last = ((rs.filter fun r => r.severity == 2).getLast?).or a.last
/-- The commands that reset the device or take its power (R518, R519). -/
def resets : Instr → Bool
  | .powerOnReset _ => true
  | .warmReset _ => true
  | .powerDown => true
  | _ => false

/-! ### Flits -/

/-- The flits in flight once the flit of a command has left the mesh (notes/assumptions/2). -/
def State.landed (s : State) (src dst : Src) (bs : List Body) : List Flit := (Machine.landed s.dev src dst bs).mesh.flits
/-- The flits of a command's message, one after the other, are the oldest of their sender to their receiver, and stand at its
router (R77; notes/assumptions/2). -/
def State.arrives (s : State) (src dst : Src) (bs : List Body) : Prop := arrived s.dev src dst bs = true
/-- One flit joins those of `fs`, from `src` to `dst` with content `b`. -/
def Injects (fs : List Flit) (t : State) (src dst : Src) (b : Body) : Prop :=
  ∃ x, t.dev.mesh.flits = fs ++ [x] ∧ x.src = src ∧ x.dst = dst ∧ x.body = b
/-- Several flits join those of `fs`, in this order. -/
def InjectsAll (fs : List Flit) (t : State) (l : List (Src × Src × Body)) : Prop :=
  ∃ xs, t.dev.mesh.flits = fs ++ xs ∧ xs.map (fun x => (x.src, x.dst, x.body)) = l

/-- Reply `b` of agent `a` to mover `id` is sent, beyond what device `u` has in flight: over the mover's own wires, or the mesh
(R318, R319). -/
def MemReplies (u : Dev) (t : State) (id : MoverId) (a : Src) (b : Body) : Prop :=
  if a = moverSrc id then t.dev.mesh.flits = u.mesh.flits ∧ t.dev.movers.wires = u.movers.wires ++ [(id, [b])]
  else t.dev.movers.wires = u.movers.wires ∧ Injects u.mesh.flits t a (moverSrc id) b
/-- The message `bs` is the oldest with its tag that mover `id` has sent, and has come to the agent `a`; `u` is the device
without it (R318, R319; notes/assumptions/2). -/
def State.asks (s : State) (id : MoverId) (p : Body → Bool) (bs : List Body) (a : Src) (u : Dev) : Prop :=
  takeMem s.dev id (fun f => decide (f.src = moverSrc id)) p = some (bs, a, u)
/-- The reply `b` has come to mover `id`; `u` is the device without it. -/
def State.replied (s : State) (id : MoverId) (p : Body → Bool) (b : Body) (u : Dev) : Prop :=
  ∃ a, takeMem s.dev id (fun f => decide (f.dst = moverSrc id)) p = some ([b], a, u)
/-- The message `bs` leaves mover `id` for the agent `a`, over its own wires or the mesh, and nothing else does (R318, R319). -/
def MemSends (s t : State) (id : MoverId) (a : Src) (bs : List Body) : Prop :=
  if a = moverSrc id then t.dev.mesh.flits = s.dev.mesh.flits ∧ t.dev.movers.wires = s.dev.movers.wires ++ [(id, bs)]
  else t.dev.movers.wires = s.dev.movers.wires ∧ InjectsAll s.dev.mesh.flits t (bs.map fun b => (moverSrc id, a, b))
/-- Nothing leaves: the flits and the wires are those of device `u`. -/
def Silent (u : Dev) (t : State) : Prop := t.dev.mesh.flits = u.mesh.flits ∧ t.dev.movers.wires = u.movers.wires
/-- A fabric frame of type `ty` with this result and payload has left port `p` or waits there for credit, room or a pause
(R379, R380, R382). -/
def FrameLeaves (t : State) (p ty result : Nat) (pay : List Byte) : Prop :=
  ∃ f : FFrame, f.ty = ty ∧ f.h.result = result ∧ f.pay = pay ∧ (f ∈ (fabPort t.dev p).waiting ∨ ∃ e, Tx.fabric p f e ∈ t.dev.tx)

/-! ### What stays -/

/-- Every cell but the one behind `c` is as it was. -/
def OtherCells (s t : State) (c : LCell) : Prop := t.dev.mesh = s.dev.mesh ∧ ∀ p, p ≠ phys s.dev c → cellP t.dev p = cellP s.dev p
/-- No cell but the one behind `c` has changed; flits may have been sent. -/
def CellsBut (s t : State) (c : LCell) : Prop := ∀ p, p ≠ phys s.dev c → cellP t.dev p = cellP s.dev p
/-- The memories outside the cells, the signals, the movers, the schedule, the epochs, the ports and one-time-programmable
memory are as they were. -/
def OutsideCells (s t : State) : Prop :=
  t.pending = s.pending ∧ t.otp = s.otp ∧ t.dev.beat = s.dev.beat ∧ t.dev.sig = s.dev.sig ∧ t.dev.tiers = s.dev.tiers ∧
  t.dev.epoch = s.dev.epoch ∧ t.dev.movers = s.dev.movers ∧ t.dev.ports = s.dev.ports ∧ t.dev.config = s.dev.config ∧
  t.dev.sec = s.dev.sec ∧ t.dev.power = s.dev.power

/-- The cell behind `c` becomes `y`, and the map of cells has no other change. -/
def Becomes (s t : State) (c : LCell) (y : Cell) : Prop := t.dev.cells = NMap.set {} s.dev.cells (phys s.dev c) y
/-- The fault log is as it was. -/
def NoRecord (s t : State) : Prop := t.dev.health = s.dev.health

/-- The registers and memories are in canonical form: the map of cells and each cell's registers, data store, Noun banks and saved
data stores, the memory outside the cells, and the signal words. -/
def Canonical (d : Dev) : Prop :=
  NMap.wf {} d.cells = true ∧ d.tiers.mem.wf = true ∧ NMap.wf {} d.sig.words = true ∧
  ∀ p, let x := cellP d p
    NMap.wf 0 x.conj.regs = true ∧ x.conj.dmem.wf = true ∧ x.noun.mem.wf = true ∧ ∀ e ∈ x.slots, ∀ m ∈ e.2.saved, m.wf = true

/-! ### Senders and completion signals -/

/-- A sender that exists: a cell that holds a slot, or a mover with a running request (R272). -/
def SenderHere (s : State) : Src → Prop
  | .cell c => (cellAt s.dev c).slots ≠ []
  | src => ∃ id r, srcMover src = some id ∧ moverRun s.dev (moverKey id) = some r
/-- The completion signal `sig` of the descriptor at offset `off` is raised: an ADD of 1 leaves for the store of its word
(R197). -/
def Raises (s t : State) (c : LCell) (cl : Clause) (off sig : Nat) : Prop :=
  (∀ f w, signalPlace cl sig = some (f, w) →
    Injects s.dev.mesh.flits t (.cell c) (.store f) (.sigOp .add { src := .cell c, frame := f, word := w, v := 1, clause := cl.id, off := off })) ∧
  (signalPlace cl sig = none → t.dev.mesh.flits = s.dev.mesh.flits)

/-! ### Requests of the host -/

/-- Request `r` on index `idx` comes from the source of its open session `q` to an address in use and finds a place in the queue; it
is not that session's last one again, and no request of the session to that index waits (R373, R432, R433, R437, R439). -/
def Admitted (s : State) (r : Req) (idx : Nat) (q : Session) : Prop :=
  hostHears s.otp s.dev r.port r.dst false = true ∧ queueRoom 1 r s.dev = true ∧ r.session ≠ 0 ∧ sessionOf s.dev r.session = some q ∧
  q.ip = r.ip ∧ q.udp = r.udp ∧ q.lastSeq ≠ some r.seq ∧ (∀ x ∈ s.dev.sig.sent, ∀ w ∈ x.why.req, w.session = r.session → w.index ≠ idx) ∧
  ∀ w ∈ s.dev.beluf.deferred, w.req.session = r.session → w.req.index ≠ idx
/-- Request `r` is one of session 0 on index `idx` that its source has not sent before, to an address in use; it finds a place in the
queue, and none of session 0 to that index waits (R373, R432, R433, R437). No open session has ID 0 (R438). -/
def AdmittedZero (s : State) (r : Req) (idx : Nat) : Prop :=
  hostHears s.otp s.dev r.port r.dst false = true ∧ queueRoom 1 r s.dev = true ∧ r.session = 0 ∧
  (∀ y ∈ s.dev.beluf.sessions, y.id ≠ 0) ∧ (∀ z ∈ s.dev.beluf.zero, ¬(z.ip = r.ip ∧ z.udp = r.udp ∧ z.lastSeq = some r.seq)) ∧
  (∀ x ∈ s.dev.sig.sent, ∀ w ∈ x.why.req, w.session = 0 → w.index ≠ idx) ∧
  ∀ w ∈ s.dev.beluf.deferred, w.req.session = 0 → w.req.index ≠ idx
/-- The device as a request of an open session is performed: it has taken its place in the queue (R433, R439). -/
def State.noted (s : State) (r : Req) : Dev := Machine.arrives r s.dev
/-- No signature operation waits for the security engine (R498). -/
def State.engineFree (s : State) : Prop := ∀ w ∈ s.dev.beluf.deferred, signs w.op w.req = false
/-- The reply to request `r` of opcode `op` is the last frame that has been sent: it echoes SEQ, SESSION, INDEX and SUB (R429,
R431, R432). -/
def Replies (t : State) (r : Req) (op idx sub st : Nat) (data : List Byte) : Prop :=
  t.dev.tx.head? = some (.host r.port r.ip r.udp (belufFrame op r.seq r.session idx sub st 1 data) (hostEther t.dev r.port r.mac) t.dev.ports.belufUdp)
/-- Command `i` goes on with a reply, and to a state of which `P` holds. -/
def Served (i : Instr) (s : State) (r : Req) (op idx sub st : Nat) (data : List Byte) (P : State → Prop) : Prop :=
  ∃ t, exec i s = .next t ∧ Replies t r op idx sub st data ∧ P t
/-- Command `i` hands its request off, and BELUF_DEFERRED_REPLY then answers it, which leaves a state of which `P` holds (R433). -/
def ServedLater (i : Instr) (s : State) (r : Req) (op idx sub st : Nat) (data : List Byte) (P : State → Prop) : Prop :=
  ∃ u t h, exec i s = .next u ∧ u.pending = s.pending ∧ u.otp = s.otp ∧ u.dev = { s.noted r with beluf := { (s.noted r).beluf with deferred := s.dev.beluf.deferred ++ [h] } } ∧
    h.op = op ∧ { h.req with data := r.data } = onObject idx sub r ∧
    exec (.belufDeferredReply s.dev.beluf.deferred.length) u = .next t ∧ Replies t r op idx sub st data ∧
    t.dev.beluf.deferred = s.dev.beluf.deferred ∧ P t
/-- Nothing has changed but Beluf's own records and what has been sent. -/
def OnlyAnswers (s t : State) : Prop :=
  t.pending = s.pending ∧ t.otp = s.otp ∧ t.dev = { s.dev with beluf := t.dev.beluf, tx := t.dev.tx }
/-- A COMMAND on object `idx` is answered with the handle of a new operation in slot `k`, of which `P` holds besides (R450). -/
def Starts (i : Instr) (s : State) (r : Req) (idx k : Nat) (P : State → Prop) : Prop :=
  ∃ t, exec i s = .next t ∧ Replies t r 3 idx 0 0 (beBytes 2 (opHandle t.dev k)) ∧ (opOf t.dev k).index = idx ∧ P t
/-- Different cells of a list stand at different physical places, as the remap table has it (R71). -/
def State.cellsApart (s : State) (cs : List LCell) : Prop := (cs.map (phys s.dev)).Nodup

/-! ### One-time-programmable memory -/

/-- An image-signing slot goes on from one state to the next, or stays: a revoked slot keeps its key (R502). -/
def SlotGains (a b : SignSlot) : Prop :=
  a = b ∨ (a.st = .empty ∧ b.st = .valid) ∨ (a.st = .valid ∧ b = { a with st := .revoked })
/-- Nothing that stands in `a` has been taken back in `b` (R494, R502, R505). -/
def OtpGains (a b : Otp) : Prop :=
  b.ordering = a.ordering ∧ b.stepping = a.stepping ∧ b.uniqueId = a.uniqueId ∧ b.macBase = a.macBase ∧ b.cert = a.cert ∧
  b.slots.length = a.slots.length ∧ (∀ k, SlotGains (a.slot k) (b.slot k)) ∧ b.certSound = a.certSound ∧ b.broken = a.broken ∧
  b.ownerSlots ≤ a.ownerSlots ∧ (∃ l, b.retired = a.retired ++ l) ∧
  (b.owner = a.owner ∨ (∀ x ∈ a.owner, x = 0) ∨ b.ownerSlots < a.ownerSlots)
/-- Eight image-signing slots, at most four uses of the owner's slots left, and a retirement map of at most 32,768 entries (R494,
R502, R505). -/
def OtpShape (o : Otp) : Prop := o.slots.length = 8 ∧ o.ownerSlots ≤ 4 ∧ o.retired.length ≤ 32768

end Sys2Proof.Machine
end

