-- ==== Sys2Proof/Certificates/Slice0/Obligations.lean ====
section
/-! DEFINITION. The statements for the provers, in the order of OBLIGATIONS.json. -/
open Sys2Proof Sys2Proof.Machine

/-! ### Conjunction instructions -/

/-- R220, R225: each instruction of the register ALU group writes its result and nothing else, and goes on at the next, or
beyond the program from its last word. -/
def Obligations.RegisterAluGroupResults : Prop :=
  ∀ (c : LCell) (a b d : Reg) (s : State),
    let u := regAt s.dev c a
    let w := regAt s.dev c b
    let n := w.toNat % 256
    let run (i : Instr) (v : W64) : Prop := Completes s c i [a, b, d] fun k => k.setReg d v
    run (.add c a b d) (BitVec.ofNat 64 (u.toNat + w.toNat)) ∧
    run (.sub c a b d) (BitVec.ofInt 64 (u.toInt - w.toInt)) ∧
    run (.and c a b d) (u &&& w) ∧
    run (.ior c a b d) (u ||| w) ∧
    run (.xor c a b d) (u ^^^ w) ∧
    run (.lsl c a b d) (if n < 64 then BitVec.ofNat 64 (u.toNat * 2 ^ n) else 0) ∧
    run (.lsr c a b d) (if n < 64 then BitVec.ofNat 64 (u.toNat / 2 ^ n) else 0) ∧
    run (.asr c a b d) (if n < 64 then BitVec.ofInt 64 (u.toInt / 2 ^ n) else if u.msb then BitVec.allOnes 64 else 0) ∧
    run (.lts c a b d) (if u.toInt < w.toInt then 1 else 0) ∧
    run (.ltu c a b d) (if u.toNat < w.toNat then 1 else 0) ∧
    run (.mins c a b d) (if u.toInt ≤ w.toInt then u else w) ∧
    run (.maxs c a b d) (if u.toInt ≤ w.toInt then w else u) ∧
    run (.minu c a b d) (if u.toNat ≤ w.toNat then u else w) ∧
    run (.maxu c a b d) (if u.toNat ≤ w.toNat then w else u) ∧
    run (.mullo c a b d) (BitVec.ofNat 64 (u.toNat * w.toNat)) ∧
    run (.mulhs c a b d) (BitVec.ofInt 64 (u.toInt * w.toInt / 2 ^ 64)) ∧
    run (.mulhu c a b d) (BitVec.ofNat 64 (u.toNat * w.toNat / 2 ^ 64))

/-- R221: the quotients and remainders, in every case; a = q * b + r modulo 2^64. -/
def Obligations.DivisionNeverFaults : Prop :=
  ∀ (c : LCell) (a b d : Reg) (s : State),
    let u := regAt s.dev c a
    let w := regAt s.dev c b
    let ovf := u = 0x8000000000000000#64 ∧ w = 0xFFFFFFFFFFFFFFFF#64
    let qs : W64 := if w = 0 then 0 else if ovf then 0x7FFFFFFFFFFFFFFF#64 else BitVec.ofInt 64 (u.toInt.tdiv w.toInt)
    let rs : W64 := if w = 0 then u else if ovf then 0xFFFFFFFFFFFFFFFF#64 else BitVec.ofInt 64 (u.toInt.tmod w.toInt)
    let qu : W64 := if w = 0 then 0 else BitVec.ofNat 64 (u.toNat / w.toNat)
    let ru : W64 := if w = 0 then u else BitVec.ofNat 64 (u.toNat % w.toNat)
    let run (i : Instr) (v : W64) : Prop := Completes s c i [a, b, d] fun k => k.setReg d v
    run (.quos c a b d) qs ∧ run (.rmds c a b d) rs ∧ run (.quou c a b d) qu ∧ run (.rmdu c a b d) ru ∧
    u = qs * w + rs ∧ u = qu * w + ru

/-- R222: the constant instructions. -/
def Obligations.ConstantInstructionResults : Prop :=
  ∀ (c : LCell) (a d : Reg) (imm : BitVec 16) (k : BitVec 21) (s : State),
    let u := regAt s.dev c a
    let sxi : W64 := BitVec.ofInt 64 imm.toInt
    let zxi : W64 := BitVec.ofNat 64 imm.toNat
    let n := imm.toNat % 256
    let run (i : Instr) (rs : List Reg) (v : W64) : Prop := Completes s c i rs fun k => k.setReg d v
    run (.addk c a d imm) [a, d] (u + sxi) ∧
    run (.andk c a d imm) [a, d] (u &&& zxi) ∧
    run (.iork c a d imm) [a, d] (u ||| zxi) ∧
    run (.xork c a d imm) [a, d] (u ^^^ zxi) ∧
    run (.ltsk c a d imm) [a, d] (if u.toInt < imm.toInt then 1 else 0) ∧
    run (.ltuk c a d imm) [a, d] (if u.toNat < imm.toNat then 1 else 0) ∧
    run (.lslk c a d imm) [a, d] (if n < 64 then BitVec.ofNat 64 (u.toNat * 2 ^ n) else 0) ∧
    run (.lsrk c a d imm) [a, d] (if n < 64 then BitVec.ofNat 64 (u.toNat / 2 ^ n) else 0) ∧
    run (.asrk c a d imm) [a, d] (if n < 64 then BitVec.ofInt 64 (u.toInt / 2 ^ n) else if u.msb then BitVec.allOnes 64 else 0) ∧
    run (.ksh c a d imm) [a, d] (BitVec.ofNat 64 (u.toNat * 2 ^ 16) ||| zxi) ∧
    run (.kld c d k) [d] (BitVec.ofInt 64 k.toInt)

/-- R223: a load at an aligned address of the data store writes its register; the bytes are little-endian. -/
def Obligations.LoadsWriteTheirRegister : Prop :=
  ∀ (c : LCell) (a d : Reg) (imm : BitVec 16) (s : State),
    let addr := (regAt s.dev c a + BitVec.ofInt 64 imm.toInt).toNat
    let run (i : Instr) (size : Nat) (v : W64) : Prop :=
      addr < 65536 → addr % size = 0 → Completes s c i [a, d] fun k => k.setReg d v
    run (.ld8s c a d imm) 1 (BitVec.ofInt 64 (BitVec.ofNat 8 (s.dataNat c addr 1)).toInt) ∧
    run (.ld8u c a d imm) 1 (BitVec.ofNat 64 (s.dataNat c addr 1)) ∧
    run (.ld16s c a d imm) 2 (BitVec.ofInt 64 (BitVec.ofNat 16 (s.dataNat c addr 2)).toInt) ∧
    run (.ld16u c a d imm) 2 (BitVec.ofNat 64 (s.dataNat c addr 2)) ∧
    run (.ld32s c a d imm) 4 (BitVec.ofInt 64 (BitVec.ofNat 32 (s.dataNat c addr 4)).toInt) ∧
    run (.ld32u c a d imm) 4 (BitVec.ofNat 64 (s.dataNat c addr 4)) ∧
    run (.ld64 c a d imm) 8 (BitVec.ofNat 64 (s.dataNat c addr 8))

/-- R223: a store at an aligned address writes the low bytes of its register there, least significant first; every byte of the
data store outside them, every register and every other cell read as before. -/
def Obligations.StoresWriteTheirBytes : Prop :=
  ∀ (c : LCell) (a r : Reg) (imm : BitVec 16) (s : State),
    let addr := (regAt s.dev c a + BitVec.ofInt 64 imm.toInt).toNat
    let run (i : Instr) (size : Nat) : Prop :=
      let put (k : Conj) : Conj := { k with dmem := k.dmem.wrN addr (leBytes size (regAt s.dev c r).toNat) }
      addr < 65536 → addr % size = 0 →
      (Issues s c i [a, r] → progLen (cellAt s.dev c) ≤ s.pc c + 1 → PassesBeyond s c i (s.pc c + 1) put) ∧
      (IssuesInside s c i [a, r] → ∃ t, exec i s = .next t ∧ t = s.coreNext c put ∧
        (∀ x, x < addr ∨ addr + size ≤ x → (cellAt t.dev c).conj.dmem.rd x = (cellAt s.dev c).conj.dmem.rd x) ∧
        (∀ g, regAt t.dev c g = regAt s.dev c g) ∧ OtherCells s t c ∧ OutsideCells s t)
    run (.st8 c a r imm) 1 ∧ run (.st16 c a r imm) 2 ∧ run (.st32 c a r imm) 4 ∧ run (.st64 c a r imm) 8

/-- R174, R223: a load or store whose address leaves the data store or is not aligned records DATA_ADDRESS and changes no
register and no byte; the core stops. -/
def Obligations.DataAddressFault : Prop :=
  ∀ (c : LCell) (a d : Reg) (imm : BitVec 16) (s : State),
    let addr := (regAt s.dev c a + BitVec.ofInt 64 imm.toInt).toNat
    let bad (i : Instr) (size : Nat) : Prop :=
      Issues s c i [a, d] → (65536 ≤ addr ∨ addr % size ≠ 0) →
      ∃ t, exec i s = .next t ∧ Recorded s t (coreRecord s c 0x0107 addr 0) ∧
        (cellAt t.dev c).stopped = true ∧ (∀ g, regAt t.dev c g = regAt s.dev c g) ∧
        (cellAt t.dev c).conj.dmem = (cellAt s.dev c).conj.dmem ∧ OtherCells s t c ∧ OutsideCells s t
    bad (.ld8s c a d imm) 1 ∧ bad (.ld8u c a d imm) 1 ∧ bad (.ld16s c a d imm) 2 ∧ bad (.ld16u c a d imm) 2 ∧
    bad (.ld32s c a d imm) 4 ∧ bad (.ld32u c a d imm) 4 ∧ bad (.ld64 c a d imm) 8 ∧
    bad (.st8 c a d imm) 1 ∧ bad (.st16 c a d imm) 2 ∧ bad (.st32 c a d imm) 4 ∧ bad (.st64 c a d imm) 8

/-- R224: branches, calls and jumps inside the program. -/
def Obligations.ControlTransferTargets : Prop :=
  ∀ (c : LCell) (a b d : Reg) (off : BitVec 16) (imm : BitVec 21) (s : State),
    let pc := s.pc c
    let len := progLen (cellAt s.dev c)
    let u := regAt s.dev c a
    let w := regAt s.dev c b
    let link : W64 := BitVec.ofNat 64 (pc + 1)
    let near := (BitVec.ofNat 64 pc + BitVec.ofInt 64 off.toInt).toNat
    let far := (BitVec.ofNat 64 pc + BitVec.ofInt 64 imm.toInt).toNat
    let ind := (u + BitVec.ofInt 64 off.toInt).toNat
    let branch (i : Instr) (p : Prop) : Prop :=
      Issues s c i [a, b] → (p → near < len → exec i s = .next (s.coreAt c near id)) ∧
        (¬p → pc + 1 < len → exec i s = .next (s.coreNext c id))
    branch (.jeq c a b off) (u = w) ∧ branch (.jne c a b off) (u ≠ w) ∧
    branch (.jlts c a b off) (u.toInt < w.toInt) ∧ branch (.jges c a b off) (w.toInt ≤ u.toInt) ∧
    branch (.jltu c a b off) (u.toNat < w.toNat) ∧ branch (.jgeu c a b off) (w.toNat ≤ u.toNat) ∧
    (Issues s c (.call c d imm) [d] → far < len → exec (.call c d imm) s = .next (s.coreAt c far fun k => k.setReg d link)) ∧
    (Issues s c (.jmpr c a d off) [a, d] → ind < len → exec (.jmpr c a d off) s = .next (s.coreAt c ind fun k => k.setReg d link)) ∧
    (Issues s c (.jdnz c a off) [a] →
      (u ≠ 1 → near < len → exec (.jdnz c a off) s = .next (s.coreAt c near fun k => k.setReg a (u - 1))) ∧
      (u = 1 → pc + 1 < len → exec (.jdnz c a off) s = .next (s.coreNext c fun k => k.setReg a (u - 1))))

/-- R174, R219, R225: control that passes beyond the program completes the transfer, link write and count included, and
records ILLEGAL_INSTRUCTION with the offset of the transferring instruction and the target: branches taken and not taken,
CALL, JMPR, JDNZ, and the waits, receives, sends and system instructions that complete at the program's last word. The
fetch of a word with no defined encoding records it with the word. -/
def Obligations.IllegalInstructionsRecord : Prop :=
  ∀ (c : LCell) (a b dl d e : Reg) (off : BitVec 16) (imm : BitVec 21) (w : W32) (s : State),
    let x := cellAt s.dev c
    let pc := s.pc c
    let len := progLen x
    let u := regAt s.dev c a
    let v := regAt s.dev c b
    let link : W64 := BitVec.ofNat 64 (pc + 1)
    let near := (BitVec.ofNat 64 pc + BitVec.ofInt 64 off.toInt).toNat
    let far := (BitVec.ofNat 64 pc + BitVec.ofInt 64 imm.toInt).toNat
    let ind := (u + BitVec.ofInt 64 off.toInt).toNat
    let branch (i : Instr) (p : Prop) : Prop :=
      Issues s c i [a, b] → (p → len ≤ near → PassesBeyond s c i near id) ∧ (¬p → len ≤ pc + 1 → PassesBeyond s c i (pc + 1) id)
    let last (i : Instr) (f : Conj → Conj) : Prop := len ≤ pc + 1 → PassesBeyond s c i (pc + 1) f
    let take (m : List Byte) (tag : Nat) (k : Conj) : Conj := ((k.copyLine u.toNat m).setReg d (BitVec.ofNat 64 tag)).setReg e 0
    branch (.jeq c a b off) (u = v) ∧ branch (.jne c a b off) (u ≠ v) ∧
    branch (.jlts c a b off) (u.toInt < v.toInt) ∧ branch (.jges c a b off) (v.toInt ≤ u.toInt) ∧
    branch (.jltu c a b off) (u.toNat < v.toNat) ∧ branch (.jgeu c a b off) (v.toNat ≤ u.toNat) ∧
    (Issues s c (.call c d imm) [d] → len ≤ far → PassesBeyond s c (.call c d imm) far fun k => k.setReg d link) ∧
    (Issues s c (.jmpr c a d off) [a, d] → len ≤ ind → PassesBeyond s c (.jmpr c a d off) ind fun k => k.setReg d link) ∧
    (Issues s c (.jdnz c a off) [a] →
      (u ≠ 1 → len ≤ near → PassesBeyond s c (.jdnz c a off) near fun k => k.setReg a (u - 1)) ∧
      (u = 1 → last (.jdnz c a off) fun k => k.setReg a (u - 1))) ∧
    (Issues s c (.nop c) [] → last (.nop c) id) ∧
    (Issues s c (.sync c) [] → x.sends = [] → x.conj.launch = none → x.conj.sigs = [] → last (.sync c) id) ∧
    (Issues s c (.bwait c a dl d) [a, dl, d] → u.toNat ≤ s.dev.beat.count → last (.bwait c a dl d) fun k => k.setReg d 0) ∧
    (Issues s c (.mbpop c a dl d e) [a, dl, d, e] → u.toNat < 65536 → u.toNat % 64 = 0 → ∀ m rest, x.conj.mbox = m :: rest →
      last (.mbpop c a dl d e) (take m (fld m 0 2))) ∧
    (Issues s c (.mbtake c a b dl d e) [a, b, dl, d, e] → u.toNat < 65536 → u.toNat % 64 = 0 → ∀ m rest, x.conj.mbox = m :: rest →
      fld m 0 2 = v.toNat % 65536 → last (.mbtake c a b dl d e) (take m (fld m 0 2))) ∧
    (Issues s c (.qrecv c a b dl d .good) [a, b, dl, d] →
      let q := u.toNat % 64
      qPort (activeData x) q = 10 → qGrouped (activeData x) q = false → qComb (activeData x) q = false → v.toNat < 65536 → v.toNat % 64 = 0 →
      (queueOf x q).st = .open → ∀ m rest, (queueOf x q).entries = m :: rest →
      last (.qrecv c a b dl d .good) fun k => (k.copyLine v.toNat m.pay).setReg d 0) ∧
    (coreRuns s.dev c = true → fetched s.dev c = some (.undefinedEncoding c w) →
      ∃ t, exec (.undefinedEncoding c w) s = .next t ∧ Recorded s t (coreRecord s c 0x0106 w.toNat 0) ∧
        (cellAt t.dev c).stopped = true ∧ (cellAt t.dev c).conj.regs = x.conj.regs ∧ OtherCells s t c ∧ OutsideCells s t)

/-- R170, R182, R226: the cell-state words, the beat count, and the phase as the fraction of the beat that has passed, which
the model counts in cycles of 1.05 GHz (its choice, notes/assumptions/3). -/
def Obligations.CellStateAndTimeReads : Prop :=
  ∀ (c : LCell) (d : Reg) (imm : BitVec 16) (cl : Clause) (s : State),
    activeClause s.dev c = some cl →
    let row := c.row - 4 * cl.orow
    let col := c.col - 4 * cl.ocol
    let words : List Nat :=
      [row * 2 ^ 32 + col * 2 ^ 16 + (c.row / 4 * 16 + c.col / 4), cl.benchRows * 256 + cl.benchCols, cl.slot * 2 ^ 16 + cl.id,
       row / 4 * cl.benchCols + col / 4, (cellAt s.dev c).conj.mbox.length, s.dev.beat.period, cl.signals, 0]
    let reads (i : Instr) (n : Nat) : Prop := Completes s c i [d] fun k => k.setReg d (BitVec.ofNat 64 n)
    reads (.cstate c d imm) (words.getD (imm.toNat % 8) 0) ∧ reads (.beat c d) s.dev.beat.count ∧
    reads (.phaseRead c d) (min 0xFFFF (s.dev.beat.cyc * 2 ^ 16 / max 1 (s.dev.beat.period * 21 / 20)))

/-- R181, R184, R227, R235, R237: BWAIT, MBPOP, MBTAKE and SYNC complete at issue where their condition holds, with result 0
and their effect; where it does not and the deadline has come they complete with result 1 and do nothing else; else the
core waits. MBPOP and MBTAKE free their entry and copy its 64 B; an address that leaves the data store or is not aligned
to 64 B records DATA_ADDRESS. Nothing outside the core's cell changes but the flits in flight (RESUME goes to a waiting
sender). Only the order of the steps is modelled, not their cycles (notes/assumptions/4). -/
def Obligations.BlockingInstructionsAtIssue : Prop :=
  ∀ (c : LCell) (a b dl d e : Reg) (s : State),
    let x := cellAt s.dev c
    let k := x.conj
    let u := regAt s.dev c a
    let w := regAt s.dev c b
    let late := regAt s.dev c dl ≠ 0 ∧ (regAt s.dev c dl).toNat ≤ s.dev.beat.count
    let waits (i : Instr) (x : Wait) (r : Reg) : Prop :=
      exec i s = .next (s.withCore c fun k => { k with st := .waiting x (regAt s.dev c dl) r, stall := none })
    let aligned := u.toNat < 65536 ∧ u.toNat % 64 = 0
    let takes (i : Instr) (m : List Byte) (rest : List (List Byte)) (tag : Nat) : Prop :=
      ∃ t, exec i s = .next t ∧
        (cellAt t.dev c).conj =
          ((({ k.copyLine u.toNat m with mbox := rest } : Conj).setReg d (BitVec.ofNat 64 tag)).setReg e 0).goTo (k.pc + 1) ∧
        CellsBut s t c ∧ OutsideCells s t ∧ NoRecord s t
    let misplaced (i : Instr) : Prop :=
      ¬aligned → ∃ t, exec i s = .next t ∧ Recorded s t (coreRecord s c 0x0107 u.toNat 0) ∧ (cellAt t.dev c).conj.mbox = k.mbox ∧
        (cellAt t.dev c).conj.dmem = k.dmem ∧ (cellAt t.dev c).conj.regs = k.regs ∧ (cellAt t.dev c).stopped = true ∧ OtherCells s t c
    (IssuesInside s c (.bwait c a dl d) [a, dl, d] →
      (u.toNat ≤ s.dev.beat.count → exec (.bwait c a dl d) s = .next (s.wrote c d 0)) ∧
      (s.dev.beat.count < u.toNat → late → exec (.bwait c a dl d) s = .next (s.wrote c d 1)) ∧
      (s.dev.beat.count < u.toNat → ¬late → waits (.bwait c a dl d) (.beat u) d)) ∧
    (IssuesInside s c (.mbpop c a dl d e) [a, dl, d, e] →
      (aligned → ∀ m rest, k.mbox = m :: rest → takes (.mbpop c a dl d e) m rest (fld m 0 2)) ∧
      (aligned → k.mbox = [] → late → exec (.mbpop c a dl d e) s = .next (s.wrote c e 1)) ∧
      (aligned → k.mbox = [] → ¬late → waits (.mbpop c a dl d e) (.mbox u d e) e) ∧ misplaced (.mbpop c a dl d e)) ∧
    (IssuesInside s c (.mbtake c a b dl d e) [a, b, dl, d, e] →
      let tag := w.toNat % 65536
      (aligned → ∀ m l1 l2, k.mbox = l1 ++ m :: l2 → fld m 0 2 = tag → (∀ y ∈ l1, fld y 0 2 ≠ tag) →
        takes (.mbtake c a b dl d e) m (l1 ++ l2) tag) ∧
      (aligned → (∀ y ∈ k.mbox, fld y 0 2 ≠ tag) → late → exec (.mbtake c a b dl d e) s = .next (s.wrote c e 1)) ∧
      (aligned → (∀ y ∈ k.mbox, fld y 0 2 ≠ tag) → ¬late → waits (.mbtake c a b dl d e) (.mboxTag u tag d e) e) ∧
      misplaced (.mbtake c a b dl d e)) ∧
    (IssuesInside s c (.sync c) [] →
      x.sends = [] → k.launch = none → k.sigs = [] → exec (.sync c) s = .next (s.coreNext c id)) ∧
    (Issues s c (.sync c) [] →
      (x.sends ≠ [] ∨ k.launch ≠ none ∨ k.sigs ≠ []) →
      exec (.sync c) s = .next (s.withCore c fun k => { k with st := .waiting .sync 0 0, stall := none }))

/-- R181, R227, R232, R233, R259: QRECV names a queue of its own cell bound to port D; it copies the head entry to the data
store and frees it; a corrected error is counted, and an entry with a double-bit error is discarded and recorded instead
and the core waits on. Where the queue is empty the instruction completes with result 1 at its deadline, or waits. -/
def Obligations.QueueReceiveTakesTheHead : Prop :=
  ∀ (c : LCell) (a b dl d : Reg) (ecc : Ecc) (s : State),
    let x := cellAt s.dev c
    let q := (regAt s.dev c a).toNat % 64
    let addr := (regAt s.dev c b).toNat
    let late := regAt s.dev c dl ≠ 0 ∧ (regAt s.dev c dl).toNat ≤ s.dev.beat.count
    let i : Instr := .qrecv c a b dl d ecc
    let wait : Core := .waiting (.queue q (regAt s.dev c b)) (regAt s.dev c dl) d
    let plain := qPort (activeData x) q = 10 ∧ qGrouped (activeData x) q = false ∧ qComb (activeData x) q = false ∧ addr < 65536 ∧ addr % 64 = 0
    (IssuesInside s c (.qrecv c a b dl d .good) [a, b, dl, d] → plain → (queueOf x q).st = .open →
      ∀ m rest, (queueOf x q).entries = m :: rest →
      (ecc ≠ .upset → ∃ t, exec i s = .next t ∧ NoRecord s t ∧
        (cellAt t.dev c).conj = ((x.conj.copyLine addr m.pay).setReg d 0).goTo (x.conj.pc + 1) ∧
        queueOf (cellAt t.dev c) q = { queueOf x q with entries := rest } ∧
        (cellAt t.dev c).win.queueCorrected = (if ecc = .corrected then min (2 ^ 32 - 1) (x.win.queueCorrected + 1) else x.win.queueCorrected)) ∧
      (ecc = .upset → ¬late → ∃ t, exec i s = .next t ∧ Recorded s t (recordAt s c 0x0306 1 (activeId x) none q 0) ∧
        (cellAt t.dev c).conj = { x.conj with st := wait, stall := none } ∧
        queueOf (cellAt t.dev c) q = { queueOf x q with entries := rest })) ∧
    (IssuesInside s c (.qrecv c a b dl d .good) [a, b, dl, d] → plain → (queueOf x q).entries = [] →
      (late → exec i s = .next (s.wrote c d 1)) ∧
      (¬late → exec i s = .next (s.withCore c fun k => { k with st := wait, stall := none }))) ∧
    (Issues s c (.qrecv c a b dl d .good) [a, b, dl, d] → qPort (activeData x) q ≠ 10 →
      ∃ t, exec i s = .next t ∧ Recorded s t (coreRecord s c 0x0303 q 0) ∧ (cellAt t.dev c).queues = x.queues) ∧
    (Issues s c (.qrecv c a b dl d .good) [a, b, dl, d] → qPort (activeData x) q = 10 → (65536 ≤ addr ∨ addr % 64 ≠ 0) →
      ∃ t, exec i s = .next t ∧ Recorded s t (coreRecord s c 0x0107 addr 0) ∧ (cellAt t.dev c).queues = x.queues)

/-- R181, R227, R233, R305, R310: a waiting core completes with result 0 when its condition comes to hold, with result 1 at
its deadline, be it of a BWAIT, a mailbox wait with or without a TAG, or a queue wait; a signal wait sends CANCEL at its
deadline and waits for the reply; one whose WAKE came while its cell was held completes when the cell goes on. -/
def Obligations.WaitingCoresComplete : Prop :=
  ∀ (c : LCell) (ecc : Ecc) (dl : W64) (r : Reg) (s : State),
    let k := (cellAt s.dev c).conj
    let x := cellAt s.dev c
    let free := cellOk c = true ∧ s.dev.ctl.state = .running ∧ x.stopped = false ∧ x.fence = .none ∧ k.pc + 1 < progLen x
    let done (v : W64) : State := s.coreNext c fun k => { k.setReg r v with st := .running }
    (∀ n, free → k.st = .waiting (.beat n) dl r → n.toNat ≤ s.dev.beat.count → exec (.blockingWaitResume c ecc) s = .next (done 0)) ∧
    (∀ u g m rest, free → k.st = .waiting (.mbox u g r) dl r → k.mbox = m :: rest →
      ∃ t, exec (.blockingWaitResume c ecc) s = .next t ∧
        (cellAt t.dev c).conj =
          ((({ k.copyLine u.toNat m with mbox := rest, st := .running } : Conj).setReg g (BitVec.ofNat 64 (fld m 0 2))).setReg r 0).goTo (k.pc + 1)) ∧
    (∀ u tag g m l1 l2, free → k.st = .waiting (.mboxTag u tag g r) dl r → k.mbox = l1 ++ m :: l2 → fld m 0 2 = tag → (∀ y ∈ l1, fld y 0 2 ≠ tag) →
      ∃ t, exec (.blockingWaitResume c ecc) s = .next t ∧
        (cellAt t.dev c).conj =
          ((({ k.copyLine u.toNat m with mbox := l1 ++ l2, st := .running } : Conj).setReg g (BitVec.ofNat 64 tag)).setReg r 0).goTo (k.pc + 1)) ∧
    (∀ q u m rest, free → k.st = .waiting (.queue q u) dl r → ecc ≠ .upset → qGrouped (activeData x) q = false →
      qComb (activeData x) q = false → (queueOf x q).st = .open → (queueOf x q).entries = m :: rest →
      ∃ t, exec (.blockingWaitResume c ecc) s = .next t ∧
        (cellAt t.dev c).conj = (({ k.copyLine u.toNat m.pay with st := .running } : Conj).setReg r 0).goTo (k.pc + 1) ∧
        queueOf (cellAt t.dev c) q = { queueOf x q with entries := rest }) ∧
    (free → k.st = .waiting .sync dl r → x.sends = [] → k.launch = none → k.sigs = [] →
      exec (.blockingWaitResume c ecc) s = .next (done 0)) ∧
    (∀ f w v cond cx ab, free → k.st = .waiting (.signal f w v cond cx ab true) dl r →
      exec (.blockingWaitResume c ecc) s = .next (done 0)) ∧
    (∀ n, free → k.st = .waiting (.beat n) dl r → s.dev.beat.count < n.toNat → dl ≠ 0 → dl.toNat ≤ s.dev.beat.count →
      exec (.waitDeadline c) s = .next (done 1)) ∧
    (∀ u g, free → k.st = .waiting (.mbox u g r) dl r → k.mbox = [] → dl ≠ 0 → dl.toNat ≤ s.dev.beat.count →
      exec (.waitDeadline c) s = .next (done 1)) ∧
    (∀ u tag g, free → k.st = .waiting (.mboxTag u tag g r) dl r → (∀ y ∈ k.mbox, fld y 0 2 ≠ tag) → dl ≠ 0 → dl.toNat ≤ s.dev.beat.count →
      exec (.waitDeadline c) s = .next (done 1)) ∧
    (∀ q u, free → k.st = .waiting (.queue q u) dl r → qGrouped (activeData x) q = false → qComb (activeData x) q = false →
      (queueOf x q).entries = [] → dl ≠ 0 → dl.toNat ≤ s.dev.beat.count →
      exec (.waitDeadline c ecc) s = .next (done 1)) ∧
    (∀ f w v cond ab, free → k.st = .waiting (.signal f w v cond false ab false) dl r → dl ≠ 0 → dl.toNat ≤ s.dev.beat.count →
      ∃ t, exec (.waitDeadline c) s = .next t ∧
        (cellAt t.dev c).conj = { k with st := .waiting (.signal f w v cond true ab false) dl r } ∧
        Injects s.dev.mesh.flits t (.cell c) (.store f)
          (.sigOp .cancel { src := .cell c, frame := f, word := w, v := 0, clause := activeId x, off := k.pc }))

/-- R171, R172, R228, R229, R300: a signal instruction whose index lies below SIGNALS sends its operation to the store of the
word that the clause's allocation gives it; a fifth READ or ADD outstanding stalls; an index not below SIGNALS records
SIGNAL_RANGE and sends nothing. -/
def Obligations.SignalInstructionsSend : Prop :=
  ∀ (c : LCell) (a b dl d : Reg) (cond : Cond) (cl : Clause) (s : State),
    activeClause s.dev c = some cl →
    let x := cellAt s.dev c
    let u := regAt s.dev c a
    let w := regAt s.dev c b
    let op (f n : Nat) (v : W64) : SigReq := { src := .cell c, frame := f, word := n, v, clause := activeId x, off := x.conj.pc }
    let sent (i : Instr) (o : SigOp) (v : W64) (reg : Option Reg) : Prop :=
      ∀ f n, u.toNat < cl.signals → runAt cl.runs u.toNat = some (f, n) →
      ∃ t, exec i s = .next t ∧ Injects s.dev.mesh.flits t (.cell c) (.store f) (.sigOp o (op f n v)) ∧
        (cellAt t.dev c).conj = ({ x.conj with sigs := x.conj.sigs ++ [{ f := f, w := n, reg := reg }] } : Conj).goTo (x.conj.pc + 1)
    let range (i : Instr) : Prop :=
      cl.signals ≤ u.toNat →
      ∃ t, exec i s = .next t ∧ Recorded s t (coreRecord s c 0x0402 u.toNat 0) ∧ t.dev.mesh = s.dev.mesh ∧ t.dev.sig = s.dev.sig ∧
        (cellAt t.dev c).conj.regs = x.conj.regs
    let stalls (i : Instr) : Prop :=
      ∀ f n, u.toNat < cl.signals → runAt cl.runs u.toNat = some (f, n) → 4 ≤ (x.conj.sigs.filter fun o => o.reg.isSome).length → exec i s = .next s
    (IssuesInside s c (.sread c a d) [a, d] →
      ((x.conj.sigs.filter fun o => o.reg.isSome).length < 4 → sent (.sread c a d) .read 0 (some d)) ∧ range (.sread c a d) ∧
      stalls (.sread c a d)) ∧
    (IssuesInside s c (.sset c a b) [a, b] → sent (.sset c a b) .set w none ∧ range (.sset c a b)) ∧
    (IssuesInside s c (.sadd c a b d) [a, b, d] →
      ((x.conj.sigs.filter fun o => o.reg.isSome).length < 4 → sent (.sadd c a b d) .add w (some d)) ∧ range (.sadd c a b d) ∧
      stalls (.sadd c a b d)) ∧
    (IssuesInside s c (.swait c a b dl d cond) [a, b, dl, d] →
      (∀ f n, u.toNat < cl.signals → runAt cl.runs u.toNat = some (f, n) →
        ∃ t, exec (.swait c a b dl d cond) s = .next t ∧
          Injects s.dev.mesh.flits t (.cell c) (.store f) (.sigOp (.wait cond) (op f n w)) ∧
          (cellAt t.dev c).conj = { x.conj with st := .waiting (.signal f n w cond false false false) (regAt s.dev c dl) d, stall := none }) ∧
      range (.swait c a b dl d cond))

/-- R218, R228, R300-R302, R305, R310: a reply of a store ends the oldest operation of the cell outstanding there: the
register of a READ or ADD takes the value that DONE or REFUSED carries, or zero for ABSENT; WAKE ends a wait with result
0, or is kept while the cell is held; CANCELLED ends a cancelled wait with result 1, and is ignored where a WAKE has
overtaken the CANCEL. An arrival happens where its flits stand, and else changes nothing (the model's choice,
notes/assumptions/2). -/
def Obligations.SignalRepliesWriteRegisters : Prop :=
  ∀ (c : LCell) (f : Nat) (v dl : W64) (r : Reg) (o : SigOut) (rest : List SigOut) (s : State),
    let x := cellAt s.dev c
    (activeSlot x).isSome = true →
    let body (res : SigRes) (w : W64) : List Body := [.sigReply f res w]
    let comes (res : SigRes) (w : W64) : Prop := s.arrives (.store f) (.cell c) (body res w)
    let after (res : SigRes) (w : W64) (f' : Conj → Conj) : State :=
      { s with dev := updConj c f' (landed s.dev (.store f) (.cell c) (body res w)) }
    let ends (i : Instr) (res : SigRes) (val w : W64) : Prop :=
      comes res w → x.conj.sigs = o :: rest → o.f = f → o.reg = some r →
      exec i s = .next (after res w fun k => ({ k with sigs := rest } : Conj).setReg r val)
    ends (.signalReplyDone (.cell c) f v) .done v v ∧ ends (.signalReplyRefused (.cell c) f v) .refused v v ∧
    ends (.signalReplyAbsent (.cell c) f) .absent 0 0 ∧
    (∀ w n k cx ab wk, x.conj.st = .waiting (.signal f w n k cx ab wk) dl r → comes .wake v →
      let ign := if cx then x.conj.ignore ++ [f] else x.conj.ignore
      (x.stopped = false → s.dev.ctl.state = .running → x.conj.pc + 1 < progLen x →
        exec (.signalReplyWake (.cell c) f v) s =
          .next (after .wake v fun k => (({ k with st := .running, ignore := ign } : Conj).setReg r 0).goTo (x.conj.pc + 1))) ∧
      ((x.stopped = true ∨ s.dev.ctl.state ≠ .running) →
        exec (.signalReplyWake (.cell c) f v) s =
          .next (after .wake v fun y => { y with st := .waiting (.signal f w n k cx ab true) dl r, ignore := ign }))) ∧
    (∀ w n k wk, x.conj.st = .waiting (.signal f w n k true false wk) dl r → x.conj.pc + 1 < progLen x → f ∉ x.conj.ignore →
      comes .cancelled 0 →
      exec (.signalReplyCancelled (.cell c) f) s =
        .next (after .cancelled 0 fun k => (({ k with st := .running } : Conj).setReg r 1).goTo (x.conj.pc + 1))) ∧
    (∀ w n k wk, x.conj.st = .waiting (.signal f w n k true true wk) dl r → f ∉ x.conj.ignore → comes .cancelled 0 →
      exec (.signalReplyCancelled (.cell c) f) s = .next (after .cancelled 0 fun k => { k with st := .running })) ∧
    (f ∈ x.conj.ignore → comes .cancelled 0 →
      exec (.signalReplyCancelled (.cell c) f) s = .next (after .cancelled 0 fun k => { k with ignore := k.ignore.erase f }))

/-- R173, R174, R231, R232, R273: QOPEN, QCLOSE, QRESET and QSEND take a send buffer and put their flit on the mesh; QSEND
carries the 64 bytes that the data store holds at issue, and is held where an earlier message for the queue has been
refused for want of room. With all four buffers taken the instruction stalls. A name outside the region records
TARGET_OUTSIDE, a data address that leaves the data store or is not aligned DATA_ADDRESS, and nothing is sent. -/
def Obligations.QueueInstructionsSend : Prop :=
  ∀ (c : LCell) (a b : Reg) (strict : Bool) (cl : Clause) (s : State),
    activeClause s.dev c = some cl →
    let x := cellAt s.dev c
    let n := (regAt s.dev c a).toNat
    let row := n / 4096 % 64
    let col := n / 64 % 64
    let q := n % 64
    let addr := (regAt s.dev c b).toNat
    let t0 : LCell := { row := 4 * cl.orow + row, col := 4 * cl.ocol + col }
    let inside := row < 4 * cl.benchRows ∧ col < 4 * cl.benchCols
    let stalls (i : Instr) : Prop := 4 ≤ x.sends.length → exec i s = .next (s.withCore c fun k => { k with stall := some (t0, q) })
    let outside (i : Instr) : Prop :=
      ¬inside → namesFenced s.dev cl (regAt s.dev c a) = false →
      ∃ t, exec i s = .next t ∧ Recorded s t (coreRecord s c 0x0105 (row * 256 + col) 0) ∧ t.dev.mesh = s.dev.mesh ∧ (cellAt t.dev c).sends = x.sends
    let control (i : Instr) (op : QOp) : Prop :=
      IssuesInside s c i [a] → outside i ∧ (inside → stalls i ∧
      (x.sends.length < 4 → ∃ t m, exec i s = .next t ∧ Injects s.dev.mesh.flits t (.cell c) (.cell t0) (.qctl q op) ∧
        (cellAt t.dev c).sends = x.sends ++ [m] ∧ m.dst = t0 ∧ m.q = q ∧ m.ctl = some op ∧ m.st = .inFlight ∧
        (cellAt t.dev c).conj.pc = x.conj.pc + 1))
    control (.qopen c a) .qopen ∧ control (.qclose c a) .qclose ∧ control (.qreset c a) .qreset ∧
    (IssuesInside s c (.qsend c a b strict) [a, b] → outside (.qsend c a b strict) ∧
      (inside → (65536 ≤ addr ∨ addr % 64 ≠ 0) →
        ∃ t, exec (.qsend c a b strict) s = .next t ∧ Recorded s t (coreRecord s c 0x0107 addr 0) ∧ t.dev.mesh = s.dev.mesh ∧
          (cellAt t.dev c).sends = x.sends) ∧
      (inside → addr < 65536 → addr % 64 = 0 → stalls (.qsend c a b strict) ∧
      (x.sends.length < 4 →
      let refused := x.sends.any fun m => decide (m.dst = t0) && m.q == q && m.fulled
      ∃ t g, exec (.qsend c a b strict) s = .next t ∧ g = stampGen x.gens cl.actGen t0 q ∧
        (refused = false → Injects s.dev.mesh.flits t (.cell c) (.cell t0) (.qmsg q g strict (x.conj.dmem.rdN addr 64))) ∧
        (refused = true → t.dev.mesh.flits = s.dev.mesh.flits) ∧
        (cellAt t.dev c).sends = x.sends ++ [{
          dst := t0, q := q, gen := g, strict := strict, pay := x.conj.dmem.rdN addr 64, off := x.conj.pc
          born := s.dev.mesh.stamp, stamp := s.dev.mesh.stamp, st := if refused then .held else .inFlight }] ∧
        (cellAt t.dev c).conj.pc = x.conj.pc + 1)))

/-- R175, R176, R178, R234, R320: LAUNCH sends one control flit to the engine that the target's kind and SMM name, and holds
the launch buffer; MOVE hands its request to the queue of the cell's frame. -/
def Obligations.LaunchAndMoveIssue : Prop :=
  ∀ (c : LCell) (idx : BitVec 10) (t p0 p1 : Reg) (smm : Bool) (cl : Clause) (s : State),
    activeClause s.dev c = some cl →
    let x := cellAt s.dev c
    let n := (regAt s.dev c t).toNat
    let row := n / 4096 % 64
    let col := n / 64 % 64
    let t0 : LCell := { row := 4 * cl.orow + row, col := 4 * cl.ocol + col }
    let inside := row < 4 * cl.benchRows ∧ col < 4 * cl.benchCols
    let eng : Option Engine := match kindAt t0.row t0.col with
      | .verb => if smm then none else some .verb
      | .adverb => if smm then some .smm else some .vec
      | _ => none
    let u := regAt s.dev c p0
    let w := regAt s.dev c p1
    (IssuesInside s c (.launch c idx t p0 p1 smm) [t, p0, p1] → inside → x.conj.launch = none → ∀ g, eng = some g →
      ∃ z, exec (.launch c idx t p0 p1 smm) s = .next z ∧
        Injects s.dev.mesh.flits z (.cell c) (.cell t0) (.launch idx.toNat g u w) ∧
        (cellAt z.dev c).conj =
          (let l : Launch := { idx := idx.toNat, eng := g, p0 := u, p1 := w, src := c, off := x.conj.pc, born := s.dev.mesh.stamp }
           ({ x.conj with launch := some (t0, l) } : Conj).goTo (x.conj.pc + 1))) ∧
    (IssuesInside s c (.launch c idx t p0 p1 smm) [t, p0, p1] → inside → x.conj.launch ≠ none → eng ≠ none →
      exec (.launch c idx t p0 p1 smm) s = .next (s.withCore c fun k => { k with stall := some (t0, 64) })) ∧
    (IssuesInside s c (.launch c idx t p0 p1 smm) [t, p0, p1] → inside → eng = none →
      ∃ z, exec (.launch c idx t p0 p1 smm) s = .next z ∧ Recorded s z (coreRecord s c 0x0109 (row * 256 + col) 0)) ∧
    (IssuesInside s c (.move c idx p0 p1) [p0, p1] →
      let fq := frameQueue s.dev (frameOf c)
      let r : MReq := { cell := c, clause := activeId x, slot := (activeSlot x).getD 0, idx := idx.toNat, p0 := u, p1 := w }
      (notStarted s.dev c < 8 → fq.length < 64 →
        ∃ z, exec (.move c idx p0 p1) s = .next z ∧ frameQueue z.dev (frameOf c) = fq ++ [r] ∧ z.pc c = s.pc c + 1) ∧
      (notStarted s.dev c < 8 → 64 ≤ fq.length →
        ∃ z, exec (.move c idx p0 p1) s = .next z ∧ frameQueue z.dev (frameOf c) = fq ∧
          (cellAt z.dev c).conj = ({ x.conj with mreqs := x.conj.mreqs ++ [r] } : Conj).goTo (x.conj.pc + 1)) ∧
      (8 ≤ notStarted s.dev c → exec (.move c idx p0 p1) s = .next (s.withCore c fun k => { k with stall := some (c, 65) })))

/-- R186, R187, R236: NOP has no effect, CEND stops fetch, and the two FAULT forms write a PROGRAM_FAULT record; the
clause-fatal one stops its core. -/
def Obligations.SystemInstructionEffects : Prop :=
  ∀ (c : LCell) (a b : Reg) (s : State),
    let x := cellAt s.dev c
    let rec' (sev : Nat) : FaultRec := { coreRecord s c 0x0108 (regAt s.dev c a).toNat (regAt s.dev c b).toNat with severity := sev }
    (IssuesInside s c (.nop c) [] → exec (.nop c) s = .next (s.coreNext c id)) ∧
    (Issues s c (.cend c) [] → exec (.cend c) s = .next (s.withCore c fun k => { k with st := .ended, stall := none })) ∧
    (IssuesInside s c (.faultNotice c a b) [a, b] →
      ∃ t, exec (.faultNotice c a b) s = .next t ∧ Recorded s t (rec' 0) ∧
        cellAt t.dev c = { x with conj := { x.conj with pc := x.conj.pc + 1, stall := none } } ∧ OtherCells s t c) ∧
    (IssuesInside s c (.faultFatal c a b) [a, b] →
      ∃ t, exec (.faultFatal c a b) s = .next t ∧ Recorded s t (rec' 1) ∧
        cellAt t.dev c = { x with stopped := true, conj := { x.conj with pc := x.conj.pc + 1, stall := none } } ∧ OtherCells s t c)

/-- Every step keeps the canonical form of the cores' registers, of the data stores, the Noun banks and the memory outside the
cells, and of the signal words: of equal contents there is one form, so that equal memories are equal data. The form is
the model's own (notes/assumptions/8); the registers and memories that it speaks of are those of R168, R218, R247, R293
and R313. -/
def Obligations.CanonicalFormIsKept : Prop :=
  Canonical State.reset.dev ∧ ∀ s t : State, step s = .next t → Canonical s.dev → Canonical t.dev

/-- R218: in a canonical register file, register x0 reads as zero and a write to it is discarded; every other register reads
as what was last written to it, and a write leaves the other registers alone and keeps the file canonical. An instruction
that reads or writes a register with a result pending stalls: it changes nothing. So for every instruction with register
operands, and each of them. -/
def Obligations.RegistersReadBackAndStall : Prop :=
  (∀ (k : Conj) (r g : Reg) (v : W64), NMap.wf 0 k.regs = true →
    k.reg 0 = 0 ∧ k.setReg 0 v = k ∧ (r ≠ 0 → (k.setReg r v).reg r = v) ∧ (g ≠ r → (k.setReg r v).reg g = k.reg g) ∧
    NMap.wf 0 (k.setReg r v).regs = true) ∧
  (∀ (c : LCell) (a b dl d e : Reg) (imm : BitVec 16) (k : BitVec 21) (idx : BitVec 10) (cond : Cond) (flag : Bool) (s : State),
    let pend (r : Reg) : Prop := r ≠ 0 ∧ ∃ o ∈ (cellAt s.dev c).conj.sigs, o.reg = some r
    let stall (l : List Instr) : Prop := ∀ i ∈ l, exec i s = .next s
    (pend a ∨ pend b ∨ pend d →
      stall [.add c a b d, .sub c a b d, .and c a b d, .ior c a b d, .xor c a b d, .lsl c a b d, .lsr c a b d, .asr c a b d, .lts c a b d,
        .ltu c a b d, .mins c a b d, .maxs c a b d, .minu c a b d, .maxu c a b d, .mullo c a b d, .mulhs c a b d, .mulhu c a b d,
        .quos c a b d, .rmds c a b d, .quou c a b d, .rmdu c a b d, .sadd c a b d, .launch c idx a b d flag]) ∧
    (pend a ∨ pend d →
      stall [.addk c a d imm, .andk c a d imm, .iork c a d imm, .xork c a d imm, .ltsk c a d imm, .ltuk c a d imm, .lslk c a d imm,
        .lsrk c a d imm, .asrk c a d imm, .ksh c a d imm, .ld8s c a d imm, .ld8u c a d imm, .ld16s c a d imm, .ld16u c a d imm,
        .ld32s c a d imm, .ld32u c a d imm, .ld64 c a d imm, .st8 c a d imm, .st16 c a d imm, .st32 c a d imm, .st64 c a d imm,
        .jmpr c a d imm, .sread c a d]) ∧
    (pend a ∨ pend b →
      stall [.jeq c a b imm, .jne c a b imm, .jlts c a b imm, .jges c a b imm, .jltu c a b imm, .jgeu c a b imm, .sset c a b,
        .qsend c a b flag, .move c idx a b, .faultNotice c a b, .faultFatal c a b]) ∧
    (pend a → stall [.jdnz c a imm, .qopen c a, .qclose c a, .qreset c a]) ∧
    (pend d → stall [.kld c d k, .call c d k, .cstate c d imm, .beat c d, .phaseRead c d]) ∧
    (pend a ∨ pend dl ∨ pend d → stall [.bwait c a dl d]) ∧
    (pend a ∨ pend b ∨ pend dl ∨ pend d → stall [.swait c a b dl d cond, .qrecv c a b dl d .good]) ∧
    (pend a ∨ pend dl ∨ pend d ∨ pend e → stall [.mbpop c a dl d e]) ∧
    (pend a ∨ pend b ∨ pend dl ∨ pend d ∨ pend e → stall [.mbtake c a b dl d e]))

/-! ### Signal stores -/

/-- R298, R302, R304: READ, SET, ADD, WAIT and CANCEL of a clause on a word that it owns, with the replies; after every change
each monitor of the word whose condition now holds is woken with the new value and removed. The conditions are unsigned.
An arrival happens where its flits stand, and else changes nothing (the model's choice, notes/assumptions/2). -/
def Obligations.SignalStoreOperations : Prop :=
  (∀ value v : W64, (condHolds .ge value v = true ↔ v.toNat ≤ value.toNat) ∧ (condHolds .eq value v = true ↔ value = v) ∧
    (condHolds .any value v = true ↔ value &&& v ≠ 0)) ∧
  (∀ (r : SigReq) (cond : Cond) (s : State),
    let word := sigWord s.dev r.frame r.word
    let st : Src := .store r.frame
    let comes (op : SigOp) : Prop := s.arrives r.src st [.sigOp op r] ∧ r.kind = .clause ∧ word.alloc = true ∧ word.owner = r.clause
    let hit (v : W64) (m : Monitor) : Bool := m.f == r.frame && m.w == r.word && condHolds m.cond v m.v
    let changes (i : Instr) (op : SigOp) (v res : W64) : Prop :=
      comes op → ¬(word.ceilEn = true ∧ word.ceiling.toNat < v.toNat) →
      ∃ t, exec i s = .next t ∧ sigWord t.dev r.frame r.word = { word with value := v } ∧
        (∀ f w, sigKey f w ≠ sigKey r.frame r.word → sigWord t.dev f w = sigWord s.dev f w) ∧
        InjectsAll (s.landed r.src st [.sigOp op r]) t
          ((st, r.src, .sigReply r.frame .done res) :: (s.dev.sig.monitors.filter (hit v)).map fun m => (st, m.src, .sigReply r.frame .wake v)) ∧
        t.dev.sig.monitors = s.dev.sig.monitors.filter (fun m => !hit v m) ∧ t.dev.health = s.dev.health ∧ t.otp = s.otp
    (comes .read → ∃ t, exec (.signalRead r .good) s = .next t ∧ t.dev.sig = s.dev.sig ∧
      Injects (s.landed r.src st [.sigOp .read r]) t st r.src (.sigReply r.frame .done word.value)) ∧
    changes (.signalSet r .good) .set r.v 0 ∧
    changes (.signalAdd r .good) .add (word.value + r.v) word.value ∧
    (comes (.wait cond) → condHolds cond word.value r.v = true →
      ∃ t, exec (.signalWait r cond .good) s = .next t ∧ t.dev.sig = s.dev.sig ∧
        Injects (s.landed r.src st [.sigOp (.wait cond) r]) t st r.src (.sigReply r.frame .wake word.value)) ∧
    (comes (.wait cond) → condHolds cond word.value r.v = false →
      ∃ t, exec (.signalWait r cond .good) s = .next t ∧ t.dev.sig.words = s.dev.sig.words ∧
        t.dev.mesh.flits = s.landed r.src st [.sigOp (.wait cond) r] ∧
        t.dev.sig.monitors = s.dev.sig.monitors.filter (fun m => decide (m.src ≠ r.src)) ++
          [{ src := r.src, f := r.frame, w := r.word, v := r.v, cond := cond }]) ∧
    (comes .cancel → ∃ t, exec (.signalCancel r) s = .next t ∧ t.dev.sig.words = s.dev.sig.words ∧
      (∀ m ∈ t.dev.sig.monitors, m.src = r.src → m.f ≠ r.frame) ∧
      Injects (s.landed r.src st [.sigOp .cancel r]) t st r.src (.sigReply r.frame .cancelled 0)))

/-! ### The fault log -/

/-- R445, R462, R477-R480: any record takes its place in the ring with the beat count, the total counts it, and a device-fatal
one becomes LAST_FATAL; a clause-fatal one holds its clause, a device-fatal one puts the device into FAULTED unless it is
INERT, and a notice does neither. No step but a reset does anything else to the log, or leaves FAULTED. That no record is
lost on its way is the model's choice (notes/assumptions/91). -/
def Obligations.FaultLogTakesEveryRecord : Prop :=
  (∀ (r : FaultRec) (d : Dev),
    let u := record r d
    let e : FaultRec := { r with beat := d.beat.count, d0 := r.d0 % 2 ^ 32, d1 := r.d1 % 2 ^ 32 }
    LogTakes d.health u.health [e] ∧ u.cells = d.cells ∧ u.mesh = d.mesh ∧ u.sig = d.sig ∧
    (r.severity = 0 → u.ctl = d.ctl ∧ u.plan = d.plan) ∧
    (r.severity = 1 → u.ctl = d.ctl ∧ ∀ cl, clauseOf d r.clause = some cl → clauseOf u r.clause = some { cl with held := true }) ∧
    (r.severity = 2 → u.plan = d.plan ∧ u.ctl.state = if d.ctl.state = .inert then .inert else .faulted)) ∧
  ∀ (s t : State), step s = .next t → (∀ c ∈ s.pending.head?, resets c = false) →
    (∃ rs, LogTakes s.dev.health t.dev.health rs) ∧ (s.dev.ctl.state = .faulted → t.dev.ctl.state = .faulted)

/-! ### Signal operations that are refused -/

/-- R301-R303, R309, R471: an operation of a clause that does not own the word is answered ABSENT and counted and records
nothing; a raise beyond the ceiling leaves the value, is answered REFUSED with the old value, is counted, and is recorded
once in an activation; an operation of the host meets only words that are allocated, and a remote raise only those that
accept one, else it records REMOTE_SIGNAL. An arrival happens where its flits stand, and else changes nothing (the model's
choice, notes/assumptions/2). -/
def Obligations.SignalRefusals : Prop :=
  ∀ (r : SigReq) (c : LCell) (cl : Clause) (s : State),
    let word := sigWord s.dev r.frame r.word
    let st : Src := .store r.frame
    let fs (op : SigOp) : List Flit := s.landed r.src st [.sigOp op r]
    let comes (op : SigOp) : Prop := s.arrives r.src st [.sigOp op r]
    let counted (t : State) : Prop := sigWord t.dev r.frame r.word = { word with refused := min (2 ^ 32 - 1) (word.refused + 1) }
    let absent (i : Instr) (op : SigOp) : Prop :=
      comes op → r.kind = .clause → (word.alloc = false ∨ word.owner ≠ r.clause) →
      ∃ t, exec i s = .next t ∧ counted t ∧ t.dev.health = s.dev.health ∧ Injects (fs op) t st r.src (.sigReply r.frame .absent 0)
    let refused (i : Instr) (op : SigOp) (v : W64) : Prop :=
      comes op → r.kind = .clause → word.alloc = true → word.owner = r.clause → word.ceilEn = true → word.ceiling.toNat < v.toNat →
      r.src = .cell c → clauseOf s.dev r.clause = some cl →
      ∃ t, exec i s = .next t ∧ counted t ∧ Injects (fs op) t st r.src (.sigReply r.frame .refused word.value) ∧
        (cl.ceilRec = true → t.dev.health = s.dev.health) ∧
        (cl.ceilRec = false → Recorded s t
          (recordAt s c 0x0401 1 r.clause (some r.off) (sigCode r.frame r.word) v.toNat))
    absent (.signalRead r .good) .read ∧ absent (.signalSet r .good) .set ∧ absent (.signalAdd r .good) .add ∧
    absent (.signalCancel r) .cancel ∧
    refused (.signalSet r .good) .set r.v ∧ refused (.signalAdd r .good) .add (word.value + r.v) ∧
    (comes .set → r.kind = .host → word.alloc = false →
      ∃ t, exec (.signalSet r .good) s = .next t ∧ t.dev.sig = s.dev.sig ∧ NoRecord s t ∧ Injects (fs .set) t st r.src (.sigReply r.frame .absent 0)) ∧
    (comes .add → r.kind = .remote → word.alloc = true → word.remote = false →
      ∃ t, exec (.signalAdd r .good) s = .next t ∧ counted t ∧ Injects (fs .add) t st r.src (.sigReply r.frame .refused word.value) ∧
        Recorded s t (plainRecord 0x0404 0 0 (sigCode r.frame r.word) (remoteSender s.dev r.src)))

/-- R293, R494: a double-bit error that an operation of any kind meets marks the word failed, enters the word, or the spare
that stands in its place, in the retirement map, refuses the operation, leaves the word's value, and records SIGNAL_UPSET
for the owner. The reply's value is free (notes/assumptions/11). -/
def Obligations.SignalUpsetFailsTheWord : Prop :=
  ∀ (r : SigReq) (cond : Cond) (k : Nat) (s : State),
    let word := sigWord s.dev r.frame r.word
    let st : Src := .store r.frame
    let hurt (i : Instr) (op : SigOp) (unit_ : Nat) : Prop :=
      s.arrives r.src st [.sigOp op r] → s.otp.retired.length < 32768 → wordsFailed s.dev r.frame < (sparesFree s.dev r.frame).length →
      ∃ t, exec i s = .next t ∧ (sigWord t.dev r.frame r.word).failed = true ∧ (sigWord t.dev r.frame r.word).value = word.value ∧
        t.otp = { s.otp with retired := s.otp.retired ++ [5 * 2 ^ 60 + r.frame * 2 ^ 48 + unit_] } ∧
        Recorded s t (plainRecord 0x0403 1 word.owner (r.frame * 4096 + r.word) 0) ∧
        ∃ v, Injects (s.landed r.src st [.sigOp op r]) t st r.src (.sigReply r.frame .refused v)
    let hurts (unit_ : Nat) : Prop :=
      hurt (.signalRead r .upset) .read unit_ ∧ hurt (.signalSet r .upset) .set unit_ ∧ hurt (.signalAdd r .upset) .add unit_ ∧
      hurt (.signalWait r cond .upset) (.wait cond) unit_ ∧ hurt (.signalCancel r .upset) .cancel unit_
    r.frame < 4 → r.word < 4096 →
    (spareOf s.dev r.frame r.word = none → hurts r.word) ∧ (spareOf s.dev r.frame r.word = some k → hurts (4096 + k))

/-! ### Noun cells -/

/-- R240, R244, R248, R249: an access that the bank-mode map permits waits at its port behind those before it; one that it
does not permit changes no byte and is answered refused, the first of an activation recorded and later ones counted. An
arrival happens where its flits stand, and else changes nothing (the model's choice, notes/assumptions/2). -/
def Obligations.NounAccessesAreChecked : Prop :=
  ∀ (c : LCell) (p : Dir) (addr : Nat) (src : Src) (clause off : Nat) (line : List Byte) (en : W64) (s : State),
    let x := cellAt s.dev c
    let rd : NounReq := { port := p, addr := addr, src := src, clause := clause, off := off, wr := none }
    let wr : NounReq := { rd with wr := some (padTo 64 (line.take 64), en) }
    let b := bankMode x src clause (bankOf addr)
    let may (write : Prop) : Prop := bit b (dirCode p) = true ∧ (b / 64 = 1 ∨ b / 64 = 2 ∧ ¬write)
    let by_ := if clause = 0 then activeId x else clause
    let case (i : Instr) (write : Bool) (body : List Body) (ans : Body) (r : NounReq) : Prop :=
      let fs := s.landed src (.cell c) body
      s.arrives src (.cell c) body →
      (may (write = true) → ∃ t, exec i s = .next t ∧ t.dev.mesh.flits = fs ∧ NoRecord s t ∧
        Becomes s t c { x with noun := { x.noun with reqs := x.noun.reqs ++ [r] } }) ∧
      (¬may (write = true) → x.noun.refusedOnce = false → ∃ t, exec i s = .next t ∧ Injects fs t (.cell c) src ans ∧
        Recorded s t (recordAt s c 0x0201 1 by_ (some off) (bankOf addr * 256 + (if write then 16 else 0) + dirCode p) (addr % 2 ^ 21)) ∧
        Becomes s t c { x with noun := { x.noun with refusedOnce := true } }) ∧
      (¬may (write = true) → x.noun.refusedOnce = true → ∃ t, exec i s = .next t ∧ Injects fs t (.cell c) src ans ∧ NoRecord s t ∧
        Becomes s t c { x with win := { x.win with bankRefused := min (2 ^ 32 - 1) (x.win.bankRefused + 1) } })
    x.fence = .none → nounWaits s.dev (phys s.dev c) = false →
    case (.nounReadRequest c p addr src clause off) false [.nounRead p addr clause off] (.nounData c p addr true []) rd ∧
    case (.nounWrite c p addr src clause off line en) true [.nounWrite p addr clause off line, .nounEnables en] (.nounAck c p addr true) wr

/-- R240, R252-R255: the reads that a SharedRead bank's merge buffer holds are served without a grant and leave the pointer;
else a bank grants the first port at or after its pointer, in the order N, S, E, W, whose oldest access is for it, and the
pointer moves past it; a write stores its enabled bytes and no other; reads of one line at several ports are served as
one, or refused with one NOUN_UPSET record where the line holds a double-bit error. The cell has power and clock (R510,
R511). -/
def Obligations.NounBankGrants : Prop :=
  ∀ (c : LCell) (bank : Nat) (p : Dir) (r : NounReq) (e : Ecc) (s : State),
    let x := cellAt s.dev c
    let k := NMap.get 0 x.noun.ptr bank
    let line (y : NounReq) : Nat := y.addr % 2 ^ 21 / 64 * 64
    let la := line r
    let ptr := NMap.set 0 x.noun.ptr bank ((dirCode p + 1) % 4)
    let ports : List Dir := [.n, .s, .e, .w]
    let group := ports.filterMap fun q => (portHead x bank q).bind fun y => if y.wr = none ∧ line y = la then some y else none
    let shared := modeShared (fld (activeData x).secA bank 1)
    let hits := if shared then ports.filterMap fun q => (portHead x bank q).bind fun y =>
      if y.wr = none ∧ line y ∈ NMap.get [] x.noun.merge bank then some y else none else []
    let data (l : List NounReq) : List (Src × Src × Body) := l.map fun q => (.cell c, q.src, .nounData c q.port q.addr false (x.noun.mem.rdN (line q) 64))
    let without (l : List NounReq) : List NounReq := l.foldl (fun l q => eraseFirst (fun y => decide (y = q)) l) x.noun.reqs
    x.slots ≠ [] → halfOn s.dev (phys s.dev c) = true → Unfaulted s →
    (hits ≠ [] → ∃ t, exec (.bankGrant c bank e) s = .next t ∧ NoRecord s t ∧
      Becomes s t c { x with noun := { x.noun with reqs := without hits } } ∧ InjectsAll s.dev.mesh.flits t (data hits)) ∧
    (hits = [] → portHead x bank p = some r → (∀ q, (dirCode q + 3 * k) % 4 < (dirCode p + 3 * k) % 4 → portHead x bank q = none) →
      (∀ bytes en, r.wr = some (bytes, en) →
        let m := x.noun.mem.wrLine la bytes en
        ∃ t, exec (.bankGrant c bank e) s = .next t ∧ NoRecord s t ∧ Injects s.dev.mesh.flits t (.cell c) r.src (.nounAck c r.port r.addr false) ∧
          Becomes s t c { x with noun := { x.noun with
            reqs := eraseFirst (fun y => decide (y = r)) x.noun.reqs, ptr := ptr, mem := m
            bad := if en = BitVec.allOnes 64 then x.noun.bad.filter (fun b => b != la) else x.noun.bad } } ∧
          (∀ a, (a < la ∨ la + 64 ≤ a ∨ en.getLsbD (a - la) = false) → m.rd a = x.noun.mem.rd a)) ∧
      (r.wr = none → e ≠ .upset → la ∉ x.noun.bad →
        ∃ t y, exec (.bankGrant c bank e) s = .next t ∧ NoRecord s t ∧ Becomes s t c y ∧ y.noun.mem = x.noun.mem ∧ y.noun.ptr = ptr ∧
          y.noun.reqs = without group ∧
          y.noun.merge = (if shared then NMap.set [] x.noun.merge bank ((la :: (NMap.get [] x.noun.merge bank).filter fun b => b != la).take 8)
            else x.noun.merge) ∧
          y.win.nounCorrected = (if e = .corrected then min (2 ^ 32 - 1) (x.win.nounCorrected + 1) else min (2 ^ 32 - 1) x.win.nounCorrected) ∧
          InjectsAll s.dev.mesh.flits t (data group)) ∧
      (r.wr = none → (e = .upset ∨ la ∈ x.noun.bad) → ∀ lead rest, group = lead :: rest →
        ∃ t y, exec (.bankGrant c bank e) s = .next t ∧ Becomes s t c y ∧ y.noun.mem = x.noun.mem ∧ y.noun.ptr = ptr ∧ la ∈ y.noun.bad ∧
          Recorded s t (recordAt s c 0x0203 1 (activeId x) (some lead.off) (bank * 256 + dirCode lead.port) (lead.addr % 2 ^ 21)) ∧
          InjectsAll s.dev.mesh.flits t (group.map fun q => (.cell c, q.src, .nounData c q.port q.addr true []))))

/-! ### Queues and messages -/

/-- R262, R272, R273, R275, R277: what a queue does with a message, by its state: accepted into an entry, or into the mailbox,
and answered ACCEPTED; no free entry, or an earlier message of its sender not yet accepted after a FULL, answered FULL
with its source kept in the waiter list; CLOSED, DRAINING or of another generation, discarded, counted and answered
CLOSED; at a fenced cell FENCED. State is looked at before generation (notes/assumptions/18). An arrival happens where its
flits stand, and else changes nothing (the model's choice, notes/assumptions/2). -/
def Obligations.QueueMessagesByState : Prop :=
  ∀ (c : LCell) (q gen : Nat) (strict : Bool) (src : Src) (pay : List Byte) (s : State),
    let x := cellAt s.dev c
    let sd := activeData x
    let n := q % 64
    let k := queueOf x n
    let line := padTo 64 (pay.take 64)
    let msg : List Body := [.qmsg q gen strict pay]
    let fs := s.landed src (.cell c) msg
    let i : Instr := .queueMessage c q gen strict src pay
    let answer (y : Cell) (res : QRes) : Prop :=
      ∃ t, exec i s = .next t ∧ NoRecord s t ∧ Injects fs t (.cell c) src (.qcomp c n k.gen res) ∧ Becomes s t c y
    let dropped : Cell := { x with win := { x.win with queueDiscarded := min (2 ^ 32 - 1) (x.win.queueDiscarded + 1) } }
    let waits : Cell :=
      if x.waiters.length < 32 ∧ (n, src) ∉ x.waiters then { x with waiters := x.waiters ++ [(n, src)] } else x
    let open_ := x.fence = .none ∧ k.clamped = false ∧ k.st = .open ∧ k.gen = gen % 256
    let first := (∀ m ∈ (senderOf s.dev src).sends, m.fulled = false) ∧
      ∀ f ∈ s.dev.mesh.flits, f.src = .cell c → f.dst = src → ∀ g, f.body ≠ .qcomp c n g .full
    s.arrives src (.cell c) msg →
    (open_ → qComb sd n = false → qPort sd n ≠ 11 → k.entries.length < qDepth sd n → first →
      answer (updQueue n (fun k => { k with entries := k.entries ++ [{ src := src, pay := line }] }) x) .accepted) ∧
    (open_ → qComb sd n = false → qPort sd n = 11 → x.conj.mbox.length < 16 → first →
      answer { x with conj := { x.conj with mbox := x.conj.mbox ++ [line] } } .accepted) ∧
    (open_ → qComb sd n = false → (if qPort sd n = 11 then 16 ≤ x.conj.mbox.length else qDepth sd n ≤ k.entries.length) →
      answer waits .full) ∧
    (open_ → qComb sd n = false → behindFull (landed s.dev src (.cell c) msg) src c n = true → answer waits .full) ∧
    (x.fence = .none → k.clamped = true → k.clampDead = false → answer waits .full) ∧
    (x.fence = .none → k.clamped = false → k.st = .draining → answer dropped (.closed .draining)) ∧
    (x.fence = .none → k.clamped = false → k.st = .open → k.gen ≠ gen % 256 → answer dropped (.closed .stale)) ∧
    (x.fence = .none → k.clamped = false → k.st = .closed → answer dropped (.closed .closed)) ∧
    (x.fence ≠ .none → answer dropped .fenced)

/-- R272, R275: the events QOPEN, QCLOSE and QRESET by queue state; each is answered ACCEPTED with the queue's generation, and
at a fenced cell FENCED. An arrival happens where its flits stand, and else changes nothing (the model's choice,
notes/assumptions/2). -/
def Obligations.QueueControlsByState : Prop :=
  ∀ (c : LCell) (q : Nat) (src : Src) (s : State),
    let x := cellAt s.dev c
    let sd := activeData x
    let k := queueOf x q
    let comes (op : QOp) : Prop := s.arrives src (.cell c) [.qctl q op]
    let fs (op : QOp) : List Flit := s.landed src (.cell c) [.qctl q op]
    let run (i : Instr) (op : QOp) (y : Cell) : Prop :=
      comes op → ∃ t, exec i s = .next t ∧ NoRecord s t ∧ Injects (fs op) t (.cell c) src (.qcomp c q (queueOf y q).gen .accepted) ∧ Becomes s t c y
    let same (i : Instr) (op : QOp) (res : QRes) : Prop :=
      comes op → ∃ t, exec i s = .next t ∧ Injects (fs op) t (.cell c) src (.qcomp c q k.gen res) ∧ t.dev.cells = s.dev.cells
    (x.fence ≠ .none → same (.qctlQopen c q src) .qopen .fenced ∧ same (.qctlQclose c q src) .qclose .fenced ∧ same (.qctlQreset c q src) .qreset .fenced) ∧
    (x.fence = .none → x.slots ≠ [] →
    (k.st ≠ .open → qUsed sd q = true → run (.qctlQopen c q src) .qopen (updQueue q (fun k => { k with st := .open }) x)) ∧
    ((k.st = .open ∨ qUsed sd q = false) → same (.qctlQopen c q src) .qopen .accepted) ∧
    (k.st = .open → qComb sd q = false → k.entries ≠ [] →
      run (.qctlQclose c q src) .qclose (updQueue q (fun k => { k with st := .draining }) x)) ∧
    (k.st = .open → qComb sd q = false → k.entries = [] → comes .qclose →
      ∃ t y, exec (.qctlQclose c q src) s = .next t ∧ Becomes s t c y ∧
        Injects (fs .qclose) t (.cell c) src (.qcomp c q (queueOf y q).gen .accepted) ∧
        y.queues = (updQueue q (fun k => { k with st := .closed, entries := [] }) (updQueue q (fun k => { k with st := .draining }) x)).queues) ∧
    (k.st ≠ .open → same (.qctlQclose c q src) .qclose .accepted) ∧
    ((x.waiters.find? fun w => w.1 == q) = none →
      run (.qctlQreset c q src) .qreset
        { updQueue q (fun k => { k with gen := (k.gen + 1) % 256, entries := [], ready := [], counts := [], slot := 0
                                        st := if k.st = .draining then .closed else k.st }) x with
          win := { x.win with queueDropped := min (2 ^ 32 - 1) (x.win.queueDropped + (k.entries.length + k.ready.length)) } }))

/-- R272-R274, R277, R278: ACCEPTED, CLOSED and FENCED free the message that a cell has in flight to the queue; a generation
that differs from the stamped one enters the cache; messages held behind it then leave, in order, with the generation
known by then; a strict message discarded records SEND_TO_CLOSED, one at a fenced cell CELL_FENCED. FENCED records
CELL_FENCED alone (notes/assumptions/18). An arrival happens where its flits stand, and else changes nothing (the model's
choice, notes/assumptions/2). -/
def Obligations.CompletionsFreeTheirMessage : Prop :=
  ∀ (k c : LCell) (q gen : Nat) (cause : ClosedCause) (m : Sent) (l1 l2 : List Sent) (s : State),
    let x := cellAt s.dev k
    let same (y : Sent) : Prop := y.dst = c ∧ y.q = q
    let gens := if m.gen = gen then x.gens else learnGen x.gens c q gen
    let g := stampGen gens (actGenOf s.dev (activeId x)) c q
    let frees (i : Instr) (res : QRes) (more : State → Prop) : Prop :=
      s.arrives (.cell c) (.cell k) [.qcomp c q gen res] →
      ∃ t, exec i s = .next t ∧ (cellAt t.dev k).gens = gens ∧
        (cellAt t.dev k).sends.map (fun y => { y with stamp := 0 }) =
          (l1 ++ l2).map (fun y => if y.dst = c ∧ y.q = q then { y with gen := g, st := .inFlight, stamp := 0 } else { y with stamp := 0 }) ∧
        InjectsAll (s.landed (.cell c) (.cell k) [.qcomp c q gen res]) t
          ((l2.filter fun y => decide (y.dst = c ∧ y.q = q)).map fun y => (.cell k, .cell c, .qmsg q g y.strict y.pay)) ∧ more t
    let rec' (code d0 d1 : Nat) : FaultRec :=
      (recordAt s k code 1 (activeId x) (some m.off) d0 d1)
    let why : Nat := match cause with
      | .closed => 0
      | .draining => 1
      | .stale => 2
    x.slots ≠ [] → x.sends = l1 ++ m :: l2 → same m → m.st = .inFlight → (∀ y ∈ l1, ¬same y) →
    (∀ y ∈ l2, same y → y.st = .held ∧ y.ctl = none ∧ y.fulled = false) →
    frees (.qcompAccepted (.cell k) c q gen) .accepted (NoRecord s) ∧
    (m.ctl = none → m.strict = true → frees (.qcompClosed (.cell k) c q gen cause) (.closed cause) fun t =>
      Recorded s t (rec' 0x0301 (c.row * 2 ^ 13 + c.col * 2 ^ 7 + q) (why * 2 ^ 16 + m.gen * 2 ^ 8 + gen % 256))) ∧
    ((m.strict = false ∨ m.ctl ≠ none) → frees (.qcompClosed (.cell k) c q gen cause) (.closed cause) (NoRecord s)) ∧
    frees (.qcompFenced (.cell k) c q gen) .fenced fun t => Recorded s t (rec' 0x0102 (c.row * 256 + c.col) 0)

/-- R88, R273, R278: a sender that receives FULL keeps the message; RESUME, or 64 cycles, resends it where its clock runs;
each of the two completions teaches the generation. An arrival happens where its flits stand, and else changes nothing
(the model's choice, notes/assumptions/2). -/
def Obligations.FullMessagesAreResent : Prop :=
  ∀ (src : Src) (c : LCell) (q gen : Nat) (m : Sent) (l1 l2 : List Sent) (s : State),
    let x := senderOf s.dev src
    let others := ∀ y ∈ l1 ++ l2, ¬(y.dst = c ∧ y.q = q)
    let gens := if m.gen = gen then x.gens else learnGen x.gens c q gen
    let again (i : Instr) (fs : List Flit) (g : List (LCell × Nat × Nat)) : Prop :=
      ∃ t n, exec i s = .next t ∧ NoRecord s t ∧
        senderOf t.dev src = { x with sends := l1 ++ { m with st := .inFlight, stamp := n } :: l2, gens := g } ∧
        Injects fs t src (.cell c) (.qmsg q m.gen m.strict m.pay)
    SenderHere s src → senderStopped s.dev src = false → x.sends = l1 ++ m :: l2 → others → m.dst = c → m.q = q → m.ctl = none →
    (m.st = .inFlight → s.arrives (.cell c) src [.qcomp c q gen .full] →
      ∃ t, exec (.qcompFull src c q gen) s = .next t ∧ NoRecord s t ∧ t.dev.mesh.flits = s.landed (.cell c) src [.qcomp c q gen .full] ∧
        senderOf t.dev src = { x with sends := l1 ++ { m with st := .full, fulled := true } :: l2, gens := gens }) ∧
    (m.st = .full → m.fulled = true → s.arrives (.cell c) src [.qcomp c q gen .resume] →
      again (.qcompResume src c q gen) (s.landed (.cell c) src [.qcomp c q gen .resume]) gens) ∧
    (m.st = .full → again (.fullResendTimeout src c q) s.dev.mesh.flits x.gens)

/-- R88, R176, R183, R235, R287: a launch takes the next of its engine's four pending places and frees its sender's launch
buffer, or waits in that buffer; at a fenced cell it is discarded and counted and its sender records CELL_FENCED; a
summary joins mailbox M, or waits at its sender while M is full; a stall of the watchdog's length is recorded once. An
arrival happens where its flits stand, and else changes nothing (the model's choice, notes/assumptions/2). -/
def Obligations.LaunchesMailAndStalls : Prop :=
  ∀ (c src : LCell) (idx : BitVec 10) (eng : Engine) (p0 p1 : W64) (l : Launch) (pay : List Byte) (from_ : Src) (s : State),
    let x := cellAt s.dev c
    let i : Instr := .launchArrival c src idx eng p0 p1
    let fs := s.landed (.cell src) (.cell c) [.launch idx.toNat eng p0 p1]
    let comes := s.arrives (.cell src) (.cell c) [.launch idx.toNat eng p0 p1] ∧ (cellAt s.dev src).conj.launch = some (c, l) ∧
      l.idx = idx.toNat ∧ l.eng = eng ∧ l.p0 = p0 ∧ l.p1 = p1 ∧ l.src = src
    (comes → x.fence = .none → reloadHolds s.dev (phys s.dev c) = false → (pendOf x eng).length < 4 → phys s.dev src ≠ phys s.dev c →
      (cellAt s.dev src).slots ≠ [] →
      ∃ t, exec i s = .next t ∧ NoRecord s t ∧ t.dev.mesh.flits = fs ∧ pendOf (cellAt t.dev c) eng = pendOf x eng ++ [l] ∧
        (cellAt t.dev src).conj = { (cellAt s.dev src).conj with launch := none }) ∧
    (comes → x.fence = .none → 4 ≤ (pendOf x eng).length →
      ∃ t, exec i s = .next t ∧ NoRecord s t ∧ t.dev.mesh.flits = fs ∧ Becomes s t c { x with waitL := x.waitL ++ [l] }) ∧
    (comes → x.fence ≠ .none → phys s.dev src ≠ phys s.dev c → (cellAt s.dev src).slots ≠ [] →
      ∃ t, exec i s = .next t ∧ (cellAt t.dev src).conj.launch = none ∧
        (cellAt t.dev c).win.queueDiscarded = min (2 ^ 32 - 1) (x.win.queueDiscarded + 1) ∧
        Recorded s t (recordAt s src 0x0102 1 (activeId (cellAt s.dev src)) (some l.off) (lcellCode c) 0)) ∧
    (s.arrives from_ (.cell c) [.summary pay] → x.fence = .none → x.conj.mbox.length < 16 →
      ∃ t, exec (.mailboxSummary c from_ pay) s = .next t ∧ NoRecord s t ∧ t.dev.mesh.flits = s.landed from_ (.cell c) [.summary pay] ∧
        (cellAt t.dev c).conj.mbox = x.conj.mbox ++ [padTo 64 (pay.take 64)]) ∧
    (x.fence = .none → 16 ≤ x.conj.mbox.length → exec (.mailboxSummary c from_ pay) s = .next s) ∧
    (stalled s.dev c = true → x.stallRec = false → watchdog (activeData x) ≠ 0 → watchdog (activeData x) ≤ x.stall →
      ∃ t, exec (.sendStall c) s = .next t ∧ Becomes s t c { x with stallRec := true } ∧ Recorded s t
        (recordAt s c 0x0302 (if holdOnStall (activeData x) then 1 else 0) (activeId x) none (destCode (stallDest s.dev c).1 (stallDest s.dev c).2) x.stall))

/-! ### Verb cells -/

/-- R98, R191, R194, R201, R206, R482: MATMUL_START takes the first pending launch: an index beyond the store and a failing
check are recorded; an empty descriptor raises its signal at once; any other begins its first block, from +0 or the
preload image, and each port asks for the lines of the first K step, with at most 64 line reads in flight. How far a port
reads ahead is the model's choice (notes/assumptions/60). -/
def Obligations.MatmulStartsItsBlocks : Prop :=
  ∀ (c : LCell) (l : Launch) (cl : Clause) (s : State),
    let x := cellAt s.dev c
    let sd := activeData x
    let i : Instr := .matmulStart c
    let rec' (off : Option Nat) (f : Nat × Nat × Nat) : FaultRec :=
      (recordAt s c f.1 1 (activeId x) off f.2.1 f.2.2)
    let refused (off : Option Nat) (f : Nat × Nat × Nat) : Prop :=
      ∃ t, exec i s = .next t ∧ Recorded s t (rec' off f) ∧ (cellAt t.dev c).mats = x.mats ∧ t.dev.mesh.flits = s.dev.mesh.flits
    headLaunch s.dev c .verb .verb = some l → activeClause s.dev c = some cl → x.stage = none → descKind sd.secA l.idx ≠ some 2 →
    (fld sd.secA 0 2 ≤ l.idx → refused none (0x0506, 0xFFFF, l.idx)) ∧
    (∀ off raw, descAt sd.secA l.idx 256 = some (off, raw) →
      let ch := matChecks cl sd raw l.p0 l.p1
      let r := ch.1
      (∀ f, ch.2 = some f → refused (some off) f) ∧
      (ch.2 = none → matEmpty r = true → ∃ t, exec i s = .next t ∧ NoRecord s t ∧ Raises s t c cl off (fld r 4 2)) ∧
      (ch.2 = none → matEmpty r = false → (∀ m ∈ x.mats, m.blocks = [] ∧ mayOverlap m.raw r = true) →
        (∀ p, (p < 2 ∨ p = 2 ∧ 64 < mN r) → pwMode (mPort r p) ≠ 2 → (usable s.dev c (pwDir (mPort r p))).isSome = true) →
        x.clockOff = false → ∀ b bs, matBlocks r = b :: bs →
        ∃ t m, exec i s = .next t ∧ NoRecord s t ∧ (cellAt t.dev c).mats = x.mats ++ [m] ∧ m.off = off ∧ m.raw = r ∧ m.blocks = b :: bs ∧ m.k = 0 ∧
          m.acc = (initAcc x.opfile r b).1 ∧ m.got = [] ∧
          ∀ p ∈ [1, 2, 3],
            let a := m.asks.getD (p - 1) {}
            ((m.need.filter fun n => n.port == p && n.step == 0).map fun n => n.addr) ++ (if a.step = 0 then a.left else []) =
              (linesOf (portBits r p) (stepBits r b 0 p)).map (wrapN 64) ∧
            (m.need.countP fun n => n.port == p && n.frm.isSome) ≤ 64))

/-- R105-R108, R136, R197, R201, R202: a finished block leaves the drain latches for its drain buffers and for nowhere else in
the operand file; its lines leave port O in order; the descriptor completes, raising its signal, once every block has run
and every line is acknowledged; a hold stops the cell at the end of a segment, once no drain is in progress. -/
def Obligations.VerbDrainsWritesAndCompletes : Prop :=
  ∀ (c : LCell) (m : MatRun) (cl : Clause) (s : State),
    let x := cellAt s.dev c
    (∀ pre post k bufs, x.mats = pre ++ m :: post → (∀ y ∈ pre, y.latch = none) → m.latch = some k → engineGoes s.dev c = true →
      drainBuffers x m.raw = some bufs →
      let op := drainImage m.raw k bufs x.opfile
      ∃ t, exec (.verbBlockDrain c) s = .next t ∧ (cellAt t.dev c).opfile = op ∧
        (k.blk.rows ≤ 64 → k.blk.cols ≤ 128 → ∀ a, (∀ l ∈ bufs, a < 64 * l ∨ 64 * l + 32768 ≤ a) → op.rd a = x.opfile.rd a) ∧
        (post = [] → m.blocks = [] → NoRecord s t ∧ t.dev.mesh = s.dev.mesh ∧ ∃ lines,
          (cellAt t.dev c).mats = pre ++ [{ m with latch := none, outs := m.outs ++ [{ bufs := bufs, lines := lines }] }])) ∧
    (∀ ms bufs l ls os n, x.mats = m :: ms → m.outs = { bufs := bufs, lines := l :: ls } :: os → engineGoes s.dev c = true →
      (x.mats.getLast?.map fun y => y.blocks) = some [] →
      let w := mPort m.raw 3
      let sent (bs : List Body) : Prop :=
        ∃ t, exec (.verbOutputWrite c) s = .next t ∧ InjectsAll s.dev.mesh.flits t (bs.map fun b => (.cell c, .cell n, b)) ∧
          (cellAt t.dev c).mats =
            { m with outs := if ls = [] then os else { bufs := bufs, lines := ls } :: os, acks := m.acks ++ [l.addr] } :: ms ∧
          (l.nans = [] → NoRecord s t) ∧
          (∀ co rest, l.nans = co :: rest → activeClause s.dev c = some cl → cl.nan.armed = true → Recorded s t
            (recordAt s c 0x0501 0 cl.id (some m.off) (co.getD 1 0) (co.headD 0)))
      (pwMode w = 1 → usable s.dev c (pwDir w) = some n → m.dest = (n, 64) →
        sent [.nounWrite (dirOpp (pwDir w)) l.addr (activeId x) m.off l.line, .nounEnables l.en]) ∧
      (∀ q, pwMode w = 2 → m.dest = (n, q) → q ≠ 64 → x.sends = [] →
        sent [.qmsg q (stampGen x.gens (actGenOf s.dev (activeId x)) n q) (strictOut (activeData x)) l.line])) ∧
    (∀ ms, x.mats = m :: ms → m.blocks = [] → m.latch = none → m.outs = [] → m.acks = [] → x.slots ≠ [] → activeClause s.dev c = some cl →
      ∃ t, exec (.matmulComplete c) s = .next t ∧ NoRecord s t ∧ Becomes s t c { x with mats := ms } ∧ Raises s t c cl m.off (fld m.raw 4 2)) ∧
    (∀ pre, x.mats = pre ++ [m] → m.blocks ≠ [] → (m.fresh = true ∨ segOver m = true ∨ finishWaits x m = true) → engineGoes s.dev c = true →
      holdDue s.dev (phys s.dev c) = true →
      let y : Cell := { x with mats := pre ++ [{ m with fresh := true }] }
      ∃ t, exec (.matmulSegmentEnd c) s = .next t ∧ NoRecord s t ∧ t.dev.mesh = s.dev.mesh ∧
        Becomes s t c (if latchesEmpty x = true then { y with stopped := true } else y))

/-! ### STAGE, VECTOR and small matrix descriptors, and what reaches the engines -/

/-- R98, R144, R165, R194, R207, R211, R215, R482: STAGE_START, VECTOR_START and SMM_START take the first pending launch of
their engine: an index beyond the store and a failing check are recorded; an empty descriptor raises its signal at once;
any other is taken up, and its ports ask for lines, at most 64 in flight; a chain that streams nothing runs its lane
groups one after the other. How far a port reads ahead is the model's choice (notes/assumptions/60). -/
def Obligations.OtherDescriptorsStart : Prop :=
  ∀ (c : LCell) (l : Launch) (cl : Clause) (s : State),
    let x := cellAt s.dev c
    let sd := activeData x
    let k := kindAt c.row c.col
    let e : Engine := if k = .verb then .verb else .vec
    let refused (i : Instr) (off : Option Nat) (f : Nat × Nat × Nat) : Prop :=
      ∃ t, exec i s = .next t ∧ Recorded s t (recordAt s c f.1 1 (activeId x) off f.2.1 f.2.2) ∧ t.dev.mesh.flits = s.dev.mesh.flits ∧
        (cellAt t.dev c).stage = x.stage ∧ (cellAt t.dev c).vecs = x.vecs ∧ (cellAt t.dev c).smm = x.smm
    let empty (i : Instr) (off sig : Nat) : Prop := ∃ t, exec i s = .next t ∧ NoRecord s t ∧ Raises s t c cl off sig
    activeClause s.dev c = some cl → x.mats = [] → x.vecs = [] → x.stage = none → x.smm = none →
    (headLaunch s.dev c k e = some l → (k = .verb ∨ k = .adverb) → descKind sd.secA l.idx ≠ some (if k = .verb then 1 else 0x10) →
      (fld sd.secA 0 2 ≤ l.idx → refused (.stageStart c) none (0x0506, 0xFFFF, l.idx)) ∧
      (∀ off raw, descAt sd.secA l.idx 64 = some (off, raw) →
        let ch := stageChecks k cl sd raw l.p0 l.p1
        let r := ch.1
        let lines := (List.range (gLines r)).map fun i => gBase r + 64 * i
        (∀ f, ch.2 = some f → refused (.stageStart c) (some off) f) ∧
        (ch.2 = none → gLines r = 0 → empty (.stageStart c) off (fld r 4 2)) ∧
        (ch.2 = none → gLines r ≠ 0 → pwMode (gPort r) = 2 →
          ∃ t, exec (.stageStart c) s = .next t ∧ NoRecord s t ∧ t.dev.mesh.flits = s.dev.mesh.flits ∧ (cellAt t.dev c).stage =
            some { off := off, raw := r, need := lines.map fun a => { port := gCode r, frm := none, addr := a } }) ∧
        (∀ n, ch.2 = none → gLines r ≠ 0 → pwMode (gPort r) ≠ 2 → usable s.dev c (pwDir (gPort r)) = some n →
          ∃ t, exec (.stageStart c) s = .next t ∧ NoRecord s t ∧
            InjectsAll s.dev.mesh.flits t ((lines.take 64).map fun a => (.cell c, .cell n, .nounRead (dirOpp (pwDir (gPort r))) a (activeId x) off)) ∧
            (cellAt t.dev c).stage = some {
              off := off, raw := r, left := lines.drop 64, need := (lines.take 64).map fun a => { port := gCode r, frm := some n, addr := a } }))) ∧
    (headLaunch s.dev c .adverb .vec = some l → descKind sd.secA l.idx ≠ some 2 →
      (fld sd.secA 0 2 ≤ l.idx → refused (.vectorStart c) none (0x0506, 0xFFFF, l.idx)) ∧
      (∀ off raw, descAt sd.secA l.idx 712 = some (off, raw) →
        let ch := vecChecks cl sd raw l.p0 l.p1
        let r := ch.1
        (∀ f, ch.2 = some f → refused (.vectorStart c) (some off) f) ∧
        (ch.2 = none → vecEmpty r = true → vSumDest r = 0xFFFF → empty (.vectorStart c) off (fld r 4 2)) ∧
        (ch.2 = none → vecEmpty r = false → (∀ i ∈ vStreams r, vLoc r i ≠ 6 → (usable s.dev c (dirOf (vLoc r i - 2))).isSome = true) →
          x.clockOff = false → (∃ i ∈ vStreams r, groupLines r i 0 ≠ []) →
          ∃ t v, exec (.vectorStart c) s = .next t ∧ NoRecord s t ∧ (cellAt t.dev c).vecs = [v] ∧ (cellAt t.dev c).opfile = x.opfile ∧
            v.off = off ∧ v.raw = r ∧ v.pos = 0 ∧
            ∀ i ∈ vStreams r,
              let a := v.asks.getD i {}
              ((v.need.filter fun n => n.port == 6 + i && n.step == 0).map fun n => n.addr) ++ (if a.step = 0 then a.left else []) = groupLines r i 0 ∧
              (v.need.countP fun n => n.port == 6 + i && n.frm.isSome) ≤ 64) ∧
        (ch.2 = none → vecEmpty r = false → vStreams r = [] → x.clockOff = false →
          let step (p : Mem × VecRun) : Mem × VecRun := let g := chainGroup p.1 p.2; (g.op, { g.run with pos := p.2.pos + 1 })
          ∃ t v, exec (.vectorStart c) s = .next t ∧ (cellAt t.dev c).vecs = [v] ∧ v.off = off ∧ v.raw = r ∧ v.pos = vGroups r ∧
            (cellAt t.dev c).opfile = (Nat.repeat step (vGroups r) (x.opfile, newRun c cl off r)).1))) ∧
    (headLaunch s.dev c .adverb .smm = some l →
      (fld sd.secA 0 2 ≤ l.idx → refused (.smmStart c) none (0x0506, 0xFFFF, l.idx)) ∧
      (∀ off raw, descAt sd.secA l.idx 112 = some (off, raw) →
        let ch := smmChecks cl raw l.p0 l.p1
        (∀ f, ch.2 = some f → refused (.smmStart c) (some off) f) ∧
        (ch.2 = none → smmEmpty ch.1 = true → empty (.smmStart c) off (fld ch.1 4 2)) ∧
        (ch.2 = none → smmEmpty ch.1 = false →
          ∃ t, exec (.smmStart c) s = .next t ∧ NoRecord s t ∧ t.dev.mesh.flits = s.dev.mesh.flits ∧
            (cellAt t.dev c).smm = some { off := off, raw := ch.1, acc := List.replicate (min 16 (sExt ch.1 0) * min 32 (sExt ch.1 1)) 0 })))

/-- R149, R163, R164, R167, R206, R216: the lines of an output leave in order, the summary leaves after the last of them, and
the first VECTOR whose lines are all acknowledged and whose summary is accepted completes, raising its signal; an SMM runs
the segments that are left, writes its results into the operand file and completes; a STAGE completes when its last line
has landed. -/
def Obligations.AdverbOutputsAndCompletions : Prop :=
  ∀ (c : LCell) (v : VecRun) (vs : List VecRun) (cl : Clause) (s : State),
    let x := cellAt s.dev c
    x.slots ≠ [] → activeClause s.dev c = some cl →
    (∀ l ls n, x.vecs = v :: vs → engineGoes s.dev c = true → l.nans = [] →
      let sent (y : Nat) (w : VecRun) (bs : List Body) : Prop :=
        ∃ t, exec (.adverbOutputWrite c y) s = .next t ∧ NoRecord s t ∧ InjectsAll s.dev.mesh.flits t (bs.map fun b => (.cell c, .cell n, b)) ∧
          (cellAt t.dev c).vecs = w :: vs ∧ (cellAt t.dev c).opfile = x.opfile
      let left (k : VecOut) : VecOut := { k with lines := ls, acks := k.acks ++ [l.addr] }
      let noun (i : Nat) : List Body := [.nounWrite (dirOpp (dirOf (vLoc v.raw i - 2))) l.addr (activeId x) v.off l.line, .nounEnables l.en]
      let msg (q : Nat) : List Body := [.qmsg q (stampGen x.gens (actGenOf s.dev (activeId x)) n q) (strictOut (activeData x)) l.line]
      let out (i : Nat) (k : VecOut) (y : Nat) (w : VecRun) : Prop :=
        k.lines = l :: ls →
        (vLoc v.raw i ≠ 6 → usable s.dev c (dirOf (vLoc v.raw i - 2)) = some n → k.dest = (n, 64) → sent y w (noun i)) ∧
        (∀ q, q ≠ 64 → x.sends = [] → vLoc v.raw i = 6 → k.dest = (n, q) → sent y w (msg q))
      out 4 v.y0 0 { v with y0 := left v.y0 } ∧ out 5 v.y1 1 { v with y1 := left v.y1 }) ∧
    (∀ d pay, x.vecs = v :: vs → v.summary = some (d, pay) → vGroups v.raw ≤ v.pos → v.y0.lines = [] → v.y1.lines = [] → engineGoes s.dev c = true →
      ∃ t, exec (.summarySend c) s = .next t ∧ Injects s.dev.mesh.flits t (.cell c) (.cell d) (.summary pay) ∧
        (cellAt t.dev c).vecs = { v with summary := none, sumWait := some d } :: vs ∧ (v.sumNans = [] → NoRecord s t)) ∧
    (∀ pre, x.vecs = pre ++ v :: vs → (∀ w ∈ pre, w.complete = false) → v.summary = none → v.sumWait = none → vGroups v.raw ≤ v.pos →
      v.y0.lines = [] → v.y1.lines = [] → v.y0.acks = [] → v.y1.acks = [] →
      ∃ t, exec (.vectorComplete c) s = .next t ∧ NoRecord s t ∧ Becomes s t c { x with vecs := pre ++ vs } ∧ Raises s t c cl v.off (fld v.raw 4 2)) ∧
    (∀ m, x.smm = some m → engineGoes s.dev c = true →
      let step (p : Mem × SmmRun) : Mem × SmmRun :=
        if smmBlocks p.2.raw ≤ p.2.blk then p else let g := smmSegment p.1 p.2; (g.1, g.2.1)
      ∃ t, exec (.smmComplete c) s = .next t ∧ NoRecord s t ∧ (cellAt t.dev c).smm = none ∧
        (cellAt t.dev c).opfile = (Nat.repeat step (smmLeft m) (x.opfile, m)).1 ∧ Raises s t c cl m.off (fld m.raw 4 2)) ∧
    (∀ g, x.stage = some g → g.need = [] → g.left = [] →
      ∃ t, exec (.stageComplete c) s = .next t ∧ NoRecord s t ∧ Becomes s t c { x with stage := none } ∧ Raises s t c cl g.off (fld g.raw 4 2))

/-- R98, R202, R207, R249, R259, R262, R267, R284: a line that an engine awaits lands where it awaits it, in the operand file
for a STAGE, whose next lines are then asked for, and in its K step or lane group for a MATMUL or VECTOR; a K step runs
when its last line has come; a refused access ends its descriptor; a port takes the head entry of its queue; a combining
queue delivers the sum of its oldest slot; an entry with a double-bit error is discarded and recorded. An arrival happens
where its flits stand, and else changes nothing (the model's choice, notes/assumptions/2). -/
def Obligations.LinesReachTheirEngines : Prop :=
  ∀ (c frm : LCell) (p : Dir) (addr port : Nat) (line : List Byte) (n : Need) (rest : List Need) (s : State),
    let x := cellAt s.dev c
    let l := padTo 64 (line.take 64)
    let i (refused : Bool) : Instr := .nounReadData (.cell c) frm p addr refused line
    let ack (refused : Bool) : Instr := .nounWriteAck (.cell c) frm p addr refused
    let data (refused : Bool) : List Body := [.nounData frm p addr refused line]
    let lands (refused : Bool) (more : List (Src × Src × Body)) (f : Cell → Prop) : Prop :=
      s.arrives (.cell frm) (.cell c) (data refused) →
      ∃ t, exec (i refused) s = .next t ∧ NoRecord s t ∧ InjectsAll (s.landed (.cell frm) (.cell c) (data refused)) t more ∧ f (cellAt t.dev c)
    let acked (refused : Bool) (f : Cell → Prop) : Prop :=
      s.arrives (.cell frm) (.cell c) [.nounAck frm p addr refused] →
      ∃ t, exec (ack refused) s = .next t ∧ NoRecord s t ∧ t.dev.mesh.flits = s.landed (.cell frm) (.cell c) [.nounAck frm p addr refused] ∧ f (cellAt t.dev c)
    let got : Got := { port := n.port, addr := n.addr, line := l, step := n.step }
    let place (g : StageRun) : Nat := 64 * gLine g.raw + (n.addr - gBase g.raw)
    let stageTook (g h : StageRun) (w : List Byte) (y : Cell) : Prop :=
      y.opfile = x.opfile.wrN (place g) w ∧ y.stage = some h ∧ ∀ a, (a < place g ∨ place g + 64 ≤ a) → y.opfile.rd a = x.opfile.rd a
    x.slots ≠ [] →
    (n.frm = some frm → n.addr = addr →
      (∀ g, x.stage = some g → g.need = n :: rest →
        (g.left = [] → lands false [] (stageTook g { g with need := rest, landed := g.landed + 1 } l)) ∧
        (∀ t', pwMode (gPort g.raw) ≠ 2 → usable s.dev c (pwDir (gPort g.raw)) = some t' → engineGoes s.dev c = true →
          let ls := g.left.take (64 - rest.length)
          lands false (ls.map fun a => (.cell c, .cell t', .nounRead (dirOpp (pwDir (gPort g.raw))) a (activeId x) g.off))
            (stageTook g { g with need := rest ++ ls.map fun a => { port := gCode g.raw, frm := some t', addr := a }
                                  left := g.left.drop ls.length, landed := g.landed + 1 } l)) ∧
        lands true [] fun y => y.stage = none ∧ y.opfile = x.opfile) ∧
      (∀ pre m, x.stage = none → x.mats = pre ++ [m] → m.need = n :: rest →
        let m' : MatRun := { m with need := rest, got := m.got ++ [got] }
        (engineGoes s.dev c = false → lands false [] fun y => y.mats = pre ++ [m']) ∧
        (∀ b, m.blocks = [b] → m.acc ≠ [] → m.fresh = false → segOver m = false → engineGoes s.dev c = true → m.asks.length = 3 →
          (∀ a ∈ m.asks, a.left = [] ∧ mK m.raw ≤ a.step) →
          ((∃ y ∈ rest, y.step = m.k) → m.k + 1 < mK m.raw → lands false [] fun y => y.mats = pre ++ [m']) ∧
          (rest = [] → m.k + 1 = mK m.raw → mayFinish x m.raw = true →
            let o := matStep x.opfile m' b
            lands false [] fun y => y.opfile = x.opfile ∧ y.mats = pre ++ [{ m' with
              blocks := [], k := 0, acc := [], comp := [], got := [], asks := [], fresh := true
              latch := some { blk := b, acc := o.1, comp := o.2.1 } }])) ∧
        lands true [] fun y => y.mats = pre) ∧
      (∀ pre v, x.stage = none → x.mats = [] → x.vecs = pre ++ [v] → v.need = n :: rest →
        let v' : VecRun := { v with need := rest, got := v.got ++ [got] }
        (engineGoes s.dev c = false → lands false [] fun y => y.vecs = pre ++ [v']) ∧
        (v.asks.length = 4 → (∀ a ∈ v.asks, a.left = [] ∧ vGroups v.raw ≤ a.step) → (∃ y ∈ rest, y.step = v.pos) →
          lands false [] fun y => y.vecs = pre ++ [v']) ∧
        lands true [] fun y => y.vecs = pre)) ∧
    (∀ m ms, x.mats = m :: ms → m.dest = (frm, 64) → addr ∈ m.acks →
      acked false (fun y => y.mats = { m with acks := eraseFirst (fun a => a == addr) m.acks } :: ms) ∧ acked true fun y => y.mats = ms) ∧
    (∀ v vs, x.vecs = v :: vs → v.y0.dest = (frm, 64) → addr ∈ v.y0.acks →
      acked false (fun y => y.vecs = { v with y0 := { v.y0 with acks := eraseFirst (fun a => a == addr) v.y0.acks } } :: vs) ∧
      acked true fun y => y.vecs = vs) ∧
    (∀ g m e es ecc, n.port = port → n.frm = none → port ≠ 10 → x.stage = some g → g.need = n :: rest → pwMode (gPort g.raw) = 2 →
      engineGoes s.dev c = true → takeMember x (pwQueue (gPort g.raw)) = some m → qComb (activeData x) m = false → (queueOf x m).st = .open →
      (queueOf x m).entries = e :: es →
      (ecc ≠ .upset → ∃ t, exec (.queueEntryTaken c port ecc) s = .next t ∧ NoRecord s t ∧
        stageTook g { g with need := rest, landed := g.landed + 1 } (padTo 64 (e.pay.take 64)) (cellAt t.dev c) ∧
        queueOf (cellAt t.dev c) m = { queueOf x m with entries := es }) ∧
      (ecc = .upset → ∃ t, exec (.queueEntryTaken c port ecc) s = .next t ∧ Recorded s t (recordAt s c 0x0306 1 (activeId x) none m 0) ∧
        queueOf (cellAt t.dev c) m = { queueOf x m with entries := es } ∧ (cellAt t.dev c).opfile = x.opfile)) ∧
    (∀ q parts es, qComb (activeData x) q = true → senderStopped s.dev (.cell c) = false →
      combSlot (prodsOf s.dev c q) (queueOf x q) = some parts →
      let one (es : List QEntry) (p : Nat) : List QEntry := eraseFirst (fun e => srcCode e.src == p && e.slot == (queueOf x q).slot) es
      let bad := ((prodsOf s.dev c q).zip es).filter fun p => p.2 == .upset
      (bad = [] → ∃ t, exec (.combineSlotDeliver c q es) s = .next t ∧ NoRecord s t ∧
        queueOf (cellAt t.dev c) q = { queueOf x q with
          entries := (prodsOf s.dev c q).foldl one (queueOf x q).entries
          ready := (queueOf x q).ready ++ [(combineLines (qCfmt (activeData x) q) parts).1], slot := (queueOf x q).slot + 1 }) ∧
      (∀ b, bad = [b] → ∃ t, exec (.combineSlotDeliver c q es) s = .next t ∧ Recorded s t (recordAt s c 0x0306 1 (activeId x) none q 0) ∧
        (queueOf (cellAt t.dev c) q).ready = (queueOf x q).ready ∧ (queueOf (cellAt t.dev c) q).slot = (queueOf x q).slot ∧
        (queueOf (cellAt t.dev c) q).entries = one (queueOf x q).entries b.1))

/-! ### Movers and device memory -/

/-- R178, R318-R320, R323, R324, R326, R328: the first request of a frame's queue starts on the lowest idle mover; a failing
check is recorded against the cell that asked; an empty MOVE raises its signal at once; any other asks for its first 64
source lines, at Noun cells and at the agents of their controllers, each request with a tag of its own; a request whose
every access has been answered raises its signal and sends its handle. That it asks for at most 64 lines at first, and
reads before it writes, are the model's choices (notes/assumptions/13, 27). -/
def Obligations.MoverRequestsStartAndComplete : Prop :=
  ∀ (f : Nat) (q : MReq) (rest : List MReq) (id : MoverId) (cl : Clause) (off : Nat) (raw : List Byte) (s : State),
    let src := moverSrc id
    let key := moverKey id
    let i : Instr := .moverRequestStart f
    let add (cl : Clause) (off : Nat) (r : List Byte) (x w : Nat) : Body :=
      .sigOp .add { src := src, frame := x, word := w, v := BitVec.ofNat 64 (fld r 0x6E 2), clause := cl.id, off := off }
    (f < 4 → moversRun s.dev = true → frameQueue s.dev f = q :: rest → (∀ k, frameOf k = f → (cellAt s.dev k).conj.mreqs = []) →
      clauseOf s.dev q.clause = some cl → cl.held = false → (∀ h ∈ s.dev.ctl.holds, h.clause ≠ q.clause) → windowOpen s.dev = false →
      (reqDesc s.dev q = none → idleMover s.dev f none = some id →
        ∃ t, exec i s = .next t ∧ Recorded s t (recordAt s q.cell 0x0602 1 q.clause none 0xFFFF q.idx) ∧
          t.dev.movers = { s.dev.movers with queue := NMap.set [] s.dev.movers.queue f rest }) ∧
      (reqDesc s.dev q = some (off, raw) → idleMover s.dev f (moveDie (moveParams raw q.p0 q.p1)) = some id →
        let ch := moveChecks s.otp.ordering cl raw q.p0 q.p1
        let r := ch.1
        (∀ e, ch.2 = some e → ∃ t, exec i s = .next t ∧ Recorded s t (recordAt s q.cell e.1 1 q.clause (some off) e.2.1 e.2.2) ∧
          t.dev.movers = { s.dev.movers with queue := NMap.set [] s.dev.movers.queue f rest }) ∧
        (∀ x w, ch.2 = none → moveEmpty r = true → vmFlag r 4 = false → signalPlace cl (fld r 4 2) = some (x, w) →
          ∃ t, exec i s = .next t ∧ NoRecord s t ∧ Injects s.dev.mesh.flits t src (.store x) (add cl off r x w)) ∧
        (ch.2 = none → moveEmpty r = false → moveRaise r = false → moveReads r ≠ [] → (∀ a ∈ moveReads r, placeOf 0 a ≠ .remote) →
          let asks := ((moveReads r).take 64).zipIdx
          ∃ t u, exec i s = .next t ∧ NoRecord s t ∧ moverRun t.dev key = some u ∧ u.req = q ∧ u.off = off ∧ u.raw = r ∧
            u.readsOut = asks.map (fun p => (p.2, p.1)) ∧ u.reads = (moveReads r).drop 64 ∧ u.writes = moveWrites r ∧ t.dev.tiers = s.dev.tiers ∧
            let k := moverRank u
            let agent (a : Nat) : Src := readAgent s.dev id a
            InjectsAll s.dev.mesh.flits t (asks.filterMap fun p =>
              if placeOf 0 p.1 = .window then some (src, .cell (windowCell p.1).1, .nounRead (vmSrcPort r) (windowCell p.1).2 q.clause off)
              else if agent p.1 = src then none else some (src, agent p.1, .memRead p.2 k.1 k.2 p.1)) ∧
            t.dev.movers.wires = s.dev.movers.wires ++ asks.filterMap fun p =>
              if placeOf 0 p.1 ≠ .window ∧ agent p.1 = src then some (id, [.memRead p.2 k.1 k.2 p.1]) else none))) ∧
    (∀ r, moverRun s.dev key = some r → r.reads = [] → r.writes = [] → r.quiet = true → moverGoes s.dev r = true →
      clauseOf s.dev r.req.clause = some cl → ∀ x w, signalPlace cl (fld r.raw 4 2) = some (x, w) →
      (vmFlag r.raw 4 = false →
        ∃ t, exec (.moverComplete id) s = .next t ∧ NoRecord s t ∧ Injects s.dev.mesh.flits t src (.store x) (add cl r.off r.raw x w)) ∧
      (vmFlag r.raw 4 = true →
        let n := BitVec.ofNat 64 (fld r.raw 0x78 4)
        let handle := padTo 64 (slice r.raw 0x7C 2 ++ leBytes 6 (vmDst r.raw) ++ leBytes 4 (vmExt r.raw 0 * vmExt r.raw 1 * vmExt r.raw 2) ++
          leBytes 1 r.req.p1.toNat ++ slice r.raw 0x7E 1 ++ [0, 0])
        ∃ t g, exec (.moverComplete id) s = .next t ∧ NoRecord s t ∧ InjectsAll s.dev.mesh.flits t
          [(src, .store x, add cl r.off r.raw x w), (src, .cell (nameCell cl n), .qmsg (nameQ n) g (vmFlag r.raw 2) handle)]))

/-- R314, R315, R317-R319, R354-R356: what a memory controller does with a line of a mover: a read answers the bytes that
stand at the line's place in its stack or device; an uncorrectable error is recorded, poisons the line and answers
refused; a write stores its enabled bytes and no other; the first write of an epoch to a granule waits until the committed
copy stands in the working copy; a ledger lookup that fails in both copies is device-fatal and refuses the access; a
copied page comes from its spare. A record gives the memory address of the line (the model's reading,
notes/assumptions/20). How a mover reaches a controller is the model's choice (notes/assumptions/23), and so is which
accesses are a host stream's (notes/assumptions/46, 68). -/
def Obligations.MemoryControllersServeMovers : Prop :=
  ∀ (id : MoverId) (tag k0 k1 addr : Nat) (line : List Byte) (en : W64) (agent : Src) (u : Dev) (r : MoverRun) (s : State),
    let here := rankGoes s.dev id tag = true ∧ (tag < 128 → moverRun s.dev (moverKey id) = some r)
    let rp := if readsCommitted s.dev id tag = true then committedPlace s.dev addr else readPlace s.dev addr
    let wp := writePlace s.dev addr
    let ra := memAgent s.dev id rp
    let wa := memAgent s.dev id wp
    let rk := memKey s.dev rp
    let wk := memKey s.dev wp
    let reads := here ∧ memOn s.dev rp = true ∧ s.asks id (isMemRead tag) [.memRead tag k0 k1 addr] agent u
    let writes := here ∧ memOn s.dev wp = true ∧ s.asks id (isMemWrite tag) [.memWrite tag k0 k1 addr en, .memLine line] agent u ∧ olderWrite s.dev id tag addr = false ∧
      (∀ x, delivOn s.dev id = some x → x.passes = false)
    let upset (pa : Nat) : FaultRec :=
      if tag < 128 then recordAt s r.req.cell 0x0603 1 r.req.clause (some r.off) pa (devNumber (memDevice s.dev pa))
      else plainRecord 0x0603 1 (ownerOf s.dev addr) pa (devNumber (memDevice s.dev pa))
    (reads → pageCopying s.dev rp = false → rk ∉ s.dev.tiers.poison →
      (∃ t, exec (.moverReadLine id tag .good .good) s = .next t ∧ NoRecord s t ∧ t.dev.tiers = s.dev.tiers ∧ t.otp = s.otp ∧
        MemReplies u t id ra (.memData tag (s.dev.tiers.mem.rdN rk 64))) ∧
      (∃ t, exec (.moverReadLine id tag .upset .good) s = .next t ∧ rk ∈ t.dev.tiers.poison ∧ t.dev.tiers.mem = s.dev.tiers.mem ∧
        RecordedFirst s t (upset rp) ∧ MemReplies u t id ra (.memRefused tag))) ∧
    (reads → pageCopying s.dev rp = false → rk ∈ s.dev.tiers.poison → ∀ e,
      ∃ t, exec (.moverReadLine id tag e .good) s = .next t ∧ t.dev.tiers = s.dev.tiers ∧ Recorded s t (upset rp) ∧
        MemReplies u t id ra (.memRefused tag)) ∧
    (reads → durableAt s.dev addr ≠ none → ∀ e,
      ∃ t, exec (.moverReadLine id tag e .upset) s = .next t ∧ t.dev.tiers = s.dev.tiers ∧ Recorded s t (plainRecord 0x0907 2 0 0 0) ∧
        MemReplies u t id ra (.memRefused tag)) ∧
    (writes → pageCopying s.dev wp = false → (s.dev.epoch.enable = false ∨ durableAt s.dev addr = none) →
      (en = BitVec.allOnes 64 ∨ wk ∉ s.dev.tiers.poison) →
      ∃ t, exec (.moverWriteLine id tag line .good .good) s = .next t ∧ NoRecord s t ∧ t.otp = s.otp ∧
        t.dev.tiers.mem = s.dev.tiers.mem.wrLine wk line en ∧ MemReplies u t id wa (.memAck tag) ∧
        (en = BitVec.allOnes 64 → wk ∉ t.dev.tiers.poison) ∧
        (∀ b, (b < wk ∨ wk + 64 ≤ b ∨ en.getLsbD (b - wk) = false) → t.dev.tiers.mem.rd b = s.dev.tiers.mem.rd b)) ∧
    (∀ c v, writes → s.dev.epoch.enable = true → durableAt s.dev addr = some (c, v) →
      (∀ k ∈ s.dev.epoch.cows, k.granule ≠ granuleAt v addr) → ledgerW s.dev (granuleAt v addr) = false →
      runCovers r.raw (v.copy0 + (granuleAt v addr - v.g0) * Config.granuleBytes) = false →
      ∃ t, exec (.moverWriteLine id tag line .good .good) s = .next t ∧ NoRecord s t ∧ t.dev.tiers = s.dev.tiers ∧ Silent u t ∧
        t.dev.epoch = { s.dev.epoch with cows := s.dev.epoch.cows ++
          [{ granule := granuleAt v addr, whole := none, waiting := [{ src := moverSrc id, tag := tag, addr := addr, wr := some (line, en) }] }] }) ∧
    (∀ g v b, s.dev.epoch.cows.find? (fun c => c.granule == g) = some { granule := g, whole := none, waiting := [] } →
      granulePlace s.dev g = some (v, b) →
      let n := Config.granuleBytes / 4096
      let from_ := copyPlace v (ledgerC s.dev g) b
      let to_ := copyPlace v (!ledgerC s.dev g) b
      let page (x i : Nat) : Nat := memKey s.dev (x + 4096 * i) / 4096
      from_ % 4096 = 0 → to_ % 4096 = 0 → (∀ i j, i < n → j < n → page to_ i ≠ page from_ j ∧ (page to_ i = page to_ j → i = j)) →
      ∃ t, exec (.copyBeforeWriteDone g) s = .next t ∧ NoRecord s t ∧ ledgerW t.dev g = true ∧ t.dev.epoch.cow = s.dev.epoch.cow + 1 ∧
        (∀ k, k < Config.granuleBytes → memByte t.dev (to_ + k) = memByte s.dev (from_ + k)) ∧
        (∀ x, (∀ i, i < n → x / 4096 ≠ page to_ i) → t.dev.tiers.mem.rd x = s.dev.tiers.mem.rd x)) ∧
    (∀ (lp : Bool) (dev page : Nat),
      let k := if lp = true then 8 + dev else dev
      let used := NMap.get 0 s.dev.tiers.sparesUsed k
      (k, page) ∈ s.dev.tiers.copying → s.dev.tiers.waiting = [] → s.otp.retired = [] → s.dev.health.extra = [] → used < 262144 →
      ∃ t, exec (.pageSpareCopyDone lp dev page) s = .next t ∧ physPage t.dev k page = 24903680 + used ∧
        NMap.get 0 t.dev.tiers.sparesUsed k = used + 1 ∧ t.dev.tiers.mem = s.dev.tiers.mem ∧
        t.otp.retired = [pageEntry k (physPage s.dev k page)])

/-- R319, R323, R249: read data with the tag of a read fills the mover's buffer, and after the last source line the writes
leave in copy order; an acknowledged write is no longer awaited; a refused access stops the request, which issues nothing
further. That the writes follow the last read is the model's choice (notes/assumptions/13). An arrival happens where its
flits stand, and else changes nothing (the model's choice, notes/assumptions/2). -/
def Obligations.MoverRepliesAdvanceTheRequest : Prop :=
  ∀ (id : MoverId) (tag addr : Nat) (line : List Byte) (r : MoverRun) (u : Dev) (s : State),
    let src := moverSrc id
    let key := moverKey id
    let l := padTo 64 (line.take 64)
    let byTag (p : Nat × Nat) : Bool := p.1 == tag
    let byAddr (p : Nat × Nat) : Bool := p.2 == addr
    let took (f : Nat × Nat → Bool) : MoverRun := { r with readsOut := eraseFirst f r.readsOut, buf := NMap.insert r.buf (addr / 64) (some l) }
    let acked (f : Nat × Nat → Bool) : MoverRun := { r with writesOut := eraseFirst f r.writesOut }
    let data := s.replied id (fun b => decide (b = .memData tag line)) (.memData tag line) u ∧ r.readsOut.find? byTag = some (tag, addr)
    moverRun s.dev key = some r → r.stopped = false → r.done = false →
    (data → r.reads = [] → 2 ≤ r.readsOut.length →
      ∃ t, exec (.moverReadData id tag line) s = .next t ∧ NoRecord s t ∧ moverRun t.dev key = some (took byTag) ∧ Silent u t) ∧
    (data → r.reads = [] → r.readsOut.length = 1 → r.writesOut = [] → r.sends = [] → r.fab = [] → r.writes.length ≤ 64 → vmQdst r.raw = false →
      (∀ w ∈ r.writes, placeOf 0 w.addr = .hbm ∨ placeOf 0 w.addr = .lp) → moverGoes s.dev r = true →
      let ws := r.writes.zipIdx
      let k := moverRank r
      let agent (w : MWrite) : Src := writeAgent s.dev id w.addr
      let msg (p : MWrite × Nat) : List Body := [.memWrite p.2 k.1 k.2 p.1.addr (spanEn p.1.lo p.1.n), .memLine ((took byTag).lineOf p.1)]
      ∃ t, exec (.moverReadData id tag line) s = .next t ∧ NoRecord s t ∧
        moverRun t.dev key = some { took byTag with writes := [], writesOut := ws.map fun p => (p.2, p.1.addr) } ∧
        InjectsAll u.mesh.flits t ((ws.filter fun p => decide (agent p.1 ≠ src)).flatMap fun p => (msg p).map fun b => (src, agent p.1, b)) ∧
        t.dev.movers.wires = u.movers.wires ++ (ws.filter fun p => decide (agent p.1 = src)).map fun p => (id, msg p)) ∧
    (s.replied id (fun b => decide (b = .memAck tag)) (.memAck tag) u → r.reads = [] → r.writes = [] → r.writesOut.any byTag = true →
      ∃ t, exec (.moverWriteAck id tag) s = .next t ∧ NoRecord s t ∧ moverRun t.dev key = some (acked byTag) ∧ Silent u t) ∧
    (s.replied id (fun b => decide (b = .memRefused tag)) (.memRefused tag) u → r.writesOut.any byTag = true → (acked byTag).quiet = false →
      ∃ t, exec (.moverRefused id tag) s = .next t ∧ NoRecord s t ∧ Silent u t ∧
        moverRun t.dev key = some { acked byTag with reads := [], writes := [], stopped := true }) ∧
    (∀ frm p byte, addr = windowAddr frm byte → s.arrives (.cell frm) src [.nounData frm p byte false line] →
      r.readsOut.any byAddr = true → r.reads = [] → 2 ≤ r.readsOut.length →
      ∃ t, exec (.nounReadData src frm p byte false line) s = .next t ∧ NoRecord s t ∧ moverRun t.dev key = some (took byAddr) ∧
        t.dev.mesh.flits = s.landed (.cell frm) src [.nounData frm p byte false line]) ∧
    (∀ frm p byte, addr = windowAddr frm byte → s.arrives (.cell frm) src [.nounAck frm p byte false] → r.reads = [] → r.writes = [] → r.writesOut.any byAddr = true →
      ∃ t, exec (.nounWriteAck src frm p byte false) s = .next t ∧ NoRecord s t ∧ moverRun t.dev key = some (acked byAddr))

/-! ### Routers and tables -/

/-- R74, R76-R80, R84, R87, R271: a flit enters its router's local buffer while no table change drains; the head of a buffer
that its output grants takes one hop a command, along its row to its column first and then along the column, into a
powered router with room; at a blocked output it begins the detour of the table's entry in VC1; one with a double-bit
error is discarded, with the other flit of its message, and recorded for the clauses it could belong to; an undefined
class is discarded and counted; new tables wait for the flits injected under the old ones. The start of the rotation is
the model's choice (notes/assumptions/55), as are that a change waits from phase 0 on (notes/assumptions/17) and that the
other flit goes (notes/assumptions/79). -/
def Obligations.RoutersForwardFlits : Prop :=
  ∀ (n : Nat) (f : Flit) (o : Dir) (s : State),
    let m := s.dev.mesh
    let goal : Dir := if f.mx < f.dmx then .e else if f.dmx < f.mx then .w else if f.my < f.dmy then .s else .n
    let e := detourAt m.detour f.my f.mx o
    let dest (d : Dir) : Nat × Nat := match d with
      | .n => (f.my - 1, f.mx)
      | .s => (f.my + 1, f.mx)
      | .e => (f.my, f.mx + 1)
      | .w => (f.my, f.mx - 1)
    let inp (d : Dir) : Nat := dirCode (dirOpp d)
    let granted_ (d : Dir) : NMap Nat := NMap.set 0 m.grants ((f.my * 72 + f.mx) * 4 + dirCode d) (f.inp + 1)
    let moved (d : Dir) (vc : Nat) (v : Option Detour) (k : Nat) : State := { s with dev := { s.dev with mesh := { m with
      grants := granted_ d, stamp := m.stamp + 1, corrected := m.corrected + k
      flits := m.flits.set n { f with my := (dest d).1, mx := (dest d).2, vc := vc, det := v, inp := inp d, stamp := m.stamp } } } }
    let may (d : Dir) (vc : Nat) : Prop := bufferHead m.flits f = true ∧ granted m f d = true ∧
      routerOn s.dev (physAt (dest d).1 (dest d).2) = true ∧ bufferRoom m.flits (dest d).1 (dest d).2 (inp d) vc = true
    let moves (e : Ecc) : Instr := .routerForward n e
    (m.flits[n]? = some f → f.inj = true → f.det = none → f.dmy < 64 → f.dmx < 72 → o = goal → (f.my, f.mx) ≠ (f.dmy, f.dmx) →
      (e.blocked = false → may o f.vc →
        exec (moves .good) s = .next (moved o f.vc none 0) ∧
        exec (moves .corrected) s = .next (moved o f.vc none 1) ∧
        (∃ t, exec (moves .upset) s = .next t ∧ t.dev.mesh = { m with grants := granted_ o, flits := dropMessage n m.flits } ∧ t.dev.cells = s.dev.cells ∧
          (flitPart f.body = 0 → t.dev.mesh.flits = m.flits.eraseIdx n) ∧
          t.dev.health.total = s.dev.health.total + (activeInFrame s.dev (physFrame (physAt (dest o).1 (dest o).2))).length)) ∧
      (e.blocked = true → linkAt f.my f.mx e.jog = true → (detourAt m.detour f.my f.mx e.jog).blocked = false → may e.jog 1 →
        exec (moves .good) s = .next (moved e.jog 1 (some { jog := e.jog, jogLeft := e.jogHops - 1, pass := o, passLeft := e.pass }) 0))) ∧
    (m.flits[n]? = some f → f.inj = false →
      (m.drain = true → exec (moves .good) s = .next s) ∧
      (m.drain = false → bufferHead m.flits f = true → routerOn s.dev (physAt f.my f.mx) = true → bufferRoom m.flits f.my f.mx f.inp f.vc = true →
        exec (moves .good) s = .next { s with dev := { s.dev with mesh := { m with
          stamp := m.stamp + 1, flits := m.flits.set n { f with inj := true, stamp := m.stamp } } } })) ∧
    (∀ p cls, 0xD ≤ cls → cls ≤ 0xF → p < 4608 →
      let x := cellP s.dev p
      let cells := NMap.set {} s.dev.cells p { x with win := { x.win with badFlits := min (2 ^ 32 - 1) (x.win.badFlits + 1) } }
      exec (.badFlit p cls) s = .next { s with dev := { s.dev with cells := cells } }) ∧
    (∀ r t, m.next = some (r, t) →
      (m.drain = false → s.dev.beat.cyc ≠ 0 → exec .tableChange s = .next s) ∧
      (m.drain = true ∨ s.dev.beat.cyc = 0 →
        ((∃ f ∈ m.flits, f.inj = true) → exec .tableChange s = .next { s with dev := { s.dev with mesh := { m with drain := true } } }) ∧
        ((∀ f ∈ m.flits, f.inj = false) →
          ∃ u, exec .tableChange s = .next u ∧ u.dev.mesh.remap = r ∧ u.dev.mesh.detour = t ∧ u.dev.mesh.next = none ∧ u.dev.mesh.drain = false)))

/-! ### The beat and its sources -/

/-- R336, R337, R524: an edge advances the count by one modulo 2^64, restarts the phase and takes up a period that was
written; the throttle step decided at the edge before comes into force, and the next is the greatest of the schedule,
power and thermal steps; before the device has completed its reset there is no edge. That there is no edge before the
reset is complete is the model's reading (notes/assumptions/5). -/
def Obligations.BeatEdgeAdvancesTheCount : Prop :=
  ∀ (m : Measure) (s : State),
    (booted s.dev = true → ∃ t, exec (.beatEdge m) s = .next t ∧ t.dev.beat.count = (s.dev.beat.count + 1) % 2 ^ 64 ∧ t.dev.beat.cyc = 0 ∧
      t.dev.beat.period = s.dev.beat.periodNext.getD s.dev.beat.period ∧ t.dev.beat.periodNext = none ∧
      t.dev.power.step = s.dev.power.stepNext ∧
      t.dev.power.stepNext = max t.dev.power.schedStep (max t.dev.power.powerStep t.dev.power.thermStep) ∧
      (s.dev.power.limit < m.power16 → t.dev.power.powerStep = min 15 (s.dev.power.powerStep + 1)) ∧
      t.dev.power.powerW = m.power1024 ∧ t.dev.power.temps = m.temps) ∧
    (booted s.dev = false → exec (.beatEdge m) s = .next s)

/-- R339-R347, R369, R380, R385, R396: what each event of the beat sources does: the symbols and the code of BEAT_IN and its
missing pulses, the timestamps of PTP, beat frames and echoes; a lost source gives way to the next and the change is
recorded. Its corners, and where a PTP request is sent, are the model's (notes/assumptions/30, 39, 71). -/
def Obligations.BeatSourcesFollowTheirSignals : Prop :=
  ∀ (w seq rx cnt edge tx p lseq : Nat) (dev t1 t2 : Int) (s : State),
    let b := s.dev.beat
    let is (i : Instr) (u : BeatUnit) : Prop := exec i s = .next { s with dev := { s.dev with beat := u } }
    let up := booted s.dev = true
    let x3 := fabPort s.dev 3
    let takes (p : Nat) : Prop := p < 6 ∧ fabUp s.dev p = true ∧ ((fabPort s.dev p).p2p = true → lseq = (fabPort s.dev p).rxSeq)
    let far := ∃ x, b.biPrev = some x ∧ 8 * (dev - x).natAbs > b.period * 21 / 20
    let got : BeatUnit := { b with biMiss := 0, biSince := b.biSince + 1, biZeros := 0, biDist := dev
                                   biPrev := some (if b.srcUsed = 1 ∧ b.slew = 0 then 0 else dev) }
    let missed : BeatUnit := { b with biMiss := b.biMiss + 1, biBits := none, biInvalid := if b.biBits.isSome then b.biInvalid + 1 else b.biInvalid }
    let off := t2 - t1 - b.ptpDelay
    let good := if off.natAbs ≤ 50 then b.ptpGood + 1 else 0
    let frac := ((t1 + b.ptpDelay - b.originNs) % (max 1 b.period : Nat)).toNat
    let sync (cyc : Nat) : BeatUnit := { b with ptpT1 := t1, ptpT2 := t2, ptpOffset := off, ptpGood := good, ptpDist := edgeDist s.dev cyc frac (max 1 b.period) }
    (up → srcOn s.dev 1 = true → ¬far → b.biCode = none →
      (200 ≤ w → w ≤ 240 → is (.beatInPulse w dev) { got with biBits := some [], biInvalid := if b.biBits.isSome then b.biInvalid + 1 else b.biInvalid }) ∧
      (∀ bs, b.biBits = some bs → bs.length < 95 →
        (40 ≤ w → w ≤ 80 → is (.beatInPulse w dev) { got with biBits := some (false :: bs) }) ∧
        (100 ≤ w → w ≤ 140 → is (.beatInPulse w dev) { got with biBits := some (true :: bs) })) ∧
      (∀ bs c, b.biBits = some bs → bs.length = 95 → b.biLocked = false → markCode b.period (false :: bs).reverse = some c → 40 ≤ w → w ≤ 80 →
        is (.beatInPulse w dev) { got with biBits := none, biCode := some c, biSince := 96 })) ∧
    (up → srcOn s.dev 1 = true → (far ∨ w < 40 ∨ 240 < w) → b.biLocked = true → is (.beatInPulse w dev) { missed with biSince := b.biSince + 1 }) ∧
    (up → srcOn s.dev 1 = true → far → b.biLocked = false →
      is (.beatInPulse w dev) { missed with biCode := none, biZeros := 0, biPrev := some dev }) ∧
    (up → srcOn s.dev 1 = true → b.biLocked = true → is .beatInMissing { missed with biSince := b.biSince + 1 }) ∧
    (up → srcOn s.dev 1 = true → b.biLocked = false → is .beatInMissing { missed with biCode := none, biZeros := 0 }) ∧
    (up → b.biLocked = true → 16 ≤ b.biMiss → b.srcUsed = 1 → srcOn s.dev 2 = false → srcOn s.dev 4 = false →
      ∃ t, exec .beatInLost s = .next t ∧ t.dev.beat.biLocked = false ∧ t.dev.beat.srcUsed = 8 ∧ Recorded s t (plainRecord 0x0904 0 0 (1 * 256 + 8) 0)) ∧
    (ptpLive s.dev = true → is (.ptpSync seq t1 t2 true b.ptpDomain) { b with ptpWait := some (seq, t2, b.count, b.cyc) }) ∧
    (ptpLive s.dev = true → p ≠ b.ptpDomain → is (.ptpSync seq t1 t2 true p) b) ∧
    (ptpLive s.dev = true → b.ptpLocked = false → good < 16 → is (.ptpSync seq t1 t2 false b.ptpDomain) (sync b.cyc)) ∧
    (ptpLive s.dev = true → b.ptpLocked = false → good < 16 → b.ptpWait = some (seq, t2, cnt, w) →
      is (.ptpFollowUp seq t1 b.ptpDomain) { sync w with ptpWait := none }) ∧
    (ptpLive s.dev = true →
      let tx := Tx.ptpDelayReq b.ptpPort seq (hostEther s.dev b.ptpPort ptpMac) :: s.dev.tx
      exec (.ptpDelayReqSend seq t1) s = .next { s with dev := { s.dev with beat := { b with ptpT3 := some (seq, t1), ptpSeq := seq }, tx := tx } }) ∧
    (ptpLive s.dev = true → b.ptpT3 = some (seq, t1) →
      let delay := ((b.ptpT2 - b.ptpT1) + (t2 - t1)) / 2
      is (.ptpDelayResp seq t2 b.ptpDomain) { b with ptpT3 := none, ptpDelay := delay, ptpOffset := b.ptpT2 - b.ptpT1 - delay }) ∧
    (up → b.ptpLocked = true → ∃ t, exec .ptpLost s = .next t ∧ t.dev.beat.ptpLocked = false ∧ t.dev.beat.ptpGood = 0) ∧
    (takes 3 → s.dev.power.straps.master = false → srcOn s.dev 4 = false →
      (∃ t, exec (.beatFrame rx cnt edge b.period tx lseq) s = .next t ∧ t.dev.beat.bfCount = cnt ∧ t.dev.beat.bfEdge = (rx : Int) - b.bfDelay + edge ∧
        t.dev.health = s.dev.health ∧ ((fabPort s.dev 2).st = .up → FrameLeaves t 2 6 0 (beatPayload cnt (wrapN 64 ((rx : Int) - b.bfDelay + edge - tx)) b.period))) ∧
      (∀ per, per ≠ b.period → ∃ t, exec (.beatFrame rx cnt edge per tx lseq) s = .next t ∧ t.dev.beat = b ∧ (fabPort t.dev 3).discarded = x3.discarded + 1)) ∧
    (takes 3 → s.dev.power.straps.master = true → ∀ per, ∃ t, exec (.beatFrame rx cnt edge per tx lseq) s = .next t ∧ NoRecord s t ∧ t.dev.beat = b ∧
      (x3.p2p = true → (fabPort t.dev 3).rxSeq = (x3.rxSeq + 1) % 0x10000)) ∧
    (up → (fabPort s.dev 2).st = .lost → s.dev.power.straps.master = true → b.count % 16 = 0 →
      ∃ t, exec (.beatFrameSend tx edge) s = .next t ∧ NoRecord s t ∧ (fabPort t.dev 2).discarded = (fabPort s.dev 2).discarded + 1 ∧ t.dev.tx = s.dev.tx) ∧
    (up → x3.st = .lost → s.dev.power.straps.master = false → b.count % 1024 = 0 →
      ∃ t, exec (.echoSend rx) s = .next t ∧ NoRecord s t ∧ (fabPort t.dev 3).discarded = x3.discarded + 1 ∧ t.dev.tx = s.dev.tx) ∧
    (fabUp s.dev 2 = true → s.dev.power.straps.master = true → b.count % 16 = 0 →
      ∃ t, exec (.beatFrameSend tx edge) s = .next t ∧ FrameLeaves t 2 6 0 (beatPayload ((b.count + 1) % 2 ^ 64) edge b.period)) ∧
    (up → b.bfLocked = true → ∃ t, exec .beatFrameLost s = .next t ∧ t.dev.beat.bfLocked = false) ∧
    (fabUp s.dev 3 = true → s.dev.power.straps.master = false → b.count % 1024 = 0 →
      ∃ t, exec (.echoSend rx) s = .next t ∧ t.dev.beat = { b with echoT1 := some rx } ∧ FrameLeaves t 3 7 0 (beBytes 8 rx)) ∧
    (takes p → ∃ t, exec (.echoReq p rx cnt edge lseq) s = .next t ∧ FrameLeaves t p 8 0 (beBytes 8 rx ++ beBytes 8 cnt ++ beBytes 8 edge)) ∧
    (takes 3 → b.echoT1 = some rx → ∃ t, exec (.echoRsp rx cnt edge tx lseq) s = .next t ∧
      t.dev.beat = { b with echoT1 := none, bfDelay := (((tx : Int) - rx) - ((edge : Int) - cnt)) / 2 })

/-! ### Fabric ports and host ports -/

/-- R368, R378-R382, R395-R398: acknowledgements clear the replay buffer and bring credits; a NAK or a timeout resends what
remains; a hello brings a training port up with fresh sequence numbers; the spare lane replaces a failed lane and is
recorded; a silent, unlocked, unanswering or changed neighbour is lost, and one of which two lanes failed stays lost when
it says hello. Its corners are the model's readings (notes/assumptions/41). -/
def Obligations.LinkControlKeepsTheLink : Prop :=
  ∀ (p lane : Nat) (mac : List Byte) (lc : LinkCtrl) (prio : Nat) (pause : Bool) (s : State),
    let x := fabPort s.dev p
    let up := p < 6 ∧ fabUp s.dev p = true
    let p2p := x.mode < 2
    let mine : LinkCtrl := { ackSeq := (x.rxSeq + 0xFFFF) % 0x10000, lane := 0, cred0 := x.freed0, cred1 := x.freed1, fabricId := s.dev.ports.fabricId % 2 ^ 24,
                             port := p, caps := if p2p then 1 else 0, mode := x.mode, spareLseq := 0 }
    let ether (kind : Nat) : Ether := if kind = 2 ∧ p2p then { dst := List.replicate 6 0xff } else fabEther s.dev p 1
    let sent (i : Instr) (kind : Nat) (l : LinkCtrl) : Prop := exec i s = .next { s with dev := { s.dev with tx := .link p kind l (ether kind) :: s.dev.tx } }
    let left := x.replay.filter fun f => decide (0x8000 ≤ (lc.ackSeq + 0x10000 - f.h.lseq) % 0x10000)
    let again (fs : List FFrame) : List Tx := (fs.map fun f => Tx.fabric p f (fabEther s.dev p (frameClass f.ty))).reverse ++ s.dev.tx
    let acked : FabPort := { x with replay := left, resent := x.resent.drop (x.replay.length - left.length), cred0 := lc.cred0, cred1 := lc.cred1 }
    let more (l : List FFrame) (r : List Nat) : List Nat := l.zipIdx.map fun f => r.getD f.2 0 + 1
    let lost (i : Instr) (cause : Nat) : Prop :=
      ∃ t, exec i s = .next t ∧ (fabPort t.dev p).st = .lost ∧ (fabPort t.dev p).replay = [] ∧
        (x.replay = [] → x.waiting = [] → Recorded s t (plainRecord 0x0701 0 0 (p * 256 + cause) x.peerId))
    let spares (i : Instr) (ls : Nat) : Prop :=
      ∃ t, exec i s = .next t ∧ (fabPort t.dev p).spared = some lc.lane ∧ (fabPort t.dev p).spareGo = some (lc.lane, ls) ∧
        (fabPort t.dev p).replay = left ∧ (fabPort t.dev p).cred0 = lc.cred0 ∧ (fabPort t.dev p).cred1 = lc.cred1 ∧
        Recorded s t (plainRecord 0x0704 0 0 (p * 256 + lc.lane) 0) ∧ t.otp = { s.otp with retired := s.otp.retired ++ [8 * 2 ^ 60 + p * 2 ^ 48 + lc.lane] }
    (up → p2p → x.waiting = [] →
      (∃ t, exec (.linkCtrlAck p lc) s = .next t ∧ fabPort t.dev p = acked ∧ t.dev.tx = s.dev.tx) ∧
      (s.dev.ctl.state ≠ .inert → lc.fabricId = x.peerId → lc.port = x.peerPort →
        ∃ t, exec (.hello p lc mac) s = .next t ∧ fabPort t.dev p = acked ∧ t.dev.tx = s.dev.tx) ∧
      (left ≠ [] → ∃ t, exec (.linkCtrlNak p lc) s = .next t ∧ fabPort t.dev p = { acked with resent := more left acked.resent } ∧ t.dev.tx = again left) ∧
      (x.replay ≠ [] → ∃ t, exec (.replayTimeout p) s = .next t ∧ fabPort t.dev p = { x with resent := more x.replay x.resent } ∧ t.dev.tx = again x.replay)) ∧
    (up → sent (.linkCtrlSend p) 0 mine) ∧
    (p < 6 → booted s.dev = true → s.dev.ctl.state ≠ .inert → (x.st = .training ∨ x.st = .up) → sent (.helloSend p) 2 mine) ∧
    (p < 6 → booted s.dev = true → s.dev.ctl.state ≠ .inert → x.st = .training →
      (x.lanesOut = some lc.fabricId → exec (.hello p lc mac) s = .next s) ∧
      (x.lanesOut ≠ some lc.fabricId → lc.port = p ^^^ 1 → ∃ t, exec (.hello p lc mac) s = .next t ∧ NoRecord s t ∧ (fabPort t.dev p).st = .up ∧ (fabPort t.dev p).peerId = lc.fabricId ∧
        (fabPort t.dev p).peerPort = lc.port ∧ (fabPort t.dev p).peerMac = mac ∧ (fabPort t.dev p).txSeq = 0 ∧ (fabPort t.dev p).rxSeq = 0 ∧ (fabPort t.dev p).replay = [] ∧
        (fabPort t.dev p).used0 = 0 ∧ (fabPort t.dev p).cred0 = 0) ∧
      (x.lanesOut ≠ some lc.fabricId → lc.port ≠ p ^^^ 1 → ∃ t, exec (.hello p lc mac) s = .next t ∧ (fabPort t.dev p).st = .training ∧
        Recorded s t (plainRecord 0x0706 0 0 (p * 256 + lc.port % 8) 0))) ∧
    (up → s.dev.ctl.state ≠ .inert → (lc.fabricId ≠ x.peerId ∨ lc.port ≠ x.peerPort) → lost (.hello p lc mac) 4) ∧
    (up → (p2p ∨ x.pause4 = false) → lost (.neighbourSilence p) 1) ∧ (up → lost (.pcsLockLoss p) 2) ∧
    (up → p2p → (∃ n ∈ x.resent, 8 ≤ n) → lost (.resendLimit p) 3) ∧
    (up → p2p → x.peerMode < 2 → x.peerCaps % 2 = 1 →
      (x.spared = none → lane < 8 → sent (.laneFailure p lane) 3 { mine with lane := lane }) ∧
      (∀ l, x.spared = some l → l ≠ lane → lane ≤ 8 → lost (.laneFailure p lane) 5 ∧
        ∃ t, exec (.laneFailure p lane) s = .next t ∧ (fabPort t.dev p).lanesOut = some x.peerId) ∧
      (x.spared = none → lc.lane < 8 → x.waiting = [] → s.otp.retired.length < 32768 →
        spares (.spareReq p lc) x.txSeq ∧ spares (.spareGo p lc.lane lc.spareLseq lc) lc.spareLseq)) ∧
    (up → ¬p2p → x.waiting = [] →
      let f (y : FabPort) : FabPort := { y with pause3 := if prio = 3 then pause else y.pause3, pause4 := if prio = 4 then pause else y.pause4 }
      exec (.pfcFrame p prio pause) s = .next { s with dev := updFab p f s.dev })

/-- R308, R309, R354, R382-R394: a frame that has crossed its route and that a grant covers is delivered by the lowest idle
mover of its port's die, or where none is idle by the lowest whose request may not issue, or waits for one; its answer
leaves on the reverse route once the mover's accesses are answered; without a grant, or into a COPY1 range, it is recorded
and refused; one under way passes on where pass-through is enabled, by a mover to the other die, and else is discarded and
recorded; an answer reaches the mover that awaits its tag. That a waiting frame stays in its port's receive buffer is the
model's reading (notes/assumptions/68). A one-line WRITE applies both edge masks, and a frame of an undefined TYPE or VER
consumes its LSEQ (notes/assumptions/41); FABRIC_TIMEOUT's detail words are zero (notes/assumptions/20). -/
def Obligations.FabricFramesAreServed : Prop :=
  ∀ (p m : Nat) (h : FabHdr) (first last amount : W64) (line : List Byte) (g : Dir) (s : State),
    let x := fabPort s.dev p
    let takes := p < 6 ∧ fabUp s.dev p = true ∧ (x.p2p = true → h.lseq = x.rxSeq)
    let here := takes ∧ h.pos = routeTotal h.route
    let die := if p < 3 then 0 else 1
    let id : MoverId := .io die m
    let answers (t : State) (h : FabHdr) (ty result : Nat) (pay : List Byte) : Prop :=
      let back := routePort (routeBack h.route)
      (fabPort s.dev back).st = .up → FrameLeaves t back ty result pay
    let write : Instr := .fabricWrite p h first last [line]
    let raise : Instr := .fabricRaise p h amount
    let read : Instr := .fabricReadReq p h 64
    let plain := h.target % 64 = 0 ∧ placeOf 0 h.target = .hbm ∧ s.dev.epoch.enable = false ∧ inCopy1 s.dev h.target = false
    let barred := h.target % 64 = 0 ∧ (grantFor s.dev true h.target 64 = none ∨ inCopy1 s.dev h.target = true)
    let body := padTo 64 (line.take 64)
    let job (h : FabHdr) (j : Job) : Deliv := { die := die, port := p, h := h, job := j }
    let queues (i : Instr) (x : Deliv) (out : List (Nat × Nat)) (f : State → Prop) : Prop :=
      let adds (x : Deliv) (t : State) : Prop := exec i s = .next t ∧ NoRecord s t ∧ t.dev.tiers = s.dev.tiers ∧ t.dev.ports.deliv = s.dev.ports.deliv ++ [x]
      ((∀ k < 8, moverFree s.dev (.io die k) = false) → ∃ t, adds x t ∧ t.dev.mesh = s.dev.mesh ∧ t.dev.movers = s.dev.movers) ∧
      (m < 8 → (moverIdle s.dev id = true ∧ (∀ k < m, moverIdle s.dev (.io die k) = false) ∨
          (∀ k < 8, moverIdle s.dev (.io die k) = false) ∧ moverFree s.dev id = true ∧ ∀ k < m, moverFree s.dev (.io die k) = false) →
        (∀ y ∈ s.dev.ports.deliv, x.follows y = false ∧ ¬(y.die = die ∧ y.mover = none)) →
        ∃ t, adds { x with mover := some m, out := out } t ∧ f t)
    let f := (signalWord h.target).1
    let w := (signalWord h.target).2
    let add : SigReq := { src := moverSrc id, frame := f, word := w, v := amount, clause := (sigWord s.dev f w).owner, off := 0, kind := .remote }
    let named (r : FaultRec) : Prop := r.d1 = (p * 2 ^ 24 + h.srcId % 2 ^ 24) % 2 ^ 32
    (here → plain → grantFor s.dev true h.target 64 = some g →
      queues write (job h (.write g [(h.target, body, first &&& last)])) [(128, h.target)] fun t =>
        MemSends s t id (writeAgent s.dev id h.target) [.memWrite 128 2 0 h.target (first &&& last), .memLine body]) ∧
    (here → barred →
      ∃ t r, exec write s = .next t ∧ Recorded s t r ∧ r.code = 0x0705 ∧ r.severity = 0 ∧ named r ∧ answers t h 5 1 [] ∧ t.dev.tiers = s.dev.tiers) ∧
    (here → plain → grantFor s.dev false h.target 64 = some g →
      queues read (job h (.read g [h.target])) [(128, h.target)] fun t => MemSends s t id (readAgent s.dev id h.target) [.memRead 128 2 0 h.target]) ∧
    (here → placeOf 0 h.target = .signal → queues raise (job h (.raise amount)) [] fun t =>
      t.dev.movers = s.dev.movers ∧ Injects s.dev.mesh.flits t (moverSrc id) (.store f) (.sigOp .add add) ∧
      t.dev.sig = { s.dev.sig with sent := s.dev.sig.sent ++ [{ src := moverSrc id, f := f, why := .deliv }] }) ∧
    (takes → h.pos ≠ routeTotal h.route →
      let e := legAt (routeLegs h.route) h.pos
      let goes := e < 6 ∧ bit s.dev.ports.passEn (6 * p + e) = true ∧ (fabPort s.dev e).st = .up
      let fr : FFrame := { ty := 2, h := { h with pos := h.pos + 1 }, pay := beBytes 8 amount.toNat }
      (goes → portDie e = portDie p → ∃ t, exec raise s = .next t ∧ NoRecord s t ∧ FrameLeaves t e 2 h.result fr.pay ∧ t.dev.sig = s.dev.sig) ∧
      (goes → portDie e ≠ portDie p → queues raise (job fr.h (.pass e fr)) [(128, 0)] fun t =>
        MemSends s t id (.ioDie (1 - die)) [.memWrite 128 2 0 0 (BitVec.allOnes 64), .memLine (padTo 64 (fabBytes fr))]) ∧
      (¬goes → s.dev.ports.passRec = none → ∃ t r, exec raise s = .next t ∧ Recorded s t r ∧ r.code = 0x0709 ∧ named r ∧ t.dev.sig = s.dev.sig)) ∧
    (∀ i y tag a u, let v : MoverId := .io i m
      moverRun s.dev (moverKey v) = none → delivOn s.dev v = some y → (∀ z ∈ s.dev.ports.deliv, ¬(z.die = i ∧ z.mover = none)) →
      let ends (i_ : Instr) (f : State → Prop) : Prop := ∃ t, exec i_ s = .next t ∧ NoRecord s t ∧
        t.dev.ports.deliv = eraseFirst (fun z => z.die == i && z.mover == some m) s.dev.ports.deliv ∧ f t
      let got (p : Body → Bool) (b : Body) : Prop := s.replied v p b u ∧ y.out = [(tag, a)]
      let acked := got (fun b => decide (b = .memAck tag)) (.memAck tag)
      (∀ gr ls, y.job = .write gr ls → y.refused = false →
        (acked → ends (.moverWriteAck v tag) fun t => answers t y.h 5 0 []) ∧
        (got (fun b => decide (b = .memRefused tag)) (.memRefused tag) → ends (.moverRefused v tag) fun t => answers t y.h 5 1 [])) ∧
      (∀ gr, y.job = .read gr [a] → y.refused = false →
        got (fun b => decide (b = .memData tag line)) (.memData tag line) → ends (.moverReadData v tag line) fun t => answers t y.h 4 0 body) ∧
      (∀ n r, y.job = .raise n → s.dev.sig.sent.find? (fun z => decide (z.src = moverSrc v) && z.f == f) = some { src := moverSrc v, f := f, why := .deliv } →
        s.arrives (.store f) (moverSrc v) [.sigReply f .done r] → ends (.signalReplyDone (moverSrc v) f r) fun t => answers t y.h 5 0 []) ∧
      (∀ e fr, y.job = .pass e fr →
        (acked → (fabPort s.dev e).st = .up → ends (.moverWriteAck v tag) fun t => FrameLeaves t e fr.ty fr.h.result fr.pay) ∧
        (∀ k1 k2 b en l, s.asks v (isMemWrite tag) [.memWrite tag k1 k2 b en, .memLine l] (.ioDie (1 - i)) u → olderWrite s.dev v tag b = false → 128 ≤ tag →
          ∃ t, exec (.moverWriteLine v tag l .good .good) s = .next t ∧ NoRecord s t ∧ t.dev.tiers = s.dev.tiers ∧
            MemReplies u t v (.ioDie (1 - i)) (.memAck tag)))) ∧
    (∀ k y r tg, here → moverOfTag s.dev h.tag = some (k, y) → moverRun s.dev k = some r → r.reads = [] → r.stopped = false → r.done = false →
      let fab := eraseFirst (fun g => g.tag == y.tag) r.fab
      let at_ (q : Nat × Nat) : Bool := q.2 == y.addr
      let stops (i : Instr) (code d0 d1 : Nat) : Prop := ∃ t, exec i s = .next t ∧ Recorded s t (recordAt s r.req.cell code 1 r.req.clause (some r.off) d0 d1)
      (y.ty = 3 → h.result = 0 → r.readsOut.find? at_ = some (tg, y.addr) → 2 ≤ r.readsOut.length →
        ∃ t, exec (.fabricReadData p h line) s = .next t ∧ NoRecord s t ∧ moverRun t.dev k = some { r with
          fab := fab, readsOut := eraseFirst at_ r.readsOut, buf := NMap.insert r.buf (y.addr / 64) (some body) }) ∧
      (y.ty ≠ 3 → h.result = 0 → r.writes = [] →
        ∃ t, exec (.fabricAck p h) s = .next t ∧ NoRecord s t ∧ moverRun t.dev k = some { r with fab := fab }) ∧
      (y.ty = 1 → h.result = 1 → stops (.fabricAck p h) 0x0601 (256 + 5) y.target) ∧
      (y.ty = 2 → h.result = 1 → stops (.fabricAck p h) 0x0703 y.target 0) ∧
      (y.ty = 3 → h.result = 1 → stops (.fabricReadData p h line) 0x0601 5 y.target) ∧
      (h.result = 2 → stops (.fabricAck p h) 0x0702 (y.port * 256 + remoteHop y.addr) 0)) ∧
    (∀ id r y, moverRun s.dev (moverKey id) = some r → r.stopped = false → y ∈ r.fab → y.beat + s.dev.ports.ackTimeout ≤ s.dev.beat.count →
      booted s.dev = true → ∃ t, exec (.fabricAckTimeout id) s = .next t ∧ Recorded s t (recordAt s r.req.cell 0x0707 1 r.req.clause (some r.off) 0 0)) ∧
    (takes → ∀ notice, ∃ t, exec (.linkNotice p h.lseq notice) s = .next t ∧ NoRecord s t ∧
      t.dev.ports.notices = (let l := s.dev.ports.notices ++ [(padTo 24 (notice.take 24)).take 16 ++ List.replicate 8 0]; l.drop (l.length - 16))) ∧
    (p < 6 → fabUp s.dev p = true →
      (∃ t, exec (.fabricFrameRejected p) s = .next t ∧ fabPort t.dev p = { x with discarded := x.discarded + 1 } ∧
        (x.p2p = true → ∃ lc e, t.dev.tx = .link p 1 lc e :: s.dev.tx ∧ lc.ackSeq = (x.rxSeq + 0xFFFF) % 0x10000)) ∧
      (∀ hdr, (fldBE hdr 0 1 ≠ 1 ∨ fldBE hdr 1 1 = 0 ∨ 11 < fldBE hdr 1 1) → (x.p2p = true → fldBE hdr 0x0C 2 = x.rxSeq) →
        ∃ t, exec (.fabricFrameDiscarded p hdr) s = .next t ∧ NoRecord s t ∧ (fabPort t.dev p).discarded = x.discarded + 1 ∧
          (fabPort t.dev p).rxSeq = if x.p2p then (x.rxSeq + 1) % 0x10000 else x.rxSeq))

/-- R369, R371-R375, R399: a host port answers ARP, neighbour solicitations and echo requests for the addresses that it holds
and uses; duplicate address detection takes an address into use or records another holder; the link and the discards are
kept. The probe of duplicate address detection, which leaves from 0.0.0.0 as the link comes up, is the model's
(notes/assumptions/71). -/
def Obligations.HostPortsAnswerTheNetwork : Prop :=
  ∀ (p : Nat) (mac ip data : List Byte) (rate kind : Nat) (why : HostDrop) (s : State),
    let h := hostPort s.dev p
    let mac0 := beBytes 6 (beNat s.otp.macBase + p)
    let answers (i : Instr) (k : Nat) (bs : List Byte) : Prop := exec i s = .next { s with dev := { s.dev with tx := .net p ip k bs (hostEther s.dev p mac) :: s.dev.tx } }
    let port (i : Instr) (f : HostPort → HostPort) : Prop := exec i s = .next { s with dev := updHost p f s.dev }
    let use (v : Bool) (h : HostPort) : HostPort := match kind with
      | 0 => { h with use4 := v }
      | 1 => { h with useLl := v }
      | _ => { h with use6 := v }
    let drops : Prop := match why with
      | .flowControl | .fragment | .extension | .checksum => True
      | .oversize n => 9216 < n
      | .vlan t => t ≠ if h.vlan = 0 then none else some (h.vlan % 0x1000)
      | .etherType t => t ≠ 0x0800 ∧ t ≠ 0x86DD ∧ t ≠ 0x0806
      | .udpPort u => u ≠ s.dev.ports.belufUdp ∧ u ≠ s.dev.ports.bulkUdp ∧ ¬(p = s.dev.beat.ptpPort ∧ (u = 319 ∨ u = 320))
    (hostLive s.dev p = true →
      (h.use4 = true → h.ipv4.length = 4 → answers (.arpRequest p mac ip h.ipv4) 1 (mac0 ++ h.ipv4)) ∧
      (h.use6 = true → h.ipv6.length = 16 → answers (.neighbourSolicitation p mac ip h.ipv6) 2 (mac0 ++ h.ipv6)) ∧
      (h.useLl = true → answers (.neighbourSolicitation p mac ip (linkLocal s.otp p)) 2 (mac0 ++ linkLocal s.otp p)) ∧
      (h.use4 = true → data.length ≤ 1472 → answers (.icmpEcho p mac ip h.ipv4 data) 3 data) ∧
      (kind ≤ 2 → port (.duplicateAddressDetection p kind false) (use true)) ∧
      (kind ≤ 2 → ∃ t, exec (.duplicateAddressDetection p kind true) s = .next t ∧ t.dev.ports = (updHost p (use false) s.dev).ports ∧
        Recorded s t (plainRecord 0x0708 0 0 (p * 256 + kind) 0)) ∧
      (drops → port (.hostPacketDiscarded p why) (fun h => { h with discarded := h.discarded + 1 }))) ∧
    (p < 2 → s.dev.power.boot ≠ .down → hostPowered s.dev p = true → 1 ≤ rate → rate ≤ 3 →
      ∃ t, exec (.hostLinkUp p rate) s = .next t ∧ NoRecord s t ∧ t.dev.ports = (updHost p (fun h => { h with link := rate }) s.dev).ports ∧
        (booted s.dev = false → t.dev.tx = s.dev.tx) ∧
        (booted s.dev = true → h.use4 = true → h.useLl = true → h.use6 = true → s.dev.ports.mcast.all (· == 0) = true → t.dev.tx = s.dev.tx) ∧
        (booted s.dev = true → h.use4 = false → .net p (List.replicate 4 0) 5 h.ipv4 (hostEther s.dev p (List.replicate 6 0xff)) ∈ t.dev.tx)) ∧
    (p < 2 → port (.hostLinkDown p) (fun h => { h with link := 0 }))

/-! ### The schedule, sentences, switches and epochs -/

/-- R349, R351, R352, R533: each action of a schedule entry whose turn has come, and what becomes of the entry; an action on a
clause, sentence or signal that does not exist is recorded. Its corners are the model's readings (notes/assumptions/40). -/
def Obligations.ScheduleEntriesAct : Prop :=
  ∀ (n : Nat) (cl : Clause) (s : State),
    let e := schedEntry s.dev n
    let arg (i : Nat) : Nat := e.arg0 / 2 ^ (16 * i) % 2 ^ 16
    let after : SchedEntry := if e.period = 0 then { e with fired := true, valid := false } else { e with beat := e.beat + e.period }
    let acts (i : Instr) (code : Nat) (f : State → Prop) : Prop := e.action = code → ∃ t, exec i s = .next t ∧ schedEntry t.dev n = after ∧ f t
    let bad (i : Instr) (code cause : Nat) : Prop := acts i code fun t => Recorded s t (plainRecord 0x0908 0 0 n cause)
    let loaded := clauseOf s.dev (arg 0) = some cl
    let sw : Switch := { outs := [arg 0, arg 2].filter (· != 0), ins := [arg 1, arg 3].filter (· != 0), src := .entry n, beat := s.dev.beat.count,
                         first := s.dev.beat.count, grace := e.arg1 % 2 ^ 8, stage := .go }
    let named := ∀ i < 4, arg i = 0 ∨ (clauseOf s.dev (arg i)).isSome = true
    booted s.dev = true → s.dev.ctl.state = .running → entryTurn s.dev n = true →
    (named → sw.outs ++ sw.ins ≠ [] → holdsBack s.dev sw = none →
      acts (.schedSwitch n) 1 fun t => NoRecord s t ∧ t.dev.plan.switches = s.dev.plan.switches ++ [sw]) ∧
    (∀ id, named → sw.outs ++ sw.ins ≠ [] → holdsBack s.dev sw = some id →
      acts (.schedSwitch n) 1 fun t => Recorded s t (plainRecord 0x0902 0 id (0xFFFF0000 + n) 0) ∧
        t.dev.plan.switches = s.dev.plan.switches ++ [{ sw with stage := .late }]) ∧
    (¬named → bad (.schedSwitch n) 1 1) ∧
    (arg 0 = 0xFFFF → acts (.schedHold n) 2 fun t => t.dev.ctl.state = .held ∧ t.dev.ctl.heldCause = 2) ∧
    (loaded → arg 0 ≠ 0xFFFF → acts (.schedHold n) 2 fun t => clauseOf t.dev (arg 0) = some { cl with held := true } ∧ t.dev.ctl = s.dev.ctl) ∧
    (∀ q, sentenceOf s.dev (arg 0) = some q →
      (bit e.arg0 16 = false → acts (.schedSentenceStart n) 3 fun t => sentenceOf t.dev (arg 0) =
        some { q with running := true, held := false, start := s.dev.beat.count, rep := 0, next := 0 }) ∧
      (bit e.arg0 16 = true → acts (.schedSentenceStop n) 3 fun t => sentenceOf t.dev (arg 0) = some { q with running := false })) ∧
    (sentenceOf s.dev (arg 0) = none → bit e.arg0 16 = false → bad (.schedSentenceStart n) 3 2) ∧
    (∀ c q, loaded → c ∈ cl.cells → (activeSlot (cellAt s.dev c)).isSome = true → activeId (cellAt s.dev c) = cl.id → q < 64 → bit e.arg1 q = true →
      qUsed (activeData (cellAt s.dev c)) q = true →
      (acts (.schedQopenSet n) 4 fun t => (queueOf (cellAt t.dev c) q).st = .open) ∧
      (((queueOf (cellAt s.dev c) q).gen ≠ 0 ∨ qComb (activeData (cellAt s.dev c)) q = false ∧ (queueOf (cellAt s.dev c) q).entries ≠ []) →
        acts (.schedQcloseSet n) 5 fun t => (queueOf (cellAt t.dev c) q).st ≠ .open)) ∧
    (clauseOf s.dev (arg 0) = none → bad (.schedQopenSet n) 4 1 ∧ bad (.schedQcloseSet n) 5 1 ∧ bad (.schedRaise n) 6 1) ∧
    (loaded →
      let i := e.arg0 / 2 ^ 16 % 2 ^ 12
      (∀ f w, i < cl.signals → runAt cl.runs i = some (f, w) →
        acts (.schedRaise n) 6 fun t => Injects s.dev.mesh.flits t (.ioDie (f / 2)) (.store f)
          (.sigOp .add { src := .ioDie (f / 2), frame := f, word := w, v := BitVec.ofNat 64 e.arg1, clause := cl.id, off := 0 })) ∧
      (cl.signals ≤ i → bad (.schedRaise n) 6 3)) ∧
    (∀ f j u, f < 4 → e.arg0 / 2 ^ 32 % 2 ^ 4 = 2 ^ f → s.dev.health.jigs[f]? = some j → j.running = none →
      let kind := e.arg0 % 2 ^ 8
      unitFor (retireMap s.otp s.dev) s.dev f kind (arg 1) = some u →
      acts (.schedSelftest n) 7 fun t => (∀ p ∈ unitCells f kind u, (cellP s.dev p).fence ≠ .retired → (cellP t.dev p).fence = .byJig) ∧
        t.dev.health.jigs[f]? = some { j with running := some { kind := kind, unit_ := u, beat := s.dev.beat.count, r := sliceBeats s.dev kind, op := none } }) ∧
    (acts (.schedAbandon n) 9 fun t => t.dev.ctl.state = .held ∧ t.dev.ctl.heldCause = 2 ∧ t.dev.epoch.abandoning = true ∧ t.dev.epoch.commitNow = none) ∧
    (acts (.schedThrottle n) 0xA fun t => NoRecord s t ∧ t.dev.power = { s.dev.power with
      schedStep := e.arg0 % 2 ^ 4, stepNext := max (e.arg0 % 2 ^ 4) (max s.dev.power.powerStep s.dev.power.thermStep) })

/-- R50-R53, R55, R57-R59: a step of a sentence fills a slot or begins a switch and the sentence goes on; a switch closes its
outgoing clauses out, activates its incoming ones a beat later and starts their cores a beat after that; a late switch
waits for its grace and then holds the device. Its corners are the model's readings (notes/assumptions/25, 40). -/
def Obligations.SentencesAndSwitchesProceed : Prop :=
  ∀ (sid k id : Nat) (q : Sentence) (st : Step) (w : Switch) (cl : Clause) (s : State),
    let now := s.dev.beat.count
    let runs := booted s.dev = true ∧ s.dev.ctl.state = .running
    let due (kind : Nat) := runs ∧ sentenceOf s.dev sid = some q ∧ stepDue s.dev q = some st ∧ stepTurn s.dev sid = true ∧ st.kind = kind
    let next : Sentence :=
      if q.next + 1 < q.steps.length then { q with next := q.next + 1 }
      else if q.repeats ≠ 0 ∧ q.repeats ≤ q.rep + 1 then { q with next := 0, rep := q.rep + 1, running := false }
      else { q with next := 0, rep := q.rep + 1 }
    let sw : Switch := { outs := [st.outId, st.outId2].filter (· != 0), ins := [st.inId, st.inId2].filter (· != 0), src := .step q.id q.next,
                         beat := now, first := now, grace := st.grace, stage := .go }
    let has (s : State) (c : LCell) : Slot := slotOf (cellAt s.dev c) cl.slot
    (due 0 → st.inId ≠ 0 → clauseOf s.dev st.inId = some cl → clauseFilling s.dev cl = false → clauseActive s.dev cl = false →
      ∃ t, exec (.sentenceFill sid) s = .next t ∧ sentenceOf t.dev sid = some next ∧ clauseOf t.dev st.inId = some { cl with filling := true } ∧
        ∀ c ∈ cl.cells, (has t c).st = if (has s c).st = .empty then .empty else .filling) ∧
    (due 1 → sw.outs ++ sw.ins ≠ [] →
      (holdsBack s.dev sw = none → ∃ t, exec (.sentenceSwitch sid) s = .next t ∧ NoRecord s t ∧ sentenceOf t.dev sid = some next ∧
        t.dev.plan.switches = s.dev.plan.switches ++ [sw]) ∧
      (∀ i, holdsBack s.dev sw = some i → ∃ t, exec (.sentenceSwitch sid) s = .next t ∧ sentenceOf t.dev sid = some next ∧
        Recorded s t (plainRecord 0x0902 0 i (q.id * 2 ^ 16 + q.next) 0) ∧
        t.dev.plan.switches = s.dev.plan.switches ++ [{ sw with stage := .late }])) ∧
    (booted s.dev = true → clauseOf s.dev id = some cl → cl.filling = true →
      ∃ t, exec (.fillComplete id) s = .next t ∧ clauseOf t.dev id = some { cl with filling := false, activated := false } ∧
        ∀ c ∈ cl.cells, (has s c).st ≠ .empty → (has t c).clause = cl.id ∧ ((has t c).st = .resident ∨ (has t c).st = .active)) ∧
    (runs → switchAt s.dev k = some w → w.stage = .go → w.beat = now → id ∈ w.outs → clauseOf s.dev id = some cl →
      ∃ t, exec (.switchCloseOut k) s = .next t ∧ (∀ c ∈ cl.cells, ¬((has t c).st = .active ∧ (has t c).clause = cl.id)) ∧
        switchAt t.dev k = some { w with stage := if w.ins = [] then .active else .closed }) ∧
    (inRun s.dev = true → switchAt s.dev k = some w → w.stage = .closed → w.beat + 1 ≤ now → w.ins = [id] → clauseOf s.dev id = some cl →
      ((∀ c ∈ cl.cells, activeSlot (cellAt s.dev c) = none) →
        ∃ t, exec (.switchActivateIn k) s = .next t ∧ (∀ c ∈ cl.cells, (has t c).st = .active) ∧ switchAt t.dev k = some { w with stage := .active } ∧
          clauseOf t.dev id = some { cl with actGen := if cl.activated then (cl.actGen + 1) % 256 else 0, activated := true, ceilRec := false }) ∧
      (∀ c, busyCell s.dev cl = some c →
        ∃ t, exec (.switchActivateIn k) s = .next t ∧ Recorded s t (recordAt s c 0x0903 1 id none 0 0) ∧ t.dev.cells = s.dev.cells ∧
          switchAt t.dev k = some { w with stage := .active, ins := [] })) ∧
    (inRun s.dev = true → switchAt s.dev k = some w → w.stage = .active → w.beat + 2 ≤ now → w.ins = [id] → clauseOf s.dev id = some cl →
      ∃ t, exec (.switchStartIn k) s = .next t ∧ NoRecord s t ∧ t.dev.plan.switches = s.dev.plan.switches.eraseIdx k ∧
        ∀ c ∈ cl.cells, kindAt c.row c.col = .conj → (activeSlot (cellAt s.dev c)).isSome = true →
          slotOfClause (cellAt s.dev c) cl.id = activeSlot (cellAt s.dev c) →
          (cellAt t.dev c).conj.st = .running ∧ (cellAt t.dev c).conj.pc = 0) ∧
    (runs → switchAt s.dev k = some w → w.stage = .late → w.beat < now → now ≤ w.first + w.grace →
      ∃ t, exec (.switchLateRecheck k) s = .next t ∧ NoRecord s t ∧
        switchAt t.dev k = some { w with beat := now, stage := if holdsBack s.dev w = none then .go else .late }) ∧
    (runs → switchAt s.dev k = some w → w.stage = .late → w.beat = now → w.first + w.grace ≤ now → holdsBack s.dev w = some id →
      ∃ t, exec (.switchGraceExpiry k) s = .next t ∧ Recorded s t (plainRecord 0x0902 1 id w.src.word w.grace) ∧
        t.dev.plan.switches = s.dev.plan.switches.eraseIdx k ∧ t.dev.ctl.state = .held ∧ t.dev.ctl.heldCause = 4 ∧
        (∀ i ∈ w.outs, ∀ c, clauseOf t.dev i = some c → c.held = true))

/-- R357-R365: the commit window opens; at the commit beat a drained epoch is committed by inverting C of every written
granule and clearing W, once no segment of a durable read stream is being read, and one that is not drained is missed,
recorded, and holds the device; a commit asked for flips once it is drained; an abandon that has come to rest clears W.
Its corners are the model's readings (notes/assumptions/42). -/
def Obligations.EpochsCommitOrAreMissed : Prop :=
  ∀ (s : State),
    let k := s.dev.epoch
    let c := (schedEntry s.dev 0).beat
    let now := s.dev.beat.count
    let index := (((c : Int) - k.origin) / (max 1 k.beats : Nat) - 1).toNat
    let flipped (t : State) : Prop :=
      t.dev.epoch.c = k.w.foldl (fun m g => NMap.upd false m g.1 not) k.c ∧ t.dev.epoch.w = [] ∧ t.dev.epoch.state = 0 ∧
      t.dev.epoch.committed = index ∧ t.dev.epoch.committedBeat = now ∧ t.dev.tiers.mem = s.dev.tiers.mem ∧ NoRecord s t
    (booted s.dev = true → k.enable = true → k.state = 0 → c ≤ now + k.window → now < c →
      exec .commitWindowOpen s = .next { s with dev := { s.dev with epoch := { k with state := 1 } } }) ∧
    (inRun s.dev = true → k.enable = true → commitDue s.dev = true →
      (drained s.dev = true → segmentRead s.dev = false → k.heldWrites = [] → ∃ t, exec .commit s = .next t ∧ flipped t) ∧
      (drained s.dev = true → segmentRead s.dev = true → exec .commit s = .next s) ∧
      (drained s.dev = false → ∃ t, exec .commit s = .next t ∧ t.dev.epoch = { k with state := 2 } ∧ t.dev.ctl.state = .held ∧
        (s.dev.ctl.state = .running → t.dev.ctl.heldCause = 5) ∧ Recorded s t (plainRecord 0x0901 0 0 index (unackedWrites s.dev)))) ∧
    (∀ op, booted s.dev = true → k.commitNow = some op → k.state = 2 → drained s.dev = true → segmentRead s.dev = false → k.heldWrites = [] → (opOf s.dev op).state < 3 →
      ∃ t, exec .commitNowFlip s = .next t ∧ flipped t ∧ t.dev.epoch.commitNow = none ∧ (opOf t.dev op).state = 3 ∧ (opOf t.dev op).result = 0) ∧
    (booted s.dev = true → k.abandoning = true → durableRuns s.dev = [] → k.cows = [] → durableDelivs s.dev = 0 →
      ∃ t, exec .abandonComplete s = .next t ∧ NoRecord s t ∧
        t.dev.epoch = { k with w := [], state := 3, abandoning := false, abandonOps := [], winRec := false } ∧
        ∀ o ∈ k.abandonOps, (opOf s.dev o).state < 3 → (opOf t.dev o).state = 3)

/-! ### Requests of the host -/

/-- R429-R433, R435-R437, R439, R444, R449: a request of an open session is performed once and answered once: a READ with the
object's value or the first check that refuses it, a READ of a handed-off object and a WRITE of MON_SELECT later, a WRITE
with its effect; a SEQ that comes again resends the reply; a request to an address not in use is not heard, one from a
foreign source, or that finds no place in the queue, is dropped and counted, an unknown session answered SESSION; session
0 does what it may, and DISCOVER always answers; a datagram that is no frame is dropped, one that is malformed answered
FORMAT, any other served. Which STATUS comes first, session 0's own SEQ, and how fast the queue's places free are the
model's readings (notes/assumptions/32, 43, 49, 89). -/
def Obligations.RequestsAreServedOnce : Prop :=
  ∀ (r : Req) (q : Session) (k : Nat) (raw : List Byte) (s : State),
    let adm := Admitted s r r.index q
    let read := Instr.belufRead r
    let write := Instr.belufWrite r
    let reads (st : Nat) (b : List Byte) : Prop := Served read s r 1 r.index r.sub st b (OnlyAnswers s)
    let writes (st : Nat) (f : State → Prop) : Prop := Served write s r 2 r.index r.sub st [] f
    let eth := hostEther s.dev r.port r.mac
    let noted := s.noted r
    let sent (d : Dev) (b : List Byte) : State := { s with dev := { d with tx := .host r.port r.ip r.udp b eth s.dev.ports.belufUdp :: s.dev.tx } }
    let sends (i : Instr) (b : List Byte) : Prop := exec i s = .next (sent noted b)
    let drops (i : Instr) : Prop := exec i s = .next { s with dev := { s.dev with beluf := { s.dev.beluf with drops := satAdd 32 s.dev.beluf.drops 1 } } }
    let hears := hostHears s.otp s.dev r.port r.dst false = true
    let room := queueRoom 1 r s.dev = true
    let later := s.dev.beluf.deferred
    let waits (op : Nat) : State := { s with dev := { noted with beluf := { noted.beluf with deferred := later ++ [{ op := op, req := r, sels := q.sels }] } } }
    let alone := { s.dev with beluf := { s.dev.beluf with deferred := later.eraseIdx k } }
    let turn (z : Sels) (b : Bool) := later[k]? = some { op := 1, req := r, sels := z, otpOk := b } ∧
      (∀ w ∈ later.take k, ¬(w.req.session = r.session ∧ w.req.index = r.index)) ∧
      (∀ x ∈ s.dev.sig.sent, ∀ q ∈ x.why.req, ¬(q.session = r.session ∧ q.index = r.index)) ∧ r.session ≠ 0 ∧ sessionOf s.dev r.session = some q
    let spelt : Req := { port := r.port, mac := r.mac, ip := r.ip, udp := r.udp, session := fldBE raw 4 2, seq := fldBE raw 2 2, index := fldBE raw 6 2, sub := fldBE raw 8 1, data := raw.drop 16, dst := r.dst }
    let dgram := Instr.belufMalformed r.port r.ip r.udp raw r.mac r.dst
    let whole := 16 ≤ raw.length ∧ fldBE raw 0 1 = 1
    let known := fldBE raw 0x0A 2 = raw.length - 16 ∧ raw.length ≤ 8208 ∧ (fldBE raw 1 1 = 1 ∨ fldBE raw 1 1 = 2)
    (adm → objHanded r.index = false →
      (objRow r.index r.sub = none → reads 1 []) ∧
      ∀ row, objRow r.index r.sub = some row →
        (row.acc = .cmd → reads 2 []) ∧
        (row.acc ≠ .cmd → objShut s.dev r.index = true → reads 3 []) ∧
        ∀ b, row.acc ≠ .cmd → objShut s.dev r.index = false → row.get s.otp noted q.sels r.sub = .inr b → reads 0 b) ∧
    (adm → (objHanded r.index = true → exec read s = .next (waits 1)) ∧ (r.index = 0x5000 → exec write s = .next (waits 2))) ∧
    (∀ z o b, turn z o → (q.lastSeq ≠ some r.seq → objRead s.otp alone z r.index r.sub = .inr b →
        Served (.belufDeferredReply k) s r 1 r.index r.sub 0 b fun t => OnlyAnswers s t ∧ t.dev.beluf.deferred = later.eraseIdx k) ∧
      (q.lastSeq = some r.seq → exec (.belufDeferredReply k) s = .next (sent alone q.reply))) ∧
    (adm → r.index ≠ 0x5000 → (¬(r.index = 0x4201 ∧ r.sub = 1) → ∃ st b, Served write s r 2 r.index r.sub st b fun _ => True) ∧
      (∀ row, objRow r.index r.sub = some row →
        (row.acc = .ro → writes 2 (OnlyAnswers s)) ∧
        (row.acc = .rw → objSelector r.index = false → s.dev.ctl.state = .faulted → writes 3 (OnlyAnswers s))) ∧
      (r.index = 0x7000 → r.sub = 0 → s.dev.ctl.state ≠ .faulted →
        let v := beNat r.data
        (r.data.length ≠ 4 → writes 5 (OnlyAnswers s)) ∧
        (r.data.length = 4 → 1000 ≤ v → v ≤ 3800 → writes 0 fun t => t.dev = { s.dev with power := { s.dev.power with limit := v }, beluf := t.dev.beluf, tx := t.dev.tx }) ∧
        (r.data.length = 4 → (v < 1000 ∨ 3800 < v) → writes 4 (OnlyAnswers s)))) ∧
    (¬hears → exec read s = .next s ∧ exec write s = .next s) ∧
    (hears → ¬room → drops read ∧ drops write) ∧
    (hears → r.session ≠ 0 →
      (room → sessionOf s.dev r.session = none → sends read (belufFrame 1 r.seq r.session r.index r.sub 6 1 [])) ∧
      (sessionOf s.dev r.session = some q →
        ((q.ip ≠ r.ip ∨ q.udp ≠ r.udp) → drops read ∧ drops write) ∧
        (room → q.ip = r.ip → q.udp = r.udp → q.lastSeq = some r.seq → sends read q.reply ∧ sends write q.reply))) ∧
    (AdmittedZero s r r.index → zeroMay 1 r.index r.sub = false → reads 6 []) ∧
    (hostHears s.otp s.dev r.port r.dst true = true → queueRoom 8 r s.dev = true →
      (∀ z ∈ s.dev.beluf.zero, ¬(z.ip = r.ip ∧ z.udp = r.udp ∧ z.lastSeq = some r.seq)) →
      (∀ x ∈ s.dev.sig.sent, ∀ q ∈ x.why.req, ¬(q.session = r.session ∧ q.index = r.index)) →
      (∀ w ∈ later, ¬(w.req.session = r.session ∧ w.req.index = r.index)) →
      ∃ t, exec (.discover r) s = .next t ∧ OnlyAnswers s t ∧ t.dev.tx = .host r.port r.ip r.udp (belufFrame 8 r.seq 0 r.index r.sub 0 1
        ([0x48, 0x96] ++ beBytes 1 s.otp.ordering ++ beBytes 1 s.otp.stepping ++ padTo 16 s.otp.uniqueId ++ hostMac s.otp r.port ++
          beBytes 3 s.dev.ports.fabricId ++ beBytes 1 s.dev.ctl.state.code ++ beBytes 1 s.dev.config.position ++ List.replicate 9 0)) eth s.dev.ports.belufUdp :: s.dev.tx) ∧
    (hostHears s.otp s.dev r.port r.dst (fldBE raw 1 1 == 8) = true →
      (¬whole → drops dgram) ∧
      (whole → known → fldBE raw 1 1 = 1 → exec dgram s = exec (.belufRead spelt) s) ∧
      (whole → known → fldBE raw 1 1 = 2 → exec dgram s = exec (.belufWrite spelt) s) ∧
      (whole → fldBE raw 0x0A 2 ≠ raw.length - 16 → foreign spelt s.dev = false → queueRoom (fldBE raw 1 1) spelt s.dev = true →
        repeated (fldBE raw 1 1) spelt s.dev = none →
        exec dgram s = .next (sent (s.noted spelt) (belufFrame (fldBE raw 1 1) spelt.seq spelt.session spelt.index spelt.sub 8 1 []))))

/-- R306, R320, R365, R440-R442, R450-R452: a stream opens with an ID and an operation, an image stream with the load's and a
reload stream with the reload's; its data are kept in the image, or carried to memory by a mover of its port's die, and
are held once they are written and acknowledged; it closes only when every byte is held, and a memory write stream not
before every write is answered; a read stream's lines are read by such movers and leave in frames, up to its close or a
refused read. Its corners, and how the I/O die movers divide a frame's lines, are the model's readings
(notes/assumptions/46). -/
def Obligations.BulkStreamsMoveData : Prop :=
  ∀ (r : Req) (q : Session) (x : Stream) (p k seq : Nat) (ip : List Byte) (udp : Nat) (data : List Byte) (s : State),
    let adm := Admitted s r r.index q
    let b := r.data
    let kind := fldBE b 0 1
    let n := fldBE b 0x10 8
    let opens (st : Nat) : Prop := Served (.bulkOpen r) s r 4 r.index r.sub st [] (OnlyAnswers s)
    let memory := b.length = 32 ∧ 2 ≤ kind ∧ kind ≤ 4 ∧ bit (fldBE b 1 1) 0 = false ∧ 1 ≤ n ∧ n ≤ 2 ^ 40 ∧ streamOf s.dev (freeStream s.dev) = none
    let opened (k : Nat) : Stream := { id := freeStream s.dev, session := r.session, op := k, kind := kind, mcast := false, clause := fldBE b 4 2, addr := fldBE b 8 8, len := n, rate := fldBE b 0x18 4 }
    let err := memStreamErr kind (fldBE b 4 2) (fldBE b 8 8) n (fldBE b 0x18 4) s.dev
    let it := streamOf s.dev x.id = some x
    let bulk (es : List Ecc) := Instr.bulkData p ip udp x.id seq data es
    let sends := Instr.bulkReadSend x.id []
    let drops : Prop := ∀ es, exec (bulk es) s = .next { s with dev := { s.dev with beluf := { s.dev.beluf with drops := satAdd 32 s.dev.beluf.drops 1 } } }
    let off := fldBE data 0 8 % 2 ^ 40
    let a := x.addr + off
    let from_ := sessionOf s.dev x.session = some q ∧ q.ip = ip ∧ q.udp = udp
    let closes (st : Nat) (d : List Byte) (f : State → Prop) : Prop := Served (.bulkClose r) s r 6 r.index r.sub st d f
    let m := min (if x.kind = 4 then 8176 else 8184) (x.len - x.next)
    let lines := spanOfLines (x.addr + x.next) m
    let there := x.lost = false ∧ ∀ l ∈ lines, NMap.get none x.lines (l / 64) ≠ none
    let bytes := slice (lines.flatMap fun l => (NMap.get none x.lines (l / 64)).getD []) ((x.addr + x.next) % 64) m
    let eth := hostEther s.dev q.port q.mac
    let h := opHandle s.dev x.op
    let quiet := hostBusy s.dev h = false
    let frame := Tx.host q.port q.ip q.udp (belufFrame 5 (x.seq % 0x10000) x.id 0 0 0 0
      (beBytes 8 x.next ++ (if x.kind = 4 then beBytes 8 x.epoch else []) ++ bytes)) eth s.dev.ports.bulkUdp
    let id : MoverId := .io p k
    let line := data.drop 8
    let job : Deliv := hostDeliv p h (.hostWrite h [(a, line, BitVec.allOnes 64)])
    let gone (t : State) : Prop := ∀ y ∈ t.dev.beluf.streams, y.id ≠ x.id
    let image := b.length = 32 ∧ bit (fldBE b 1 1) 0 = false ∧ 1 ≤ n ∧ n ≤ 2 ^ 40 ∧ streamOf s.dev (freeStream s.dev) = none
    let openedOn (k : Nat) (f : State → Prop) : Prop := ∃ t, exec (.bulkOpen r) s = .next t ∧
      Replies t r 4 r.index r.sub 0 (beBytes 2 (freeStream s.dev) ++ beBytes 2 (opHandle t.dev k)) ∧ t.dev.beluf.streams = s.dev.beluf.streams ++ [opened k] ∧ f t
    let bs := (data.drop 8).take (x.len - off)
    let marked (y : Stream) : Prop := ∀ i, NMap.get none y.got i = if off ≤ i ∧ i < off + bs.length then some 0 else NMap.get none x.got i
    let fills (l m : Loading) : Prop := l.fail = none ∧ l.ended = none ∧ l.hdr = false ∧ l.kept = none ∧ bs ≠ [] ∧
      (firstGap (putBytes l.bytes off bs) 0 0x100).isSome = true ∧ m = { l with bytes := putBytes l.bytes off bs, last := s.dev.beat.count }
    (adm → (b.length ≠ 32 → opens 8) ∧ (b.length = 32 → (4 < kind ∨ n = 0) → opens 4) ∧
      (memory → (∀ e, err = some e → opens e) ∧ (err = none → opSlot s.dev = none → opens 7) ∧
        ∀ k, err = none → opSlot s.dev = some k →
          ∃ t, exec (.bulkOpen r) s = .next t ∧
            Replies t r 4 r.index r.sub 0 (beBytes 2 (freeStream s.dev) ++ beBytes 2 (opHandle t.dev k)) ∧ (opOf t.dev k).used = true ∧
            (∃ y, t.dev.beluf.streams = s.dev.beluf.streams ++ [y] ∧ { y with epoch := 0 } = opened k) ∧
            (3 ≤ kind → (∀ z ∈ s.dev.beluf.streams, z.kind < 3) → hostBusy t.dev (opHandle t.dev k) = true))) ∧
    (adm → image → kind = 0 → (loadingNow s.dev = none → opens 3) ∧
      ∀ l, loadingNow s.dev = some l → l.ended = none → (l.source = 0 ∨ l.source = 2) →
        ((∀ y ∈ s.dev.beluf.streams, y.kind ≠ 0) → openedOn l.op fun t => t.dev.config = s.dev.config) ∧
        ((∃ y ∈ s.dev.beluf.streams, y.kind = 0) → opens 3)) ∧
    (adm → image → kind = 1 → (s.dev.config.reloads = [] → opens 3) ∧
      ∀ y ys k, s.dev.config.reloads = y :: ys → y.mode = 1 → y.fresh = none → y.img = none → y.op = some k → (opOf s.dev k).state ≤ 1 →
        openedOn k fun t => t.dev.config = { s.dev.config with reloads := { y with img := some { source := 0, op := k, last := s.dev.beat.count } } :: ys }) ∧
    (hostLive s.dev p = true → streamOf s.dev x.id = none → drops) ∧
    (hostLive s.dev p = true → it → from_ → x.kind = 0 → 8 ≤ data.length →
      ∀ l m, loadingNow s.dev = some l → fills l m → (l.source ≠ 0 ∨ s.dev.power.straps.master = false ∨ forwards s.dev = false) → ∀ es,
      ∃ t y, exec (bulk es) s = .next t ∧ NoRecord s t ∧ t.dev.config = { s.dev.config with loading := some m } ∧
        streamOf t.dev x.id = some y ∧ marked y) ∧
    (hostLive s.dev p = true → it → from_ → x.kind = 1 → 8 ≤ data.length →
      ∀ z zs l m, s.dev.config.reloads = z :: zs → z.op = some x.op → z.img = some l → fills l m → ∀ es,
      ∃ t y, exec (bulk es) s = .next t ∧ NoRecord s t ∧ t.dev.config = { s.dev.config with reloads := { z with img := some m } :: zs } ∧
        streamOf t.dev x.id = some y ∧ marked y) ∧
    (hostLive s.dev p = true → it → sessionOf s.dev x.session = some q → (q.ip ≠ ip ∨ q.udp ≠ udp ∨ 3 ≤ x.kind) → drops) ∧
    (hostLive s.dev p = true → it → from_ → x.kind = 2 → 8 ≤ data.length → (opOf s.dev x.op).state ≠ 1 → drops) ∧
    (hostLive s.dev p = true → it → from_ → x.kind = 2 → (opOf s.dev x.op).state = 1 → data.length = 72 → off + 64 ≤ x.len → a % 64 = 0 → ∀ es,
      let adds (y : Deliv) (t : State) : Prop := exec (bulk es) s = .next t ∧ NoRecord s t ∧ t.dev.tiers = s.dev.tiers ∧ t.dev.beluf = s.dev.beluf ∧
        t.dev.cells = s.dev.cells ∧ t.dev.sig = s.dev.sig ∧ t.dev.ports.deliv = liveDelivs s.dev ++ [y]
      ((∀ i < 8, moverFree s.dev (.io p i) = false) → ∃ t, adds job t ∧ t.dev.mesh = s.dev.mesh ∧ t.dev.movers = s.dev.movers) ∧
      (k < 8 → moverIdle s.dev id = true → (∀ i < k, moverIdle s.dev (.io p i) = false) →
        (∀ y ∈ liveDelivs s.dev, job.follows y = false ∧ ¬(y.die = p ∧ y.mover = none)) →
        ∃ t, adds { job with mover := some k, out := [(128, a)] } t ∧
          MemSends s t id (writeAgent s.dev id a) [.memWrite 128 2 0 a (BitVec.allOnes 64), .memLine line])) ∧
    (∀ y tag b u, moverRun s.dev (moverKey id) = none → delivOn s.dev id = some y → y.out = [(tag, b)] → streamBy s.dev h = some x →
      (∀ z ∈ liveDelivs s.dev, ¬(z.die = p ∧ z.mover = none)) →
      let ends (i : Instr) (t : State) : Prop := exec i s = .next t ∧ NoRecord s t ∧ t.dev.tiers = s.dev.tiers ∧
        t.dev.ports.deliv = eraseFirst (fun z => z.die == p && z.mover == some k) s.dev.ports.deliv
      let got (b : Body) : Prop := s.replied id (fun c => decide (c = b)) b u
      (∀ ls l, y.job = .hostWrite h ls → ls[tag - 128]? = some (b, l, BitVec.allOnes 64) → x.addr ≤ b →
        (got (.memAck tag) → ∃ t z, ends (.moverWriteAck id tag) t ∧ streamBy t.dev h = some z ∧
          ∀ i, NMap.get none z.got i = if b - x.addr ≤ i ∧ i < b - x.addr + 64 then some 0 else NMap.get none x.got i) ∧
        (got (.memRefused tag) → ∃ t, ends (.moverRefused id tag) t ∧ t.dev.beluf = s.dev.beluf)) ∧
      (∀ c as, y.job = .hostRead h c as → NMap.wf none y.got = true → y.refused = false →
        (got (.memData tag line) → ∃ t z, ends (.moverReadData id tag line) t ∧ streamBy t.dev h = some z ∧ z.lost = x.lost ∧
          ∀ i, NMap.get none z.lines i = (if i = b / 64 then some (padTo 64 (line.take 64))
            else if NMap.get none y.got i = none then NMap.get none x.lines i else NMap.get none y.got i)) ∧
        (got (.memRefused tag) → ∃ t z, ends (.moverRefused id tag) t ∧ streamBy t.dev h = some z ∧ z.lost = true))) ∧
    (adm → hostBusy s.dev h = true → b.length = 2 → beNat b = x.id → it → x.kind = 2 →
      ∃ t w, exec (.bulkClose r) s = .next t ∧ w.op = 6 ∧ w.req = r ∧
        t.dev = { s.noted r with beluf := { (s.noted r).beluf with deferred := s.dev.beluf.deferred ++ [w] } }) ∧
    (adm → quiet → b.length = 2 → beNat b = x.id →
      (streamOf s.dev x.id = none → closes 4 [] (OnlyAnswers s)) ∧
      (it → x.session = r.session → x.kind ≤ 2 → x.mcast = false →
        (∀ l, x.kind = 0 → firstMissing x.got 0 x.len = none → loadingNow s.dev = some l → (l.source ≠ 0 ∨ s.dev.power.straps.master = false) →
          closes 0 [] fun t => gone t ∧ t.dev.config = { s.dev.config with
            loading := some { l with ended := some (if l.hdr = true ∧ x.len < hdTotal l.header then some x.len else none) } }) ∧
        (x.kind = 2 → firstMissing x.got 0 x.len = none → (opOf s.dev x.op).state < 3 →
          closes 0 [] fun t => gone t ∧ (opOf t.dev x.op).state = 3) ∧
        ∀ e, firstMissing x.got 0 x.len = some e → closes 9 (beBytes 8 e) (OnlyAnswers s))) ∧
    (it → sessionOf s.dev x.session = some q → 3 ≤ x.kind → (opOf s.dev x.op).state = 1 → hostLive s.dev q.port = true → x.next < x.len → quiet →
      (there → x.next + m < x.len → (∀ z ∈ liveDelivs s.dev, ¬(z.die = q.port ∧ z.mover = none)) →
        ∃ t y, exec sends s = .next t ∧ NoRecord s t ∧ t.dev.tiers = s.dev.tiers ∧ t.dev.tx = frame :: s.dev.tx ∧ streamOf t.dev x.id = some y ∧ y.next = x.next + m ∧ y.seq = x.seq + 1 ∧
        y.epoch = s.dev.epoch.committed ∧ hostBusy t.dev h = true) ∧
      (there → x.next + m = x.len → ∃ t, exec sends s = .next t ∧ frame ∈ t.dev.tx ∧ (opOf t.dev x.op).state = 3 ∧
        Tx.host q.port q.ip q.udp (belufFrame 6 ((x.seq + 1) % 0x10000) q.id 0 0 0 0 (beBytes 2 x.id ++ beBytes 8 x.len)) eth s.dev.ports.bulkUdp ∈ t.dev.tx ∧
        gone t) ∧
      (x.lost = true → ∃ t, exec sends s = .next t ∧ (opOf t.dev x.op).state = 5 ∧ (opOf t.dev x.op).result = 0x0603 ∧ gone t)) ∧
    (it → hostBusy s.dev h = true → 3 ≤ x.kind → exec sends s = .next s)

/-! ### Images, reloads, configuration memory -/

/-- R408, R413-R420, R445, R499: LOAD wakes the device and waits for its image; a member's frame adds its bytes and goes on
along the cascade, its first one gives the member its position, its end frame ends the image; a bad or idle image returns
the device to INERT with its notice, and one that fails as it is built keeps its measurements; a good one is built, tested
and LOADED, each once its tables may come; ARM, DISARM and the sampled start line bring it to its start beat. The order of
an image's checks and its corners are the model's readings (notes/assumptions/33, 44), and so are that the idle limit
before its time changes nothing (notes/assumptions/1), the detail words of CASC_POSITION (notes/assumptions/76), and that
a load's tables wait for phase 0 (notes/assumptions/87). -/
def Obligations.ImagesLoadAndStart : Prop :=
  ∀ (r : Req) (q : Session) (l : Loading) (p lseq sp0 : Nat) (off : W64) (data : List Byte) (low : Bool) (s : State),
    let adm (i : Nat) := Admitted s r i q
    let v := beNat r.data
    let cmd (i : Instr) (idx st : Nat) (f : State → Prop) : Prop := Served i s r 3 idx 0 st [] f
    let calm := ∀ x ∈ s.dev.ports.fab, x.replay = [] ∧ x.waiting = []
    let now := s.dev.beat.count
    let lo := loadingNow s.dev = some l
    let takes := p < 6 ∧ fabUp s.dev p = true ∧ ((fabPort s.dev p).p2p = true → lseq = (fabPort s.dev p).rxSeq)
    let byte := off.toNat % 2 ^ 40
    let sp := off.toNat / 2 ^ 56 % 2 ^ 6 + 1
    let bytes := putBytes l.bytes byte data
    let taken := lo ∧ p = 3 ∧ l.source = 1 ∧ s.dev.power.straps.master = false ∧ l.ended = none ∧ data.length ≤ 4096
    let member := taken ∧ l.chain = some sp0
    let back (t : State) : Prop := t.dev.ctl.state = .inert ∧ t.dev.config.loading = none ∧ t.dev.plan.clauses = []
    let zeroed := { s.dev with cells := NMap.mapVals {} (fun _ x => zeroCell x) s.dev.cells }
    let tested := bringShims s.otp zeroed
    let testing := booted s.dev = true ∧ s.dev.ctl.state = .loading ∧ s.dev.config.selftest = true ∧ s.dev.config.loading = some l
    let good := lo ∧ l.ended ≠ none ∧ imageErr s.otp false s.dev l = none
    (adm 0x1110 → r.data.length = 1 → s.dev.ctl.state ≠ .inert → cmd (.load r) 0x1110 3 (OnlyAnswers s)) ∧
    (∀ k, adm 0x1110 → s.dev.ctl.state = .inert → s.dev.power.fatalInert = false → s.dev.config.loading = none → r.data.length = 1 →
      (2 < v → cmd (.load r) 0x1110 4 (OnlyAnswers s)) ∧
      (v ≤ 2 → opSlot s.dev = some k →
        (s.dev.sec.identity = some 0 → Starts (.load r) s r 0x1110 k fun t => NoRecord s t ∧ t.dev.ctl.state = .loading ∧ t.dev.ctl.stateBeat = now ∧
          t.dev.config.loading = some { source := v, op := k, last := now } ∧ (opOf t.dev k).state = 1 ∧ t.dev.power.schedStep = 0 ∧
          (NMap.wf (List.replicate 32 0) s.dev.sec.measure = true → ∀ i ∈ [0, 1, 2, 5], measureOf t.dev i = List.replicate 32 0)) ∧
        (∀ e, s.dev.sec.identity = some (e + 1) → Starts (.load r) s r 0x1110 k fun t => t.dev.ctl.state = .faulted ∧
          Recorded s t (plainRecord 0x0B03 2 0 (e + 1) 0)))) ∧
    (takes → member → l.fail = none → l.hdr = false → l.kept = none → data ≠ [] → off.toNat < 2 ^ 63 → (firstGap bytes 0 0x100).isSome = true →
      ∃ t, exec (.imageFrame p lseq off data) s = .next t ∧ NoRecord s t ∧ t.dev.config.loading = some { l with bytes := bytes, last := now } ∧
        ((fabPort s.dev 2).st = .up → sp0 + 1 ≠ s.dev.config.size →
          FrameLeaves t 2 9 0 (beBytes 8 (off.toNat - off.toNat / 2 ^ 56 % 2 ^ 6 * 2 ^ 56 + sp0 % 64 * 2 ^ 56) ++ data))) ∧
    (takes → taken → l.chain = none → ∃ t y, exec (.imageFrame p lseq off data) s = .next t ∧ t.dev.config.loading = some y ∧ y.chain = some sp ∧
      (sp < 64 → t.dev.config.position = sp) ∧ (s.dev.config.size ≤ sp → y.fail = some (0x080A, sp, 0xFFFFFFFF))) ∧
    (takes → member → 2 ^ 63 ≤ off.toNat → ∃ t y, exec (.imageFrame p lseq off data) s = .next t ∧ t.dev.config.loading = some y ∧
      y.ended = some (if l.hdr = true ∧ data ≠ hdBody l.header then some (hdTotal l.header) else none) ∧ y.bytes = l.bytes) ∧
    (takes → loadingNow s.dev = none → ∃ t, exec (.imageFrame p lseq off data) s = .next t ∧
      (fabPort t.dev p).discarded = (fabPort s.dev p).discarded + 1) ∧
    (∀ e, lo → l.ended ≠ none → imageErr s.otp false s.dev l = some e → e.code ≠ 0 → s.dev.config.undo = [] → calm → (opOf s.dev l.op).state < 3 →
      ∃ t, exec .imageEnd s = .next t ∧ back t ∧ Recorded s t (plainRecord e.code 0 e.clause e.d0 e.d1) ∧
        (opOf t.dev l.op).state = 5 ∧ (opOf t.dev l.op).result = e.code) ∧
    (∀ d, good → shimsMayCome s.otp s.dev = true → buildLoad l s.otp s.dev = (none, d) →
      exec .imageEnd s = .next { s with dev := { d with config := { d.config with selftest := true } } }) ∧
    (∀ e d, good → shimsMayCome s.otp s.dev = true → buildLoad l s.otp s.dev = (some e, d) → e.code ≠ 0 → s.dev.config.undo = [] → calm →
      ∃ t, exec .imageEnd s = .next t ∧ back t ∧ Recorded s t (plainRecord e.code 0 e.clause e.d0 e.d1) ∧ t.dev.sec.measure = d.sec.measure) ∧
    (good → shimsMayCome s.otp s.dev = false → exec .imageEnd s = .next s) ∧
    (lo → l.ended = none → (now < l.last + 2 ^ 20 → exec .imageIdleTimeout s = .next s) ∧
      (l.last + 2 ^ 20 ≤ now → (∀ z ∈ l.fail, z.1 ≠ 0) → s.dev.config.undo = [] → calm → ∃ t, exec .imageIdleTimeout s = .next t ∧ back t ∧ s.dev.health.total < t.dev.health.total)) ∧
    (testing → shimsMayCome s.otp zeroed = false → exec (.startupSelftestDone []) s = .next s) ∧
    (∀ d, testing → shimsMayCome s.otp zeroed = true →
      checkLoaded s.otp.ordering (restamp tested).plan.clauses (restamp tested) = .inr d →
      ∃ t, exec (.startupSelftestDone []) s = .next t ∧ t.dev.ctl.state = .loaded ∧ t.dev.config.loading = none ∧ t.dev.config.selftest = false ∧
        t.dev.config.serial = fld l.header 0x30 8 ∧ t.dev.config.segment = l.kept.getD 0xFFFF) ∧
    (adm 0x1111 → r.data.length = 8 →
      (s.dev.ctl.state = .loaded → now < v → cmd (.arm r) 0x1111 0 fun t => NoRecord s t ∧ t.dev.ctl.state = .armed ∧ t.dev.config = { s.dev.config with armBeat := v }) ∧
      (s.dev.ctl.state = .loaded → v ≤ now → cmd (.arm r) 0x1111 4 (OnlyAnswers s)) ∧
      (s.dev.ctl.state ≠ .loaded → cmd (.arm r) 0x1111 3 (OnlyAnswers s))) ∧
    (adm 0x1104 → r.data = [] →
      (s.dev.ctl.state = .armed → cmd (.disarm r) 0x1104 0 fun t => NoRecord s t ∧ t.dev.ctl.state = .loaded ∧ t.dev.plan = s.dev.plan) ∧
      (s.dev.ctl.state ≠ .armed → cmd (.disarm r) 0x1104 3 (OnlyAnswers s))) ∧
    (s.dev.power.boot ≠ .down → exec (.cascDoneSample low) s = .next { s with dev := { s.dev with config := { s.dev.config with
      level := !s.dev.config.driveLow && !low, sampleBeat := now } } }) ∧
    (booted s.dev = true → s.dev.ctl.state = .armed → s.dev.config.armBeat ≤ now → s.dev.config.level = true → s.dev.config.sampleBeat + 1 = now →
      s.dev.plan.startPresets = [] → ∃ t, exec .startBeat s = .next t ∧ NoRecord s t ∧ t.dev.ctl.state = .running ∧ t.dev.ctl.stateBeat = now ∧
        t.dev.config = { s.dev.config with startBeat := now } ∧ t.dev.plan = s.dev.plan ∧ t.dev.cells = s.dev.cells)

/-- R421-R427: a RELOAD is accepted and waits its turn; at its beat the held cells' queues clamp and their pending launches
and mover requests go and are counted; once the cells have stopped and the tables stand, their slots are written, or the
clause is placed anew and its new slots are written; their queues reopen in the next generation, and their cores start at
offset 0; a clause that is not ACTIVE is written at once; a clamp too long is recorded and its queues answer CLOSED.
Readback counts what it corrects, records what it cannot, and a slot whose CRC is no longer that of its fill, for the
slot's clause, which is held, and the place is written again; but a slot that a reload is about to write is not recorded.
Its corners are the model's readings (notes/assumptions/45, 48, 75), and so is that a rewrite that is done where none
waits changes nothing (notes/assumptions/1). -/
def Obligations.ReloadsRewriteTheirCells : Prop :=
  ∀ (r : Req) (q : Session) (x : Reload) (rest : List Reload) (cl : Clause) (loc : ConfLoc) (f beats : Nat) (s : State),
    let adm := Admitted s r 0x1112 q
    let b := r.data
    let mode := fldBE b 2 1
    let e (i : Nat) : Nat := fldBE b (4 + i) 1
    let at_ := fldBE b 8 8
    let now := s.dev.beat.count
    let st := s.dev.ctl.state
    let inside := 1 ≤ e 2 ∧ 1 ≤ e 3 ∧ e 0 + e 2 ≤ cl.benchRows ∧ e 1 + e 3 ≤ cl.benchCols
    let runs := adm ∧ b.length = 16 ∧ (st = .running ∨ st = .held)
    let ready := runs ∧ clauseOf s.dev (fldBE b 0 2) = some cl
    let fits := mode ≤ 2 ∧ (mode = 2 ∨ inside) ∧ (at_ = 0 ∨ now < at_)
    let no (c : Nat) : Prop := Served (.reload r) s r 3 0x1112 0 c [] (OnlyAnswers s)
    let head := s.dev.config.reloads = x :: rest ∧ clauseOf s.dev x.clause = some cl
    let hs := heldSet s.dev x
    let cl' := (freshClause x cl s.dev).1
    let leads (t : State) (y : Reload) : Prop := t.dev.config.reloads = y :: rest
    let ends (t : State) (st : Nat) : Prop := t.dev.config.reloads = rest ∧ ∀ k, x.op = some k → (opOf s.dev k).state < 3 → (opOf t.dev k).state = st
    let written (t : State) : Prop := clauseOf t.dev x.clause = some cl' ∧ (s.cellsApart cl.cells → ∀ y ∈ cl.indexed, y.1 ∈ hs →
      let o := slotOf (cellAt t.dev y.1) cl.slot
      (slotOf (cellAt s.dev y.1) cl.slot).st ≠ .empty → o.data = recData (cl'.recs.getD y.2 []) ∧ o.clause = cl.id ∧ (o.st = .resident ∨ o.st = .active))
    let begins := head ∧ reloadMay s.dev x = true ∧ x.stage = .queued ∧ (x.mode ≠ 1 ∨ x.fresh.isSome = true) ∧ x.at_ ≤ now ∧ cl.filling = false ∧
      midSwitch s.dev cl.id = false
    let writes := head ∧ reloadMay s.dev x = true ∧ x.stage = .clamped ∧ x.live = true ∧ heldStopped s.dev hs = true ∧
      ∀ c ∈ hs, underTest s.dev (phys s.dev c) = false
    let tables := tablesReady (retireMap s.otp s.dev) hs s.dev = true
    let place := rePlace s.otp.ordering cl (spareWords s.dev)
    (adm → b.length = 16 → st ≠ .running → st ≠ .held → no 3) ∧
    (runs → clauseOf s.dev (fldBE b 0 2) = none → no 4) ∧
    (ready → ¬fits → no 4) ∧
    (ready → fits → opSlot s.dev = none → no 7) ∧
    (∀ k, ready → fits → opSlot s.dev = some k →
      let rect := if mode = 2 then (0, 0, cl.benchRows, cl.benchCols) else (e 0, e 1, e 2, e 3)
      let x : Reload := { op := some k, clause := fldBE b 0 2, mode := mode, rect := rect, at_ := if at_ = 0 then now + 1 else at_ }
      Starts (.reload r) s r 0x1112 k fun t => NoRecord s t ∧ t.dev.plan = s.dev.plan ∧ t.dev.cells = s.dev.cells ∧ (opOf t.dev k).state = 0 ∧
        t.dev.config = { s.dev.config with reloads := s.dev.config.reloads ++ [x] }) ∧
    (begins → clauseActive s.dev cl = true → (∀ y ∈ s.dev.cells, y.2.conj.mreqs = []) →
      ∃ t, exec .reloadClamp s = .next t ∧ NoRecord s t ∧ leads t { x with stage := .clamped, live := true, p := now } ∧ t.dev.plan = s.dev.plan ∧
        (NMap.wf [] s.dev.movers.queue = true → ∀ fr, ∀ m ∈ frameQueue t.dev fr, m ∈ frameQueue s.dev fr ∧ m.cell ∉ hs) ∧
        ∀ c ∈ hs, let y := cellAt t.dev c
          y.pend = [] ∧ y.pendS = [] ∧ (∀ n < 64, (queueOf y n) = { queueOf (cellAt s.dev c) n with clamped := true }) ∧
          (s.cellsApart hs → y.win.queueDiscarded = satAdd 32 (cellAt s.dev c).win.queueDiscarded (clampLoss c s.dev))) ∧
    (begins → clauseActive s.dev cl = false → x.mode ≠ 2 → x.presets = [] → tablesReady (retireMap s.otp s.dev) [] s.dev = true →
      ∃ t, exec .reloadClamp s = .next t ∧ NoRecord s t ∧ ends t 3 ∧ written t) ∧
    (writes → x.mode ≠ 2 → tables →
      ∃ t, exec .reloadWrite s = .next t ∧ NoRecord s t ∧ leads t { x with stage := .written, e := now + 1 } ∧ written t) ∧
    (∀ c, writes → x.mode = 2 → tables → place = .inr c → (∀ y ∈ c.cells, underTest s.dev (phys s.dev y) = false) →
      ∃ t, exec .reloadWrite s = .next t ∧ NoRecord s t ∧ leads t { x with stage := .written, e := now + 1, old := some (cl.orow, cl.ocol, cl.slot) } ∧
        (s.cellsApart c.cells → ∀ y ∈ c.indexed, (slotOf (cellAt t.dev y.1) c.slot).data = recData (c.recs.getD y.2 []))) ∧
    (∀ i, writes → x.mode = 2 → tables → place = .inl i →
      ∃ t, exec .reloadWrite s = .next t ∧ ends t 5 ∧ RecordedFirst s t (plainRecord i.code (if i.code = 0x0805 then 1 else 0) i.clause i.d0 i.d1)) ∧
    (writes → s.dev.mesh.next = none → ¬tables → ∃ t, exec .reloadWrite s = .next t ∧ t.dev.config = s.dev.config ∧ t.dev.cells = s.dev.cells ∧
      t.dev.mesh.next.isSome = true) ∧
    (head → inRun s.dev = true → x.stage = .written → x.e ≤ now → x.old = none → (∀ c ∈ hs, (cellAt s.dev c).waiters = [] ∧ (cellAt s.dev c).noun.reqs = []) →
      ∃ t, exec .reloadReopen s = .next t ∧ NoRecord s t ∧ leads t { x with stage := .reopened, e := now } ∧
        (s.cellsApart hs → ∀ c ∈ hs, ∀ n < 64,
          let o := queueOf (cellAt s.dev c) n
          let w := queueOf (cellAt t.dev c) n
          (qUsed (activeData (cellAt s.dev c)) n = true → w.st = .open ∧ w.gen = (o.gen + 1) % 256 ∧ w.clamped = false ∧
            (ctFlag cl.contract 3 = true → w.entries = o.entries) ∧ (ctFlag cl.contract 3 = false → w.entries = [])) ∧
          (qUsed (activeData (cellAt s.dev c)) n = false → o.gen ≠ 0 → w.st = .closed ∧ w.gen = o.gen ∧ w.clamped = false ∧ w.entries = []))) ∧
    (∀ old, head → inRun s.dev = true → x.stage = .written → x.e ≤ now → x.old = some old →
      let was : Clause := { cl with orow := old.1, ocol := old.2.1, slot := old.2.2 }
      busyCell (hs.foldl (fun d c => closeCell was c (resumeAll c d)) s.dev) cl = none →
      ∃ t, exec .reloadReopen s = .next t ∧ leads t { x with stage := .reopened, e := now } ∧
        (hs.length = cl.cells.length → ∀ c ∈ cl.cells, (slotOf (cellAt t.dev c) cl.slot).st = .active)) ∧
    (head → booted s.dev = true → st = .running → x.stage = .reopened → x.e + 1 ≤ now → x.presets = [] →
      ∃ t, exec .reloadRestart s = .next t ∧ ends t 3 ∧ ∀ c ∈ cl.cells, (x.mode = 2 ∨ c ∈ hs) →
        (kindAt c.row c.col = .conj → (cellAt t.dev c).conj.st = .running ∧ (cellAt t.dev c).conj.pc = 0) ∧
        (x.old = none → (cellAt s.dev c).slots ≠ [] → (cellAt s.dev c).waitL = [] → (cellAt t.dev c).pend = [] ∧ (cellAt t.dev c).pendS = [])) ∧
    (head → booted s.dev = true → x.live = true → (x.stage = .clamped ∨ x.stage = .written) → x.timedOut = false →
      x.p + s.dev.config.clampTimeout ≤ now →
      ∃ t, exec .clampTimeout s = .next t ∧ Recorded s t (plainRecord 0x0809 0 x.clause 0 0) ∧ leads t { x with timedOut := true } ∧
        ∀ c ∈ hs, ∀ n, (queueOf (cellAt s.dev c) n).clamped = true → (queueOf (cellAt t.dev c) n).clampDead = true) ∧
    (booted s.dev = true → st ≠ .inert → f < 4 →
      let conf (c : Config) : State := { s with dev := { s.dev with config := c } }
      let pass := NMap.set 0 s.dev.config.pass f (beats % 2 ^ 32)
      let upset (i : Instr) (l : ConfLoc) (g : State → Prop) : Prop := ∃ t, exec i s = .next t ∧ l ∈ t.dev.config.rewrite ∧ t.dev.cells = s.dev.cells ∧ g t
      let ofTable (t : State) : Prop := Recorded s t (plainRecord 0x0804 0 0 (f * 0x10000) 0) ∧ t.dev.plan = s.dev.plan
      let ofSlot (n : Nat) (t : State) : Prop := Recorded s t (plainRecord 0x0804 1 cl.id (f * 0x10000 + n) 0) ∧ clauseOf t.dev cl.id = some { cl with held := true }
      let sound (n : Nat) : Prop := ∀ m < 4, m ≠ n → sealBroken s.dev f m = false
      (sound 4 → exec (.readbackPassEnd f beats none) s = .next (conf { s.dev.config with pass := pass }) ∧
        upset (.readbackPassEnd f beats (some (.table f))) (.table f) (fun t => ofTable t ∧ t.dev.config.pass = pass)) ∧
      (locIn f loc = true → exec (.configReadbackError loc false) s = .next (conf { s.dev.config with corrected := satAdd 64 s.dev.config.corrected 1 })) ∧
      upset (.configReadbackError (.table f) true) (.table f) ofTable ∧
      (∀ n < 4, slotClauses s.dev f n = [cl.id] → clauseOf s.dev cl.id = some cl →
        (aboutToWrite (.slot f n) s.dev = true → exec (.configReadbackError (.slot f n) true) s = .next s) ∧
        (aboutToWrite (.slot f n) s.dev = false → upset (.configReadbackError (.slot f n) true) (.slot f n) (ofSlot n) ∧
          (sound n → upset (.readbackPassEnd f beats (some (.slot f n))) (.slot f n) (fun t => ofSlot n t ∧ t.dev.config.pass = pass) ∧
            (sealBroken s.dev f n = true → upset (.readbackPassEnd f beats none) (.slot f n) (fun t => ofSlot n t ∧ t.dev.config.pass = pass))))) ∧
      (s.dev.config.rewrite = [] → exec .configRewriteDone s = .next s) ∧
      (∀ more, s.dev.config.rewrite = .table f :: more → s.dev.mesh.next = none →
        exec .configRewriteDone s = .next { s with dev := { s.dev with
          config := { s.dev.config with rewrite := more }, mesh := { s.dev.mesh with next := some (s.dev.mesh.remap, s.dev.mesh.detour) } } }) ∧
      (∀ n more, s.dev.config.rewrite = .slot f n :: more →
        (copyReadable s.dev = false → exec .configRewriteDone s = .next (conf { s.dev.config with rewrite := more })) ∧
        (copyReadable s.dev = true → slotClauses s.dev f n = [cl.id] → clauseOf s.dev cl.id = some cl →
          ∃ t, exec .configRewriteDone s = .next t ∧ NoRecord s t ∧ t.dev.plan = s.dev.plan ∧
            t.dev.config = { s.dev.config with rewrite := more, seals := t.dev.config.seals } ∧ sealBroken t.dev f cl.slot = false ∧
            (s.cellsApart cl.cells → ∀ y ∈ cl.indexed, frameOf y.1 = f →
              let o := slotOf (cellAt s.dev y.1) cl.slot
              (o.st = .active ∨ o.st = .resident) → slotOf (cellAt t.dev y.1) cl.slot = Slot.written cl y.2 (phys s.dev y.1) s.dev o))))

/-! ### Holds, sessions, operations and the smaller commands -/

/-- R88, R107, R138, R166, R188, R445-R448, R453-R456, R480: HOLD begins a hold, the cells stop at their boundaries, and once
every cell concerned has stopped the device or the clause is held; a NaN watch holds the device; RELEASE waits for its
beat, at which the device runs or the clause's cells go on; UNLOAD returns to INERT with nothing loaded, the image's
serial and segment and the epoch's state as they were. Its corners are the model's readings (notes/assumptions/47), and so
is that a stop off a boundary, a hold that is not complete and a release before its beat change nothing
(notes/assumptions/1). -/
def Obligations.HoldsStopAndReleasesResume : Prop :=
  ∀ (r : Req) (q : Session) (c : LCell) (h : HoldReq) (cl : Clause) (id beat p k : Nat) (s : State),
    let adm (i : Nat) := Admitted s r i q
    let st := s.dev.ctl.state
    let now := s.dev.beat.count
    let cmd (i : Instr) (idx code : Nat) (f : State → Prop) : Prop := Served i s r 3 idx 0 code [] f
    let target := beNat r.data
    let exists_ := target = 0xFFFF ∨ ∃ c, clauseOf s.dev target = some c ∧ clauseActive s.dev c = true
    let who := fldBE r.data 0 2
    let till := fldBE r.data 2 8
    let isHeld := (who = 0xFFFF ∧ st = .held) ∨ (who ≠ 0xFFFF ∧ ∃ c, clauseOf s.dev who = some c ∧ c.held = true)
    let free := (∀ g ∈ s.dev.ctl.holds, g.clause ≠ 0xFFFF ∧ g.clause ≠ who) ∧ ∀ x ∈ s.dev.cells, x.2.fence ≠ .byCommand
    let empty := ∀ x ∈ s.dev.cells, x.2.mats = [] ∧ x.2.vecs = [] ∧ x.2.stage = none ∧ x.2.smm = none
    let full := opSlot s.dev = none
    let oldest := s.dev.ctl.releases.find? (fun e => decide (e.2 ≤ now)) = some (id, beat)
    let gone := eraseFirst (fun e => decide (e = (id, beat))) s.dev.ctl.releases
    let calm := ∀ x ∈ s.dev.ports.fab, x.replay = [] ∧ x.waiting = []
    (adm 0x1101 → r.data.length = 2 →
      (st ≠ .running → st ≠ .held → cmd (.hold r) 0x1101 3 (OnlyAnswers s)) ∧
      ((st = .running ∨ st = .held) → ¬exists_ → cmd (.hold r) 0x1101 4 (OnlyAnswers s)) ∧
      ((st = .running ∨ st = .held) → exists_ → full → cmd (.hold r) 0x1101 7 (OnlyAnswers s)) ∧
      ((st = .running ∨ st = .held) → exists_ → opSlot s.dev = some k →
        (st = .running → Starts (.hold r) s r 0x1101 k fun t => NoRecord s t ∧ (opOf t.dev k).state = (if s.dev.ctl.holds.any (fun g => g.op.isSome) then 0 else 1) ∧
          (opOf t.dev k).progress = holdCount s.dev target ∧ t.dev.cells = s.dev.cells ∧
          t.dev.ctl = { s.dev.ctl with holds := s.dev.ctl.holds ++ [{ clause := target, op := some k, cause := 1 }] }) ∧
        (st = .held → Starts (.hold r) s r 0x1101 k fun t => (opOf t.dev k).state = 3 ∧ t.dev.ctl = s.dev.ctl ∧ t.dev.cells = s.dev.cells ∧
          (target ≠ 0xFFFF → ∃ y, clauseOf t.dev target = some y ∧ y.held = true)))) ∧
    (booted s.dev = true → cellOk c = true → holdsAt (cellAt s.dev c) (phys s.dev c) = true → (cellAt s.dev c).stopped = false →
      holdDue s.dev (phys s.dev c) = true →
      let x := cellAt s.dev c
      (atBoundary c s.dev = false → exec (.cellHoldStop c) s = .next s) ∧
      (atBoundary c s.dev = true → ∃ t, exec (.cellHoldStop c) s = .next t ∧ (cellAt t.dev c).stopped = true ∧
        (kindAt c.row c.col ≠ .adverb → kindAt c.row c.col ≠ .conj → NoRecord s t ∧ t.dev.mesh = s.dev.mesh ∧ Becomes s t c { x with stopped := true }) ∧
        (kindAt c.row c.col = .conj → ∀ w dl d, x.conj.st = .waiting w dl d → waitHolds s.dev c w = false →
          ((∀ f n v k e g y, w ≠ .signal f n v k e g y) → (cellAt t.dev c).conj = { x.conj with st := .running } ∧ t.dev.mesh = s.dev.mesh) ∧
          (∀ f n v k g y, w = .signal f n v k false g y → (cellAt t.dev c).conj = { x.conj with st := .waiting (.signal f n v k true true y) dl d } ∧
            Injects s.dev.mesh.flits t (.cell c) (.store f)
              (.sigOp .cancel { src := .cell c, frame := f, word := n, v := 0, clause := activeId x, off := x.conj.pc }))))) ∧
    (inRun s.dev = true → (∃ g ∈ s.dev.ctl.holds, holdReached s.dev g.clause = false) → exec .holdComplete s = .next s) ∧
    (inRun s.dev = true → s.dev.ctl.holds = [h] → holdReached s.dev h.clause = true → h.op = some k → (opOf s.dev k).state < 3 →
      (h.clause = 0xFFFF → st = .running → ∃ t, exec .holdComplete s = .next t ∧ NoRecord s t ∧ t.dev.ctl.state = .held ∧
        t.dev.ctl.heldCause = h.cause ∧ t.dev.ctl.stateBeat = now ∧ t.dev.ctl.holds = [] ∧ (opOf t.dev k).state = 3) ∧
      (h.clause ≠ 0xFFFF → clauseOf s.dev h.clause = some cl → ∃ t, exec .holdComplete s = .next t ∧ NoRecord s t ∧ t.dev.ctl.state = st ∧
        clauseOf t.dev h.clause = some { cl with held := true } ∧ t.dev.ctl.holds = [] ∧ (opOf t.dev k).state = 3)) ∧
    (booted s.dev = true → st = .running → (∃ n ∈ s.dev.ctl.nanHold, n.2 + 1 ≤ now) → scheduleRun s.dev = true →
      ∃ t, exec .nanWatchHold s = .next t ∧ NoRecord s t ∧ t.dev.ctl.state = .held ∧ t.dev.ctl.heldCause = 3 ∧
        t.dev.ctl.nanHold = s.dev.ctl.nanHold.filter fun n => decide (now < n.2 + 1)) ∧
    (adm 0x1102 → r.data.length = 10 → st ≠ .faulted →
      (till ≤ now → cmd (.release r) 0x1102 4 (OnlyAnswers s)) ∧
      (now < till → (¬isHeld ∨ ¬free) → cmd (.release r) 0x1102 3 (OnlyAnswers s)) ∧
      (now < till → isHeld → free → cmd (.release r) 0x1102 0 fun t => NoRecord s t ∧ t.dev.plan = s.dev.plan ∧
        t.dev.ctl = { s.dev.ctl with releases := s.dev.ctl.releases ++ [(who, till)] })) ∧
    (booted s.dev = true → oldest → empty →
      (id = 0xFFFF → st = .held → s.dev.epoch.state ≠ 3 → s.dev.movers.run = [] →
        ∃ t, exec .releaseBeat s = .next t ∧ NoRecord s t ∧ t.dev.ctl.state = .running ∧ t.dev.ctl.stateBeat = now ∧ t.dev.ctl.releases = gone) ∧
      (id ≠ 0xFFFF → clauseOf s.dev id = some cl → st = .running → s.dev.ctl.holds = [] → s.dev.config.reloads = [] → s.dev.movers.run = [] →
        ∃ t, exec .releaseBeat s = .next t ∧ NoRecord s t ∧ clauseOf t.dev id = some { cl with held := false } ∧ t.dev.ctl.releases = gone ∧
          ((activeSlot (cellP s.dev p)).isSome = true → activeId (cellP s.dev p) = id → (cellP t.dev p).stopped = false))) ∧
    (booted s.dev = true → (∀ e ∈ s.dev.ctl.releases, now < e.2) → exec .releaseBeat s = .next s) ∧
    (adm 0x1103 → r.data = [] →
      ((st = .loaded ∨ st = .armed ∨ st = .held) → calm → s.dev.ports.deliv = [] → cmd (.unload r) 0x1103 0 fun t => t.dev.ctl.state = .inert ∧ t.dev.plan.clauses = [] ∧
        t.dev.plan.sentences = [] ∧ t.dev.config.serial = s.dev.config.serial ∧ t.dev.config.segment = s.dev.config.segment ∧
        t.dev.epoch.state = s.dev.epoch.state ∧ t.dev.mesh.flits = [] ∧ t.dev.movers.run = [] ∧
        t.otp = s.otp) ∧
      ((st = .running ∨ st = .inert ∨ st = .loading ∨ st = .faulted) → cmd (.unload r) 0x1103 3 (OnlyAnswers s)))

/-- R437-R439, R450-R452: a challenge draws a nonce; SESSION_OPEN under the owner's signature spends it and opens a session of
its source, and is refused for a bad nonce or signature; a closed or idle session and its streams are gone; a nonce
expires. The operations: acknowledge frees a terminal one, suspend and resume stop and continue a memory stream, cancel
ends it; nothing else changes, unless a read stream that waited then starts. The nonce is free (notes/assumptions/9); the
order of the checks, and that the rows of OP_CONTROL act whatever the written action, are the model's readings
(notes/assumptions/47, 49); so is that a timeout before its time changes nothing (notes/assumptions/1). -/
def Obligations.SessionsAndOperations : Prop :=
  ∀ (r : Req) (q : Session) (x : Stream) (z : List Byte × Nat) (sid k : Nat) (s : State),
    let adm (i : Nat) := Admitted s r i q
    let now := s.dev.beat.count
    let cmd (i : Instr) (idx code : Nat) (f : State → Prop) : Prop := Served i s r 3 idx 0 code [] f
    let nonce := r.data.take 32
    let rest := eraseFirst (fun y => decide (y.1 = nonce)) s.dev.beluf.nonces
    let good := (∃ y ∈ s.dev.beluf.nonces, y.1 = nonce ∧ now ≤ y.2 + 2 ^ 20) ∧ (∃ b ∈ s.otp.owner, b ≠ 0) ∧
      ecdsaVerify s.otp.owner (nonce ++ padTo 16 s.otp.uniqueId ++ ip16 r.ip ++ beBytes 2 r.udp) (r.data.drop 32) = true
    let open_ := AdmittedZero s r 0x1211 ∧ s.engineFree ∧ r.data.length = 96
    let opened (st : Nat) (b : List Byte) (f : State → Prop) : Prop := ServedLater (.sessionOpen r) s r 3 0x1211 0 st b f
    let word := beNat r.data
    let h := word / 2 ^ 16 % 2 ^ 16
    let o := opOf s.dev (h % 64)
    let op := adm 0x1121 ∧ r.data.length = 4 ∧ word < 2 ^ 32 ∧ s.dev.ctl.state ≠ .faulted
    let named := op ∧ h / 64 = o.serial % 1024 ∧ o.used = true
    let acts (i : Instr) (st : Nat) (f : State → Prop) : Prop := Served i s r 2 0x1121 0 st [] f
    let still := ∀ y ∈ s.dev.beluf.streams, 3 ≤ y.kind → (opOf s.dev y.op).state ≠ 0
    ((adm 0x1210 ∨ AdmittedZero s r 0x1210) → s.engineFree → r.data = [] →
      ∃ n, n.length = 32 ∧ ServedLater (.sessionChallenge r) s r 3 0x1210 0 0 n fun t => OnlyAnswers { s with dev := { s.dev with sec := t.dev.sec } } t ∧
        t.dev.sec.draws = s.dev.sec.draws + 1 ∧
        t.dev.beluf.nonces = (let l := s.dev.beluf.nonces ++ [(n, now)]; l.drop (l.length - 8))) ∧
    (open_ →
      (8 ≤ s.dev.beluf.sessions.length → opened 7 [] (OnlyAnswers s)) ∧
      (s.dev.beluf.sessions.length < 8 → ¬good → opened 4 [] fun t => OnlyAnswers s t ∧ t.dev.beluf.nonces = rest ∧
        t.dev.beluf.sessions = s.dev.beluf.sessions) ∧
      (s.dev.beluf.sessions.length < 8 → good → opened 0 (beBytes 2 (freeSession s.dev)) fun t => OnlyAnswers s t ∧
        t.dev.beluf.nonces = rest ∧
        t.dev.beluf.sessions = s.dev.beluf.sessions ++ [{ id := freeSession s.dev, udp := r.udp, mac := r.mac, ip := r.ip, port := r.port, beat := now }])) ∧
    (adm 0x1212 → r.data = [] → cmd (.sessionClose r) 0x1212 0 fun t => (still → OnlyAnswers s t) ∧ sessionOf t.dev r.session = none ∧
      ∀ y ∈ t.dev.beluf.streams, y.session ≠ r.session) ∧
    (sessionOf s.dev sid = some q →
      (q.beat + s.dev.beluf.idle ≤ now → ∃ t, exec (.sessionIdleTimeout sid) s = .next t ∧ (still → OnlyAnswers s t) ∧ sessionOf t.dev sid = none ∧
        ∀ y ∈ t.dev.beluf.streams, y.session ≠ sid) ∧
      (now < q.beat + s.dev.beluf.idle → exec (.sessionIdleTimeout sid) s = .next s)) ∧
    (s.dev.beluf.nonces[k]? = some z →
      (z.2 + 2 ^ 20 < now → exec (.nonceExpiry k) s = .next { s with dev := { s.dev with beluf := { s.dev.beluf with nonces := s.dev.beluf.nonces.eraseIdx k } } }) ∧
      (now ≤ z.2 + 2 ^ 20 → exec (.nonceExpiry k) s = .next s)) ∧
    (op → h / 64 ≠ o.serial % 1024 → ∀ i ∈ [Instr.opAcknowledge r, .opSuspend r, .opResume r, .opCancel r], acts i 4 (OnlyAnswers s)) ∧
    (named →
      (3 ≤ o.state → acts (.opAcknowledge r) 0 fun t => OnlyAnswers s t ∧ opOf t.dev (h % 64) = { o with used := false }) ∧
      (o.state < 3 → acts (.opAcknowledge r) 3 (OnlyAnswers s)) ∧
      (o.index = 0 → o.state ≤ 1 → acts (.opSuspend r) 0 fun t => OnlyAnswers s t ∧ opOf t.dev (h % 64) = { o with state := 2 }) ∧
      ((o.index ≠ 0 ∨ 2 ≤ o.state) → acts (.opSuspend r) 3 (OnlyAnswers s)) ∧
      (o.state = 2 → o.started = true → acts (.opResume r) 0 fun t => (still → OnlyAnswers s t) ∧ opOf t.dev (h % 64) = { o with state := 1 }) ∧
      (o.state ≠ 2 → acts (.opResume r) 3 (OnlyAnswers s)) ∧
      (o.state < 3 → o.index = 0 → streamOfOp s.dev (h % 64) = some x → streamOf s.dev x.id = some x →
        acts (.opCancel r) 0 fun t => (still → OnlyAnswers s t) ∧ (opOf t.dev (h % 64)).state = 4 ∧ ∀ y ∈ t.dev.beluf.streams, y.id ≠ x.id) ∧
      (3 ≤ o.state → acts (.opCancel r) 3 (OnlyAnswers s)))

/-- R88, R140, R300, R362, R363, R468, R471, R472, R476, R486-R496, R533: a sentence restarts at its beat; the host's ADD or
SET of a signal word leaves its I/O die as a flit with the word's OWNER, and the store's reply answers the request; a
monitor is armed again and counters cleared from the next beat; a fenced cell stops once its accesses are done; an abandon
or a commit asked for while HELD begins; JIG_RUN waits in its Jig's queue, a slice's end is reported and its overrun
recorded; RETIRE enters the map. The start beat and the coverage of a result, RANGE for a store that cannot be reached,
and that CELL_FENCE and CELL_UNFENCE act whatever the argument are the model's readings (notes/assumptions/35, 43, 47,
48). -/
def Obligations.SmallCommandsAndSelfTest : Prop :=
  ∀ (r : Req) (q : Session) (cl : Clause) (u : Sentence) (p k f cycles op : Nat) (v : W64) (j : Jig) (x : Slice) (fails : List SliceFail) (lost : List (Nat × Nat × Nat)) (s : State),
    let adm (i : Nat) := Admitted s r i q
    let st := s.dev.ctl.state
    let now := s.dev.beat.count
    let cmd (i : Instr) (idx code : Nat) (b : List Byte) (g : State → Prop) : Prop := Served i s r 3 idx 0 code b g
    let later (i : Instr) (idx code : Nat) (g : State → Prop) : Prop := ServedLater i s r 3 idx 0 code [] g
    let some_ (t : State) (i : Nat) := t.dev.health.jigs[i]?
    let id := fldBE r.data 0 2
    let at_ := fldBE r.data 2 8
    let running := st = .running ∨ st = .held
    let fr := q.sels.sig / 2 ^ 12 % 2 ^ 2
    let n := q.sels.sig % 2 ^ 12
    let sent (fr : Nat) : SigReq :=
      { src := .ioDie (fr / 2), frame := fr, word := n, v := BitVec.ofNat 64 (beNat r.data), clause := (sigWord s.dev fr n).owner, off := 0, kind := .host }
    let asks (i : Instr) (idx sub op : Nat) (sop : SigOp) : Prop := adm idx → storeReachable s.dev fr = true → ∃ t, exec i s = .next t ∧ NoRecord s t ∧
      t.dev.tx = s.dev.tx ∧ t.dev.sig = { s.dev.sig with sent := s.dev.sig.sent ++ [{ src := .ioDie (fr / 2), f := fr, why := .host op (onObject idx sub r) }] } ∧
      Injects s.dev.mesh.flits t (.ioDie (fr / 2)) (.store fr) (.sigOp sop (sent fr))
    let answers (i : Instr) (res : SigRes) (z : W64) (code : Nat) (b : List Byte) : Prop :=
      s.arrives (.store fr) (.ioDie k) [.sigReply fr res z] → ∃ t, exec i s = .next t ∧ NoRecord s t ∧ Replies t r op r.index r.sub code b ∧
        t.dev.sig = { s.dev.sig with sent := eraseFirst (fun y => decide (y.src = .ioDie k) && y.f == fr) s.dev.sig.sent }
    let other := s.otp.retired.length < 32768 ∧ retiredAlready (retireMap s.otp s.dev) (8 * 2 ^ 60 + p * 2 ^ 48 + k) = false
    let known := (retireMap s.otp s.dev).any (fun y => decide (entryUnit y = entryUnit (retireArg (beNat r.data)))) = true
    let retire := adm 0x6204 ∧ r.data.length = 8 ∧ (st = .inert ∨ st = .loaded ∨ st = .held)
    let report := [0, 0] ++ beBytes 2 x.unit_ ++ beBytes 4 cycles ++ beBytes 2 9650 ++ beBytes 2 8800 ++ beBytes 8 x.beat ++ [0, 0, 0, 0]
    let begun := booted s.dev = true ∧ f < 4 ∧ s.dev.health.jigs[f]? = some j ∧ j.running = some x
    (adm 0x4005 → r.data.length = 10 → running → sentenceOf s.dev id = some u →
      (now < at_ → cmd (.sentenceRestart r) 0x4005 0 [] fun t => sentenceOf t.dev id = some { u with running := true, held := false, start := at_, rep := 0, next := 0 }) ∧
      (at_ ≤ now → cmd (.sentenceRestart r) 0x4005 4 [] (OnlyAnswers s))) ∧
    (running → r.data.length = 8 →
      asks (.sigRaise r) 0x4202 0 3 .add ∧ asks (.sigValueWrite r) 0x4201 1 2 .set ∧
      (storeReachable s.dev fr = false →
        (adm 0x4202 → cmd (.sigRaise r) 0x4202 4 [] (OnlyAnswers s)) ∧
        (adm 0x4201 → Served (.sigValueWrite r) s r 2 0x4201 1 4 [] (OnlyAnswers s)))) ∧
    (sessionOf s.dev r.session = some q →
      s.dev.sig.sent.find? (fun y => decide (y.src = .ioDie k) && y.f == fr) = some { src := .ioDie k, f := fr, why := .host op r } →
      answers (.signalReplyDone (.ioDie k) fr v) .done v 0 (if op = 3 then beBytes 8 v.toNat else []) ∧
      answers (.signalReplyRefused (.ioDie k) fr v) .refused v 4 [] ∧ answers (.signalReplyAbsent (.ioDie k) fr) .absent 0 4 []) ∧
    (running → r.data = [] → clauseOf s.dev q.sels.clause = some cl →
      (adm 0x5002 → later (.nanRearm r) 0x5002 0 fun t => clauseOf t.dev q.sels.clause = some { cl with rearm := true }) ∧
      (adm 0x5004 → later (.counterReset r) 0x5004 0 fun t => clauseOf t.dev q.sels.clause = some { cl with ctrReset := true })) ∧
    (adm 0x8003 → r.data.length = 1 → beNat r.data ≤ 1 →
      (st = .held → selCell s.dev q.sels = some p → (cellP s.dev p).fence ≠ .retired → (cellP s.dev p).waitL = [] → later (.cellFence r) 0x8003 0 fun t => (cellP t.dev p).fence = .byCommand ∧ ∀ m, m ≠ p → cellP t.dev m = cellP s.dev m) ∧
      (st = .held → selCell s.dev q.sels = some p → (cellP s.dev p).fence = .byCommand → (cellP s.dev p).slots ≠ [] → underTest s.dev p = false →
        later (.cellUnfence r) 0x8003 0 fun t => (cellP t.dev p).fence = .none ∧ (cellP t.dev p).clockOff = false) ∧
      (st = .running → later (.cellFence r) 0x8003 3 (OnlyAnswers s) ∧ later (.cellUnfence r) 0x8003 3 (OnlyAnswers s))) ∧
    (booted s.dev = true → p < 4608 → (cellP s.dev p).fence ≠ .none → (∀ y ∈ (cellP s.dev p).noun.reqs, y.waits = true) →
      ∃ t, exec (.cellFenceDone p) s = .next t ∧ (cellP t.dev p).clockOff = true ∧ NoRecord s t) ∧
    (adm 0x3108 → r.data = [] →
      (st = .running → cmd (.epochAbandon r) 0x3108 3 [] (OnlyAnswers s)) ∧
      (st = .held → opSlot s.dev = some k → s.dev.epoch.abandoning = false → durableRuns s.dev = [] → s.dev.epoch.commitNow = none →
        Starts (.epochAbandon r) s r 0x3108 k fun t => NoRecord s t ∧ (opOf t.dev k).state = 1 ∧ t.dev.epoch.abandoning = true ∧ t.dev.epoch.abandonOps = [k])) ∧
    (adm 0x3109 → r.data = [] → st ≠ .faulted →
      (s.dev.epoch.state ≠ 2 → cmd (.epochCommitNow r) 0x3109 3 [] (OnlyAnswers s)) ∧
      (s.dev.epoch.state = 2 → s.dev.epoch.commitNow = none → s.dev.epoch.abandoning = false → opSlot s.dev = some k → epochRuns s.dev = [] →
        Starts (.epochCommitNow r) s r 0x3109 k fun t => NoRecord s t ∧ (opOf t.dev k).state = 1 ∧ t.dev.epoch.commitNow = some k)) ∧
    (adm 0x6100 → r.data.length = 4 → (running ∨ st = .loaded ∨ st = .armed) →
      let kind := fldBE r.data 0 1
      let fi := fldBE r.data 1 1
      let unit_ := fldBE r.data 2 2
      let ok := kind ≤ 1 ∧ fi ≤ 3 ∧ (unit_ < (if kind = 0 then 1152 else 72) ∨ unit_ = 0xFFFF)
      (¬ok → cmd (.jigRun r) 0x6100 4 [] (OnlyAnswers s)) ∧
      (ok → opSlot s.dev = some k → s.dev.health.jigs[fi]? = some j → Starts (.jigRun r) s r 0x6100 k fun t => (opOf t.dev k).state = 0 ∧
        some_ t fi = some { j with queue := j.queue ++ [(kind, unit_, k)] })) ∧
    (begun → x.kind = 0 → fails = [] → (cellP s.dev (f * 1152 + x.unit_)).slots ≠ [] →
      ∃ t, exec (.sliceEnd f cycles fails lost) s = .next t ∧ NoRecord { s with dev := { s.dev with health := { s.dev.health with jigs := t.dev.health.jigs } } } t ∧
        some_ t f = some { j with running := none, rotCell := (x.unit_ + 1) % 1152, passed := satAdd 64 j.passed 1, result := report } ∧
        (cellP t.dev (f * 1152 + x.unit_)).fence ≠ .byJig) ∧
    (begun → x.kind = 0 → (∃ y ∈ fails, inSlice 0 x.unit_ y = true) → ∃ t, exec (.sliceEnd f cycles fails lost) s = .next t ∧ s.dev.health.total < t.dev.health.total) ∧
    (begun → x.overrun = false → x.beat + x.r ≤ now → ∃ t, exec (.sliceOverrun f) s = .next t ∧
      Recorded s t (plainRecord 0x0A04 0 0 (x.kind * 0x1000000 + x.unit_) (now - x.beat)) ∧ some_ t f = some { j with running := some { x with overrun := true } }) ∧
    (retire → (retireOk s.otp.ordering (beNat r.data) = false → cmd (.retire r) 0x6204 4 [] (OnlyAnswers s)) ∧
      (retireOk s.otp.ordering (beNat r.data) = true → opSlot s.dev = some k → ∃ t b, exec (.retire r) s = .next t ∧ Replies t r 3 0x6204 0 0 b ∧
        (known → NoRecord s t ∧ t.otp = s.otp ∧ t.dev.cells = s.dev.cells ∧ t.dev.mesh = s.dev.mesh ∧ (opOf t.dev k).state = 3)) ∧
      (beNat r.data = 8 * 2 ^ 60 + p * 2 ^ 48 + k → p < 6 → k < 9 → other → opSlot s.dev ≠ none →
        ∃ t b, exec (.retire r) s = .next t ∧ Replies t r 3 0x6204 0 0 b ∧ t.otp = { s.otp with retired := s.otp.retired ++ [8 * 2 ^ 60 + p * 2 ^ 48 + k] }))

/-! ### Keys and debug access -/

/-- R498-R508: a command signed with the keys that it must have spends its nonce and fuses its key, and registers 7 and 8 are
extended; a bad nonce, signature or slot, no slot left or a failed write refuses it with KEY_COMMAND_REFUSED and its
reason; a QUOTE is signed over the state; the JTAG port answers IDCODE and BYPASS, and a scan that is unlocked stops. The
random source and the identity key are free (notes/assumptions/9); BYPASS and the stop are the model's
(notes/assumptions/36, 51), and so are the order of the refusal checks (nonce, signature, slot, uses, write) and the limit
of 16 draws of a signature (notes/assumptions/49, 90). -/
def Obligations.SignedCommandsAndDebugAccess : Prop :=
  ∀ (r : Req) (q : Session) (ok : Bool) (outs : List Bool) (s : State),
    let adm (i : Nat) := (Admitted s r i q ∨ (i = 0x1208 ∧ AdmittedZero s r i)) ∧ s.engineFree
    let o := s.otp
    let nonce := r.data.take 32
    let rest := eraseFirst (fun y => decide (y.1 = nonce)) s.dev.beluf.nonces
    let fresh := ∃ y ∈ s.dev.beluf.nonces, y.1 = nonce ∧ s.dev.beat.count ≤ y.2 + 2 ^ 20
    let text (tag : List Byte) (n : Nat) := tag ++ nonce ++ padTo 16 o.uniqueId ++ slice r.data 32 n
    let signed (tag : List Byte) (n i : Nat) (key : List Byte) := ecdsaVerify key (text tag n) (slice r.data (32 + n + 64 * i) 64) = true
    let replies (i : Instr) (idx st : Nat) (f : State → Prop) : Prop := ServedLater i s r 3 idx 0 st [] f
    let state (i : Instr) (idx : Nat) : Prop := replies i idx 3 (OnlyAnswers s)
    let no (i : Instr) (idx reason : Nat) : Prop := replies i idx 4 fun t => t.otp = o ∧ Recorded s t (plainRecord 0x0B01 0 0 idx reason) ∧
      t.dev.beluf.nonces = rest ∧ t.dev.sec = s.dev.sec
    let blank : List Byte := List.replicate 32 0
    let seven (m : NMap (List Byte)) (p : Otp) := NMap.set blank m 7 (sha256 (measureOf s.dev 7 ++ sha256 (fuseState p)))
    let fuses (i : Instr) (idx : Nat) (p : Otp) (f : State → Prop) : Prop := replies i idx 0 fun t => t.otp = p ∧ NoRecord s t ∧ t.dev.beluf.nonces = rest ∧
      t.dev.sec = { s.dev.sec with measure := seven s.dev.sec.measure p } ∧ f t
    let zero (i : Instr) (idx : Nat) : Prop := AdmittedZero s r idx → Served i s r 3 idx 0 3 [] (OnlyAnswers s)
    let key := slice r.data 32 64
    let inert := s.dev.ctl.state = .inert
    let slot := fldBE r.data 32 1
    let slotIs (st : KeyState) := slot < o.slots.length ∧ (o.slot slot).st = st
    let own := Instr.ownerInstall r
    let replace := Instr.ownerReplace r
    let install := Instr.signKeyInstall r
    let revoke := Instr.signKeyRevoke r
    let unlock := Instr.debugUnlock r
    let may := inert ∨ s.dev.ctl.state = .loaded ∨ s.dev.ctl.state = .held
    let OWNI : List Byte := [0x4F, 0x57, 0x4E, 0x49]
    let OWNR : List Byte := [0x4F, 0x57, 0x4E, 0x52]
    let SKIN : List Byte := [0x53, 0x4B, 0x49, 0x4E]
    let SKRV : List Byte := [0x53, 0x4B, 0x52, 0x56]
    let DBGU : List Byte := [0x44, 0x42, 0x47, 0x55]
    let none_ := ∀ b ∈ o.owner, b = 0
    let jtag (j : JtagOp) (t : Dev) : Prop := s.dev.power.boot ≠ .down → exec (.jtagInstruction j) s = .next { s with dev := t }
    let sec (j : JtagOp) : Security := { s.dev.sec with jtag := j }
    (zero (install ok) 0x1204 ∧ zero (revoke ok) 0x1205 ∧ zero (replace ok) 0x1209 ∧ zero unlock 0x120D) ∧
    (adm 0x1208 → (¬inert ∨ ¬none_) → state (own ok) 0x1208) ∧
    (adm 0x1208 → r.data.length = 160 →
      (inert → none_ → (¬fresh → no (own ok) 0x1208 1) ∧
        (fresh → ¬signed OWNI 64 0 key → no (own ok) 0x1208 2) ∧
        (fresh → signed OWNI 64 0 key → no (own false) 0x1208 5 ∧ fuses (own true) 0x1208 { o with ownerKey := key, ownerSound := true } fun _ => True))) ∧
    (adm 0x1209 → ¬inert → state (replace ok) 0x1209) ∧
    (adm 0x1209 → r.data.length = 224 →
      (inert → ¬fresh → no (replace ok) 0x1209 1) ∧
      (inert → fresh → ¬(signed OWNR 64 0 o.owner ∧ signed OWNR 64 1 key) → no (replace ok) 0x1209 2) ∧
      (inert → fresh → signed OWNR 64 0 o.owner → signed OWNR 64 1 key →
        (o.ownerSlots = 0 → no (replace ok) 0x1209 4) ∧
        (o.ownerSlots ≠ 0 → no (replace false) 0x1209 5 ∧
          fuses (replace true) 0x1209 { o with ownerKey := key, ownerSound := true, ownerSlots := o.ownerSlots - 1 } fun t => t.dev.beluf.sessions = []))) ∧
    (adm 0x1204 → ¬inert → state (install ok) 0x1204) ∧
    (adm 0x1204 → r.data.length = 161 →
      (inert → ¬fresh → no (install ok) 0x1204 1) ∧
      (inert → fresh → ¬signed SKIN 65 0 o.owner → no (install ok) 0x1204 2) ∧
      (inert → fresh → signed SKIN 65 0 o.owner → (¬slotIs .empty → no (install ok) 0x1204 3) ∧
        (slotIs .empty → no (install false) 0x1204 5 ∧
          fuses (install true) 0x1204 { o with slots := o.slots.set slot { st := .valid, key := slice r.data 33 64 } } fun _ => True))) ∧
    (adm 0x1205 → ¬inert → state (revoke ok) 0x1205) ∧
    (adm 0x1205 → r.data.length = 97 →
      (inert → ¬fresh → no (revoke ok) 0x1205 1) ∧
      (inert → fresh → ¬signed SKRV 1 0 o.owner → no (revoke ok) 0x1205 2) ∧
      (inert → fresh → signed SKRV 1 0 o.owner → (¬slotIs .valid → no (revoke ok) 0x1205 3) ∧
        (slotIs .valid → no (revoke false) 0x1205 5 ∧
          fuses (revoke true) 0x1205 { o with slots := o.slots.set slot { o.slot slot with st := .revoked } } fun _ => True))) ∧
    (adm 0x120D → ¬may → state unlock 0x120D) ∧
    (adm 0x120D → r.data.length = 97 →
      (may → ¬fresh → no unlock 0x120D 1) ∧
      (may → fresh → ¬signed DBGU 1 0 o.owner → no unlock 0x120D 2) ∧
      (may → fresh → signed DBGU 1 0 o.owner → (slot ≠ 1 → no unlock 0x120D 3) ∧
        (slot = 1 → replies unlock 0x120D 0 fun t => t.otp = o ∧ Recorded s t (plainRecord 0x0B02 0 0 1 0) ∧ t.dev.beluf.nonces = rest ∧
          t.dev.sec = { s.dev.sec with debug := true, measure := seven (NMap.set blank s.dev.sec.measure 8 (sha256 (measureOf s.dev 8 ++ sha256 r.data))) o }))) ∧
    (adm 0x120C → r.data = [] → s.dev.ctl.state ≠ .faulted → ∃ n, n.length = 32 ∧ ServedLater (.debugChallenge r) s r 3 0x120C 0 0 n fun t =>
      t.dev.sec.draws = s.dev.sec.draws + 1 ∧ NoRecord s t ∧ (n, s.dev.beat.count) ∈ t.dev.beluf.nonces) ∧
    (adm 0x120B → r.data.length = 32 → s.dev.ctl.state ≠ .faulted →
      (s.dev.sec.identity ≠ some 0 → state (.quote r) 0x120B) ∧
      (s.dev.sec.identity = some 0 → ∃ k n, 1 ≤ n ∧ n ≤ 16 ∧ ServedLater (.quote r) s r 3 0x120B 0 0 (quoteBody r.data o s.dev ++ ecdsaSign identityKey k (quoteBody r.data o s.dev))
        fun t => NoRecord s t ∧ t.otp = o ∧ t.dev.sec = { s.dev.sec with draws := s.dev.sec.draws + n })) ∧
    jtag .idcode { s.dev with tx := .jtag (o.stepping % 16 * 2 ^ 28 + 0x4896 * 2 ^ 12 + 0x6E3 * 2 + 1) 32 :: s.dev.tx, sec := sec .idcode } ∧
    jtag .bypass { s.dev with tx := .jtag 0 1 :: s.dev.tx, sec := sec .bypass } ∧
    jtag .samplePreload { s.dev with sec := sec .samplePreload } ∧
    jtag (.extest outs) { s.dev with sec := sec (.extest outs) } ∧
    (s.dev.sec.debug = false → jtag .internal { s.dev with tx := .jtag 0 1 :: s.dev.tx, sec := sec .bypass }) ∧
    (s.dev.power.boot ≠ .down → s.dev.sec.debug = true → exec (.jtagInstruction .internal) s = .fault .debugScan)

/-! ### Objects with commands of their own -/

/-- R135, R315, R337, R348, R350, R375, R376, R391, R436, R469: each of the objects that a WRITE row names takes a value that
its rule admits, at once or at the next edge as the rule says, and answers RANGE, STATE or TYPE to any other; nothing else
changes. Which STATUS comes first is the model's reading (notes/assumptions/43); so is that a THROTTLE entry is refused
where its whole ARG0 exceeds 15 (notes/assumptions/72). -/
def Obligations.ObjectWritesTakeEffect : Prop :=
  ∀ (r : Req) (q : Session) (cl : Clause) (s : State),
    let b := r.data
    let v := beNat b
    let d := s.dev
    let quiet := d.ctl.state = .inert ∨ d.ctl.state = .held
    let dest (d' : Dev) (t : State) : Prop := t.otp = s.otp ∧ t.dev = { d' with beluf := t.dev.beluf, tx := t.dev.tx }
    let replies (i : Instr) (idx sub st : Nat) (f : State → Prop) : Prop := Served i s r 2 idx sub st [] f
    let object (i : Instr) (idx sub n : Nat) (rest : Prop) : Prop := Admitted s r idx q →
      (d.ctl.state ≠ .faulted → b.length ≠ n → d.ctl.state = .held → replies i idx sub 5 (OnlyAnswers s)) ∧
      (d.ctl.state = .faulted → replies i idx sub 3 (OnlyAnswers s)) ∧ (d.ctl.state ≠ .faulted → b.length = n → rest)
    let sub := r.sub
    let e := schedOf b
    let held (i : Instr) (idx sub : Nat) : Prop := ¬quiet → replies i idx sub 3 (OnlyAnswers s)
    let write (i : Instr) (idx sub : Nat) (p : Prop) (d' : Dev) : Prop := (p → replies i idx sub 0 (dest d')) ∧ (¬p → replies i idx sub 4 (OnlyAnswers s))
    object (.beatPeriodNsWrite r) 0x2202 0 4 (write (.beatPeriodNsWrite r) 0x2202 0
      (500 ≤ v ∧ v ≤ 8000 ∧ v % 20 = 0 ∧ ∀ c ∈ d.plan.clauses, ctBeatMin c.contract ≤ v ∧ v ≤ ctBeatMax c.contract)
      { d with beat := { d.beat with periodNext := some v } }) ∧
    (1 ≤ sub → sub ≤ 0xFF → object (.schedEntryWrite r) 0x4010 sub 32 (d.ctl.state ≠ .inert → d.ctl.state ≠ .loading → write (.schedEntryWrite r) 0x4010 sub
      (e.valid = true → d.beat.count < e.beat ∧ e.phase < beatCycles d ∧ e.action ≤ 0xA ∧ e.action ≠ 8 ∧ schedArgsOk e = true)
      { d with plan := { d.plan with schedNext := d.plan.schedNext ++ [(sub, e)] } })) ∧
    (Admitted s r 0x4010 q → sub = 0 → replies (.schedEntryWrite r) 0x4010 0 2 (OnlyAnswers s)) ∧
    object (.scientificEnableWrite r) 0x4020 0 1 (held (.scientificEnableWrite r) 0x4020 0 ∧
      (quiet → v ≤ 1 → write (.scientificEnableWrite r) 0x4020 0 (v = 1 ∨ ∀ c ∈ d.plan.clauses, ctFlag c.contract 0 = false)
        { d with plan := { d.plan with sci := v == 1 } })) ∧
    object (.hbmInterleaveWrite r) 0x3001 0 1 (held (.hbmInterleaveWrite r) 0x3001 0 ∧
      (quiet → write (.hbmInterleaveWrite r) 0x3001 0 (v ≤ 1 ∧ d.plan.clauses = []) { d with tiers := { d.tiers with interleave := v } })) ∧
    (d.ctl.state ≠ .loading → d.ctl.state ≠ .inert → clauseOf d q.sels.clause = some cl → b.length = 1 → d.ctl.state ≠ .faulted → Admitted s r 0x5000 q →
      ServedLater (.monSelectWrite r) s r 2 0x5000 0 0 [] fun t => NoRecord s t ∧ clauseOf t.dev q.sels.clause = some { cl with monNext := some (v % 8) }) ∧
    (sub < 6 → object (.fabEnableWrite r) 0x2100 sub 1 (held (.fabEnableWrite r) 0x2100 sub ∧
      (quiet → d.ports.fab.length = 6 → (fabPort d sub).replay = [] → (fabPort d sub).waiting = [] →
        (v = 0 → replies (.fabEnableWrite r) 0x2100 sub 0 fun t => NoRecord s t ∧ (fabPort t.dev sub).enable = false ∧ (fabPort t.dev sub).st = .down) ∧
        (v = 1 → (fabPort d sub).st = .down → replies (.fabEnableWrite r) 0x2100 sub 0 fun t => NoRecord s t ∧
          (fabPort t.dev sub).enable = true ∧ (fabPort t.dev sub).st = .training)))) ∧
    (sub < 24 → object (.routeTableWrite r) 0x2109 sub 4 (write (.routeTableWrite r) 0x2109 sub
      ((∀ i < 4, v / 2 ^ (8 * i + 5) % 8 ≠ 6) ∧ (∀ l ∈ routeLegs v, l.2 ≠ 0) ∧ routeTotal v ≤ 124)
      { d with ports := { d.ports with routes := NMap.set none d.ports.routes sub (some v) } })) ∧
    (sub < 2 → object (.hostEnableWrite r) 0x2000 sub 1 (held (.hostEnableWrite r) 0x2000 sub ∧
      (quiet → v ≤ 1 → d.ports.hosts.length = 2 → replies (.hostEnableWrite r) 0x2000 sub 0 fun t => NoRecord s t ∧ (hostPort t.dev sub).enable = (v == 1) ∧
        ∀ p, hostPowered t.dev p = false → (hostPort t.dev p).link = 0)))

/-! ### Reset and power -/

/-- R91, R336, R473, R494, R499, R506, R509-R520, R527: what each reset leaves, how the device comes ready, how a domain comes
into use and those after it begin, and the device-fatal faults of rails, clocks and temperature. One-time-programmable
memory stays as it was. Unwritten values are zero, and the state between RESET_N and INERT is the model's
(notes/assumptions/5, 8, 37, 50), and so is the probe as the device comes ready (notes/assumptions/71). -/
def Obligations.ResetAndPowerSequence : Prop :=
  ∀ (st : Straps) (n cause rail mv clk die sensor reading : Nat) (s : State),
    let d := s.dev
    let up := d.power.boot ≠ .down
    let rest (t : State) : Prop := t.otp = s.otp ∧ t.pending = s.pending
    let kept (t : State) : Prop := rest t ∧ t.dev.tx = d.tx
    let blank (t : State) : Prop := t.dev.plan.clauses = [] ∧ t.dev.cells = [] ∧ t.dev.tiers.mem = [] ∧ t.dev.sec.debug = false ∧ t.dev.sec.measure = [] ∧
      t.dev.ctl.state = .inert ∧ t.dev.beat.count = 0 ∧ t.dev.sec.identity = none
    let fatal (i : Instr) (code d0 d1 : Nat) (f : State → Prop) : Prop := ∃ t, exec i s = .next t ∧ Recorded s t (plainRecord code 2 0 d0 d1) ∧
      t.dev.ctl.state = (if d.ctl.state = .inert then .inert else .faulted) ∧ (d.ctl.state = .inert → t.dev.power.fatalInert = true) ∧ f t
    let domain (t : State) (k : Nat) := NMap.get DomSt.off t.dev.power.domains k
    let nominal := if rail < 4 then 700 else if rail < 6 then 750 else if rail = 6 then 900 else 1200
    let tolerance := if rail = 4 ∨ rail = 5 then 4 else 3
    let dark (t : State) : Prop := ∀ k, (k < 80 ∨ (90 ≤ k ∧ k < 94)) → domain t k ≠ .on ∧ domain t k ≠ .switchingOn
    let m := retireMap s.otp d
    (∃ t, exec (.powerOnReset st) s = .next t ∧ kept t ∧ blank t ∧ t.dev.power.cause = 0 ∧ t.dev.power.boot = .released ∧ t.dev.power.straps = st ∧
      t.dev.health = {} ∧ t.dev.config.position = st.id.toNat ∧ domain t 94 = .on) ∧
    (up → ∃ t, exec (.warmReset st) s = .next t ∧ kept t ∧ blank t ∧ t.dev.power.cause = 1 ∧ t.dev.power.boot = .released ∧
      t.dev.health.last = d.health.last ∧ t.dev.health.total = 0 ∧ retireMap t.otp t.dev = m) ∧
    (∃ t, exec .powerDown s = .next t ∧ kept t ∧ blank t ∧ t.dev.power.boot = .down ∧ t.dev.health = {} ∧ ∀ k, domain t k = .off) ∧
    (up → n < 6 → ∃ t, exec (.pllLock n) s = .next t ∧ kept t ∧ NMap.get false t.dev.power.pll n = true ∧
      (4 ≤ n → NMap.get false t.dev.power.serdes (n - 4) = true) ∧ ∀ k, k ≠ n → NMap.get false t.dev.power.pll k = NMap.get false d.power.pll k) ∧
    (d.power.boot = .released → d.sec.identity = none → cause ≤ 3 → m = [] →
      ∃ t, exec (.identityCheck cause) s = .next t ∧ kept t ∧ NoRecord s t ∧ t.dev.sec.identity = some (if cause = 0 ∧ certDiffers s.otp = true then 2 else cause) ∧
        (NMap.wf (List.replicate 32 0) d.sec.measure = true → measureOf t.dev 6 = sha256 (measureOf d 6 ++ List.replicate 32 0) ∧ measureOf t.dev 7 = sha256 (measureOf d 7 ++ sha256 (fuseState s.otp)))) ∧
    (d.power.boot = .released → d.sec.identity.isSome = true → (∀ k < 6, NMap.get false d.power.pll k = true) →
      ∃ t, exec .inertReady s = .next t ∧ rest t ∧ NoRecord s t ∧ t.dev.power.boot = .ready ∧ t.dev.beat.count = 0 ∧ t.dev.beat.cyc = 0 ∧
        ((∀ p < 2, hostPowered d p = false ∨ (hostPort d p).link = 0) → t.dev.tx = d.tx) ∧
        ∀ p < 2, hostPowered d p = true → (hostPort d p).link ≠ 0 → (hostPort d p).use4 = false →
          .net p (List.replicate 4 0) 5 (hostPort d p).ipv4 (hostEther d p (List.replicate 6 0xff)) ∈ t.dev.tx) ∧
    (∃ t, exec (.domainSwitchDone n) s = .next t ∧ kept t ∧ NoRecord s t ∧
      ((domainOf d n = .on ∨ domainOf d n = .off) → t = s) ∧
      ∀ x, (domainOf d n = .switchingOn ∧ x = .on) ∨ (domainOf d n = .switchingOff ∧ x = .off) →
        let u := setDomain n x d
        (d.ctl.state = .faulted → t.dev = u) ∧
        (d.ctl.state ≠ .faulted → NMap.wf DomSt.off d.power.domains = true → ∀ k < 96,
          let wanted := domainWanted s.otp.ordering d k
          ((domainOf u k = .on ∧ wanted = true) ∨ (domainOf u k = .off ∧ wanted = false) → domain t k = domainOf u k) ∧
          (k ≠ n → domainOf d k = .off → wanted = true → domain t k = if mayBegin s.otp.ordering u k then .switchingOn else .off) ∧
          (k ≠ n → domainOf d k = .on → wanted = false → domain t k = if mayBegin s.otp.ordering u k then .switchingOff else .on))) ∧
    (up → rail < 8 → (100 * mv < nominal * (100 - tolerance) ∨ nominal * (100 + tolerance) < 100 * mv) →
      fatal (.railFault rail mv) 0x0C03 rail mv fun t => rail < 4 → dark t) ∧
    (up → clk < 9 → fatal (.clockFault clk) 0x0C04 clk 0 fun t => clk < 6 → NMap.wf false d.power.pll = true → NMap.get false t.dev.power.pll clk = false) ∧
    (up → die < 6 → sensor < (if die < 4 then 16 else 4) → 10800 < reading →
      fatal (.thermalTrip die sensor reading) 0x0C02 (die * 256 + sensor) reading dark)

/-! ### The machine -/

/-- A step performs the command at the front of the queue on the state with the queue's rest. On an empty queue one core cycle
passes: the cycles since the beat edge, of the segments of cells that are not stopped and, unless HELD, of the mover
streams go on by one, the Beluf engine comes one cycle nearer to its next request (notes/assumptions/89), and nothing else
changes (the model's choice, notes/assumptions/3). -/
def Obligations.StepRunsFrontCommand : Prop :=
  ∀ (c : Instr) (cs : List Instr) (s : State),
    let older (x : Cell) : Cell := if x.stopped then x else { x with mats := x.mats.map fun m => { m with age := m.age + 1 } }
    let streamed (r : MoverRun) : MoverRun := { r with age := r.age + 1 }
    let later : Dev :=
      { s.dev with
        beat := { s.dev.beat with cyc := s.dev.beat.cyc + 1 }
        cells := NMap.mapVals {} (fun _ x => older x) s.dev.cells
        beluf := { s.dev.beluf with busy := s.dev.beluf.busy - 1 }
        movers := { s.dev.movers with
          run := if s.dev.ctl.state = .held then s.dev.movers.run else NMap.mapVals none (fun _ r => r.map streamed) s.dev.movers.run } }
    step { s with pending := c :: cs } = exec c { s with pending := cs } ∧
    step { s with pending := [] } = .next { s with pending := [], dev := later }

/-- R336, R372, R391, R398, R420, R437, R445, R459, R478, R506, R510: the values that the manual gives for reset. The straps
are the model's choice (notes/assumptions/7), on which the host ports' values rest; so do the registers and bytes for
which the manual gives no value (notes/assumptions/8). Boot, state and domains before INERT_READY, and the shape of
one-time-programmable memory, are the model's too (notes/assumptions/5, 6). -/
def Obligations.ResetValues : Prop :=
  let s := State.reset
  let d := s.dev
  s.pending = [] ∧ d.ctl.state = .inert ∧ d.ctl.heldCause = 0 ∧ d.beat.count = 0 ∧ d.beat.period = 1000 ∧ d.plan.clauses = [] ∧ d.plan.sentences = [] ∧
  (∀ p, cellP d p = {}) ∧ (∀ f w, sigWord d f w = {}) ∧ (∀ n, schedEntry d n = {}) ∧ d.mesh.flits = [] ∧ d.movers.run = [] ∧
  d.epoch.enable = false ∧ d.epoch.state = 0 ∧ d.tiers.interleave = 0 ∧ d.config.reloads = [] ∧ d.config.clampTimeout = 64 ∧ d.config.size = 1 ∧
  d.config.position = 0 ∧ d.config.driveLow = true ∧ d.config.segment = 0xFFFF ∧ d.ports.belufUdp = 52410 ∧ d.ports.bulkUdp = 52411 ∧
  d.ports.ackTimeout = 64 ∧ d.ports.passEn = 0x0000000420108042 ∧ (hostPort d 0).enable = true ∧ (hostPort d 1).enable = false ∧
  (hostPort d 0).ipv4 = [169, 254, 1, 1] ∧ (∀ p < 6, (fabPort d p).st = .down ∧ (fabPort d p).enable = false) ∧
  d.beluf.sessions = [] ∧ d.beluf.nonces = [] ∧ d.beluf.streams = [] ∧ d.beluf.idle = 0x04000000 ∧ d.health.total = 0 ∧ d.health.last = none ∧
  (∀ i, measureOf d i = List.replicate 32 0) ∧ d.sec.debug = false ∧ d.power.limit = 3800 ∧ d.power.boot = .released ∧
  NMap.get .off d.power.domains 94 = .on ∧ NMap.get .off d.power.domains 86 = .on ∧ NMap.get .off d.power.domains 0 = .off ∧ OtpShape s.otp

/-- R494, R502, R505: no step takes anything back that has been fused: an image-signing slot goes from empty to valid and from
valid to revoked only, the uses left of the owner's slots only fall, the retirement map only grows, and what is fused at
manufacture stays; the memory keeps its shape. A step takes one command off the queue and puts none there. -/
def Obligations.OneTimeMemoryOnlyGains : Prop :=
  ∀ s t : State, step s = .next t → OtpGains s.otp t.otp ∧ (OtpShape s.otp → OtpShape t.otp) ∧ t.pending = s.pending.tail
end

