-- ==== Sys2Proof/Laws/Map.lean ====
section
/-! SUPPORT. The laws of the sparse map and of the byte memories built on it: what a write leaves to be read, and that
every operation keeps the canonical form. -/
namespace Sys2Proof
namespace NMap
variable {α : Type}

@[simp] theorem get_nil (d : α) (k : Nat) : get d [] k = d := rfl

theorem get_insert_self (d : α) (m : NMap α) (k : Nat) (v : α) : get d (insert m k v) k = v := by
  induction m with
  | nil => simp [insert, get]
  | cons e m ih =>
    obtain ⟨j, w⟩ := e
    rcases Nat.lt_trichotomy k j with h | h | h
    · simp [insert, get, h]
    · simp [insert, get, h]
    · simp [insert, get, Nat.not_lt.mpr (Nat.le_of_lt h), Nat.ne_of_gt h, Nat.ne_of_lt h, ih]

theorem get_insert_ne (d : α) (m : NMap α) {k i : Nat} (v : α) (h : i ≠ k) : get d (insert m k v) i = get d m i := by
  induction m with
  | nil => simp [insert, get, Ne.symm h]
  | cons e m ih =>
    obtain ⟨j, w⟩ := e
    rcases Nat.lt_trichotomy k j with g | g | g
    · simp [insert, get, g, Ne.symm h]
    · subst g; simp [insert, get, Ne.symm h]
    · simp only [insert, Nat.not_lt.mpr (Nat.le_of_lt g), if_false, Nat.ne_of_gt g, get, ih]

theorem get_erase_ne (d : α) (m : NMap α) {k i : Nat} (h : i ≠ k) : get d (erase m k) i = get d m i := by
  induction m with
  | nil => rfl
  | cons e m ih =>
    obtain ⟨j, w⟩ := e
    by_cases g : j = k
    · simp [erase, get, g, Ne.symm h]
    · simp only [erase, g, if_false, get, ih]

theorem insert_insert (m : NMap α) (k : Nat) (v w : α) : insert (insert m k v) k w = insert m k w := by
  induction m with
  | nil => simp [insert]
  | cons e m ih =>
    obtain ⟨j, x⟩ := e
    rcases Nat.lt_trichotomy k j with g | g | g
    · simp [insert, g]
    · simp [insert, g]
    · simp [insert, Nat.not_lt.mpr (Nat.le_of_lt g), Nat.ne_of_gt g, ih]

variable [DecidableEq α]

theorem get_set_ne (d : α) (m : NMap α) {k i : Nat} (v : α) (h : i ≠ k) : get d (set d m k v) i = get d m i := by
  unfold set; split
  · exact get_erase_ne d m h
  · exact get_insert_ne d m v h

theorem get_set_self_of_ne {d : α} (m : NMap α) (k : Nat) {v : α} (h : v ≠ d) : get d (set d m k v) k = v := by
  simp [set, h, get_insert_self]

theorem set_set_of_ne {d : α} (m : NMap α) (k : Nat) {v w : α} (hv : v ≠ d) (hw : w ≠ d) :
    set d (set d m k v) k w = set d m k w := by
  simp [set, hv, hw, insert_insert]

theorem get_upd_ne (d : α) (m : NMap α) {k i : Nat} (f : α → α) (h : i ≠ k) : get d (upd d m k f) i = get d m i :=
  get_set_ne d m _ h

/-- Two updates of one key compose, where neither gives the default. -/
theorem upd_upd {d : α} {m : NMap α} {k : Nat} {f g : α → α} (hf : f (get d m k) ≠ d) (hg : g (f (get d m k)) ≠ d) :
    upd d (upd d m k f) k g = upd d m k (fun x => g (f x)) := by
  show set d (set d m k _) k (g (get d (set d m k _) k)) = _
  rw [get_set_self_of_ne m k hf, set_set_of_ne m k hf hg]; rfl

/-! ### The canonical form -/

theorem wfFrom_cons {d : α} {lo : Option Nat} {j : Nat} {v : α} {m : NMap α} :
    wfFrom d lo ((j, v) :: m) = true ↔ (∀ l, lo = some l → l < j) ∧ v ≠ d ∧ wfFrom d (some j) m = true := by
  cases lo <;> simp [wfFrom, and_assoc]

theorem wfFrom_weaken {d : α} {lo lo' : Option Nat} {m : NMap α} (h : ∀ l, lo = some l → ∃ l', lo' = some l' ∧ l ≤ l')
    (w : wfFrom d lo' m = true) : wfFrom d lo m = true := by
  cases m with
  | nil => rfl
  | cons e m =>
    rw [wfFrom_cons] at w ⊢
    refine ⟨fun l g => ?_, w.2⟩
    obtain ⟨l', g', hl⟩ := h l g
    exact Nat.lt_of_le_of_lt hl (w.1 l' g')

theorem wfFrom_tail {d : α} {lo : Option Nat} {j : Nat} {v : α} {m : NMap α} (w : wfFrom d lo ((j, v) :: m) = true) :
    wfFrom d lo m = true := by
  rw [wfFrom_cons] at w
  exact wfFrom_weaken (fun l g => ⟨j, rfl, Nat.le_of_lt (w.1 l g)⟩) w.2.2

theorem wfFrom_erase {d : α} {lo : Option Nat} {m : NMap α} (k : Nat) (w : wfFrom d lo m = true) : wfFrom d lo (erase m k) = true := by
  induction m generalizing lo with
  | nil => rfl
  | cons e m ih =>
    unfold erase
    split
    · exact wfFrom_tail w
    · rw [wfFrom_cons] at w ⊢
      exact ⟨w.1, w.2.1, ih w.2.2⟩

theorem wfFrom_insert {d : α} {lo : Option Nat} {m : NMap α} {k : Nat} {v : α} (hv : v ≠ d)
    (hk : ∀ l, lo = some l → l < k) (w : wfFrom d lo m = true) : wfFrom d lo (insert m k v) = true := by
  induction m generalizing lo with
  | nil => rw [insert, wfFrom_cons]; exact ⟨hk, hv, rfl⟩
  | cons e m ih =>
    have w' := w
    rw [wfFrom_cons] at w'
    unfold insert
    split
    · rename_i g
      rw [wfFrom_cons, wfFrom_cons]
      exact ⟨hk, hv, fun _ e => by injection e with e; omega, w'.2⟩
    · split
      · rename_i g; subst g
        rw [wfFrom_cons]; exact ⟨hk, hv, w'.2.2⟩
      · rw [wfFrom_cons]
        exact ⟨w'.1, w'.2.1, ih (fun _ e => by injection e with e; omega) w'.2.2⟩

theorem wf_set {d : α} {m : NMap α} (k : Nat) (v : α) (h : wf d m = true) : wf d (set d m k v) = true := by
  unfold set; split
  · exact wfFrom_erase k h
  · rename_i g; exact wfFrom_insert g (fun _ e => nomatch e) h

theorem wf_upd {d : α} {m : NMap α} (k : Nat) (f : α → α) (h : wf d m = true) : wf d (upd d m k f) = true := wf_set k _ h

theorem wfFrom_mapVals {d : α} (f : Nat → α → α) {lo : Option Nat} {m : NMap α} (w : wfFrom d lo m = true) :
    wfFrom d lo (mapVals d f m) = true := by
  induction m generalizing lo with
  | nil => rfl
  | cons e m ih =>
    have w' := w
    rw [wfFrom_cons] at w'
    simp only [mapVals]
    split
    · exact ih (wfFrom_tail w)
    · rename_i g
      rw [wfFrom_cons]; exact ⟨w'.1, g, ih w'.2.2⟩

theorem wf_mapVals {d : α} (f : Nat → α → α) {m : NMap α} (h : wf d m = true) : wf d (mapVals d f m) = true := wfFrom_mapVals f h

/-- Below its first key a canonical map reads as its default. -/
theorem get_below {d : α} {lo : Nat} {m : NMap α} (w : wfFrom d (some lo) m = true) {k : Nat} (hk : k ≤ lo) : get d m k = d := by
  induction m generalizing lo with
  | nil => rfl
  | cons e m ih =>
    rw [wfFrom_cons] at w
    have := w.1 lo rfl
    simp only [get, show e.1 ≠ k by omega, if_false]
    exact ih w.2.2 (by omega)

theorem get_erase_self {d : α} {m : NMap α} (w : wf d m = true) (k : Nat) : get d (erase m k) k = d := by
  suffices H : ∀ (m : NMap α) (lo : Option Nat), wfFrom d lo m = true → get d (erase m k) k = d from H m none w
  intro m
  induction m with
  | nil => intro _ _; rfl
  | cons e m ih =>
    intro lo w
    rw [wfFrom_cons] at w
    unfold erase
    split
    · rename_i g; subst g; exact get_below w.2.2 (Nat.le_refl _)
    · rename_i g; simp only [get, g, if_false]; exact ih _ w.2.2

/-- A read after a write to the same key gives the value written. -/
theorem get_set_self {d : α} {m : NMap α} (h : wf d m = true) (k : Nat) (v : α) : get d (set d m k v) k = v := by
  unfold set; split
  · rename_i g; rw [g]; exact get_erase_self h k
  · exact get_insert_self d m k v

end NMap

namespace Mem

theorem wf_nil : wf [] = true := rfl
theorem wf_wr {m : Mem} (a : Nat) (b : Byte) (h : m.wf = true) : (m.wr a b).wf = true := NMap.wf_set a b h
theorem wf_wrN {m : Mem} (a : Nat) (bs : List Byte) (h : m.wf = true) : (m.wrN a bs).wf = true := by
  induction bs generalizing a m with
  | nil => exact h
  | cons b bs ih => exact ih _ (wf_wr a b h)
theorem wf_wrEn {m : Mem} (a i : Nat) (en : W64) (bs : List Byte) (h : m.wf = true) : (m.wrEn a i en bs).wf = true := by
  induction bs generalizing i m with
  | nil => exact h
  | cons b bs ih =>
    unfold wrEn; split
    · exact ih _ (wf_wr _ b h)
    · exact ih _ h
/-- A write of a line keeps the canonical form. -/
theorem wf_wrLine {m : Mem} (a : Nat) (line : List Byte) (en : W64) (h : m.wf = true) : (m.wrLine a line en).wf = true := wf_wrEn a 0 en _ h

/-- A read after a write. -/
theorem rd_wr_self {m : Mem} (h : m.wf = true) (a : Nat) (b : Byte) : (m.wr a b).rd a = b := NMap.get_set_self h a b
/-- A write leaves every other byte alone. -/
theorem rd_wr_ne (m : Mem) {a i : Nat} (b : Byte) (h : i ≠ a) : (m.wr a b).rd i = m.rd i := NMap.get_set_ne _ m b h
/-- A write of bytes leaves every byte outside them alone. -/
theorem rd_wrN_of_outside (m : Mem) (a : Nat) (bs : List Byte) {i : Nat} (h : i < a ∨ a + bs.length ≤ i) : (m.wrN a bs).rd i = m.rd i := by
  induction bs generalizing a m with
  | nil => rfl
  | cons b bs ih =>
    simp only [List.length_cons] at h
    rw [wrN, ih _ _ (by omega), rd_wr_ne _ _ (by omega)]
/-- A byte of a write of bytes reads back. -/
theorem rd_wrN_of_inside {m : Mem} (h : m.wf = true) (a : Nat) (bs : List Byte) {i : Nat} (hi : i < bs.length) :
    (m.wrN a bs).rd (a + i) = bs[i] := by
  induction bs generalizing a m i with
  | nil => simp at hi
  | cons b bs ih =>
    cases i with
    | zero => rw [wrN, rd_wrN_of_outside _ _ _ (by omega)]; exact rd_wr_self h a b
    | succ i =>
      have := ih (wf_wr a b h) (a + 1) (Nat.lt_of_succ_lt_succ hi)
      rw [wrN, show a + (i + 1) = a + 1 + i by omega, this]; rfl
/-- A write of a line leaves every byte outside its enabled bytes alone. -/
theorem rd_wrEn_of_outside (m : Mem) (a j : Nat) (en : W64) (bs : List Byte) {i : Nat}
    (h : ∀ k, j ≤ k → k < j + bs.length → en.getLsbD k = true → i ≠ a + k) : (m.wrEn a j en bs).rd i = m.rd i := by
  induction bs generalizing j m with
  | nil => rfl
  | cons b bs ih =>
    have h' : ∀ k, j + 1 ≤ k → k < j + 1 + bs.length → en.getLsbD k = true → i ≠ a + k :=
      fun k h1 h2 => h k (by omega) (by simp only [List.length_cons]; omega)
    unfold wrEn
    split
    · rename_i g
      rw [ih _ _ h', rd_wr_ne _ _ (h j (Nat.le_refl _) (by simp only [List.length_cons]; omega) g)]
    · exact ih _ _ h'
/-- A write of a line leaves every byte outside the line alone. -/
theorem rd_wrLine_of_outside (m : Mem) (a : Nat) (line : List Byte) (en : W64) {i : Nat} (h : i < a ∨ a + 64 ≤ i) :
    (m.wrLine a line en).rd i = m.rd i :=
  rd_wrEn_of_outside m a 0 en _ (fun k _ hk _ => by have := List.length_take_le 64 line; omega)

end Mem
end Sys2Proof
end

