-- ==== Sys2Proof/Laws/Cell.lean ====
section
/-! SUPPORT. What the updates of cells and Conjunction cores leave to be read. -/
namespace Sys2Proof.Machine

/-! ### Cells -/

theorem cellP_updP_ne {p q : Nat} (f : Cell → Cell) (d : Dev) (h : q ≠ p) : cellP (updP p f d) q = cellP d q :=
  NMap.get_upd_ne _ _ _ h
theorem cellP_updP_self {p : Nat} {f : Cell → Cell} {d : Dev} (h : f (cellP d p) ≠ {}) : cellP (updP p f d) p = f (cellP d p) :=
  NMap.get_set_self_of_ne _ _ h
@[simp] theorem phys_updP (p : Nat) (f : Cell → Cell) (d : Dev) (c : LCell) : phys (updP p f d) c = phys d c := rfl
@[simp] theorem phys_updCell (x : LCell) (f : Cell → Cell) (d : Dev) (c : LCell) : phys (updCell x f d) c = phys d c := rfl
@[simp] theorem phys_updConj (x : LCell) (f : Conj → Conj) (d : Dev) (c : LCell) : phys (updConj x f d) c = phys d c := rfl

/-- A cell with a slot that is not empty is listed in the map of cells. -/
theorem cell_ne_default {x : Cell} (h : (activeSlot x).isSome = true) : x ≠ {} := by
  rintro rfl; exact absurd h (by decide)

/-- Updates of one cell compose, where neither leaves it blank. -/
theorem updP_updP {p : Nat} {f g : Cell → Cell} {d : Dev} (hf : f (cellP d p) ≠ {}) (hg : g (f (cellP d p)) ≠ {}) :
    updP p g (updP p f d) = updP p (fun x => g (f x)) d := by
  unfold updP
  rw [NMap.upd_upd hf hg]

theorem cellAt_updCell_self {c : LCell} {f : Cell → Cell} {d : Dev} (h : f (cellAt d c) ≠ {}) : cellAt (updCell c f d) c = f (cellAt d c) :=
  cellP_updP_self h
theorem cellAt_updCell_ne {c x : LCell} (f : Cell → Cell) (d : Dev) (h : phys d x ≠ phys d c) : cellAt (updCell c f d) x = cellAt d x :=
  cellP_updP_ne f d h
theorem updCell_updCell {c : LCell} {f g : Cell → Cell} {d : Dev} (hf : f (cellAt d c) ≠ {}) (hg : g (f (cellAt d c)) ≠ {}) :
    updCell c g (updCell c f d) = updCell c (fun x => g (f x)) d := updP_updP hf hg

/-! ### Conjunction cores -/

theorem activeSlot_conj (x : Cell) (k : Conj) : activeSlot { x with conj := k } = activeSlot x := rfl
theorem cellAt_updConj_self {c : LCell} {f : Conj → Conj} {d : Dev} (h : (activeSlot (cellAt d c)).isSome = true) :
    cellAt (updConj c f d) c = { cellAt d c with conj := f (cellAt d c).conj } :=
  cellAt_updCell_self (cell_ne_default h)
theorem cellAt_updConj_ne {c x : LCell} (f : Conj → Conj) (d : Dev) (h : phys d x ≠ phys d c) : cellAt (updConj c f d) x = cellAt d x :=
  cellAt_updCell_ne _ d h
theorem updConj_updConj {c : LCell} {f g : Conj → Conj} {d : Dev} (h : (activeSlot (cellAt d c)).isSome = true) :
    updConj c g (updConj c f d) = updConj c (fun k => g (f k)) d :=
  updCell_updCell (cell_ne_default h) (cell_ne_default (x := { cellAt d c with conj := g (f (cellAt d c).conj) }) h)

/-! ### Registers (R218) -/

theorem Conj.reg_setReg_ne (k : Conj) {r i : Reg} (v : W64) (h : i ≠ r) : (k.setReg r v).reg i = k.reg i := by
  unfold Conj.setReg
  split
  · rfl
  · unfold Conj.reg
    split
    · rfl
    · exact NMap.get_set_ne _ _ _ (fun e => h (BitVec.eq_of_toNat_eq e))
/-- In a canonical register file a register reads as what was written to it; x0 reads as zero. -/
theorem Conj.reg_setReg_self {k : Conj} (w : NMap.wf 0 k.regs = true) (r : Reg) (v : W64) : (k.setReg r v).reg r = if r = 0 then 0 else v := by
  unfold Conj.setReg Conj.reg
  split
  · rfl
  · exact NMap.get_set_self w _ _
theorem Conj.wf_setReg {k : Conj} (w : NMap.wf 0 k.regs = true) (r : Reg) (v : W64) : NMap.wf 0 (k.setReg r v).regs = true := by
  unfold Conj.setReg
  split
  · exact w
  · exact NMap.wf_set _ _ w
@[simp] theorem Conj.setReg_pc (k : Conj) (r : Reg) (v : W64) : (k.setReg r v).pc = k.pc := by unfold Conj.setReg; split <;> rfl
@[simp] theorem Conj.setReg_st (k : Conj) (r : Reg) (v : W64) : (k.setReg r v).st = k.st := by unfold Conj.setReg; split <;> rfl
@[simp] theorem Conj.setReg_dmem (k : Conj) (r : Reg) (v : W64) : (k.setReg r v).dmem = k.dmem := by unfold Conj.setReg; split <;> rfl
@[simp] theorem Conj.setReg_mbox (k : Conj) (r : Reg) (v : W64) : (k.setReg r v).mbox = k.mbox := by unfold Conj.setReg; split <;> rfl
@[simp] theorem Conj.setReg_sigs (k : Conj) (r : Reg) (v : W64) : (k.setReg r v).sigs = k.sigs := by unfold Conj.setReg; split <;> rfl
@[simp] theorem Conj.setReg_launch (k : Conj) (r : Reg) (v : W64) : (k.setReg r v).launch = k.launch := by unfold Conj.setReg; split <;> rfl
@[simp] theorem Conj.setReg_mreqs (k : Conj) (r : Reg) (v : W64) : (k.setReg r v).mreqs = k.mreqs := by unfold Conj.setReg; split <;> rfl

/-! ### Instructions -/

theorem coreRuns_active {d : Dev} {c : LCell} (h : coreRuns d c = true) : (activeSlot (cellAt d c)).isSome = true := by
  simp only [coreRuns, Bool.and_eq_true] at h; exact h.1.2
theorem issues_active {d : Dev} {c : LCell} {i : Instr} {rs : List Reg} (h : issues d c i rs = true) : (activeSlot (cellAt d c)).isSome = true := by
  simp only [issues, Bool.and_eq_true] at h; exact coreRuns_active h.1.1
theorem conjDo_pos {d : Dev} {c : LCell} {i : Instr} {rs : List Reg} (f : Dev → Dev) (h : issues d c i rs = true) : conjDo c i rs f d = f d := if_pos h
/-- An instruction that its core does not issue changes nothing. -/
theorem conjDo_neg {d : Dev} {c : LCell} {i : Instr} {rs : List Reg} (f : Dev → Dev) (h : issues d c i rs = false) : conjDo c i rs f d = d := by
  simp [conjDo, h]
theorem progLen_conj (x : Cell) (k : Conj) : progLen { x with conj := k } = progLen x := rfl

/-- Control passes to `t` inside the program. -/
theorem conjGo_inside {d : Dev} {c : LCell} {t : Nat} (h : t < progLen (cellAt d c)) :
    conjGo c t d = updConj c (fun k => { k with pc := t, stall := none }) d := if_pos h
/-- Control passes on after an update of the core. -/
theorem conjGo_updConj {d : Dev} {c : LCell} {t : Nat} (f : Conj → Conj) (ha : (activeSlot (cellAt d c)).isSome = true)
    (h : t < progLen (cellAt d c)) : conjGo c t (updConj c f d) = updConj c (fun k => { f k with pc := t, stall := none }) d := by
  rw [conjGo_inside (by rw [cellAt_updConj_self ha]; exact h), updConj_updConj ha]
theorem conjNext_updConj {d : Dev} {c : LCell} (f : Conj → Conj) (ha : (activeSlot (cellAt d c)).isSome = true)
    (hp : (f (cellAt d c).conj).pc = (cellAt d c).conj.pc) (h : (cellAt d c).conj.pc + 1 < progLen (cellAt d c)) :
    conjNext c (updConj c f d) = updConj c (fun k => { f k with pc := (cellAt d c).conj.pc + 1, stall := none }) d := by
  unfold conjNext
  rw [cellAt_updConj_self ha]; dsimp only; rw [hp]
  exact conjGo_updConj f ha h

end Sys2Proof.Machine
end

