-- ==== Sys2Proof/Laws/Report.lean ====
section
/-! SUPPORT. What a fault record, a notification, an ended operation and a change of device state can change: the
device's states, the clauses' holds, Beluf, the log and what is sent. -/
namespace Sys2Proof.Machine

/-- `e` differs from `d` at most in the device states, the clauses, Beluf, the log and the datagrams sent. -/
def ReportsOnly (d e : Dev) : Prop :=
  e = { d with ctl := e.ctl, plan := e.plan, beluf := e.beluf, health := e.health, tx := e.tx }

theorem ReportsOnly.refl (d : Dev) : ReportsOnly d d := rfl
theorem ReportsOnly.trans {a b c : Dev} (h : ReportsOnly a b) (g : ReportsOnly b c) : ReportsOnly a c := by
  unfold ReportsOnly at *; rw [g, h]
theorem ReportsOnly.after {a b c : Dev} (g : ReportsOnly b c)
    (h : b = { a with ctl := b.ctl, plan := b.plan, beluf := b.beluf, health := b.health, tx := b.tx }) : ReportsOnly a c :=
  ReportsOnly.trans h g
theorem ReportsOnly.cells {d e : Dev} (h : ReportsOnly d e) : e.cells = d.cells := by rw [h]
theorem ReportsOnly.mesh {d e : Dev} (h : ReportsOnly d e) : e.mesh = d.mesh := by rw [h]
theorem ReportsOnly.cellAt {d e : Dev} (h : ReportsOnly d e) (c : LCell) : cellAt e c = cellAt d c := by rw [h]; rfl
theorem ReportsOnly.cellP {d e : Dev} (h : ReportsOnly d e) (p : Nat) : cellP e p = cellP d p := by rw [h]; rfl
theorem ReportsOnly.phys {d e : Dev} (h : ReportsOnly d e) (c : LCell) : phys e c = phys d c := by rw [h]; rfl

theorem notify_reports (k i s : Nat) (b : List Byte) (d : Dev) : ReportsOnly d (notify k i s b d) := rfl
theorem updClause_reports (id : Nat) (f : Clause → Clause) (d : Dev) : ReportsOnly d (updClause id f d) := rfl
theorem opEnd_reports (k st r : Nat) (d : Dev) : ReportsOnly d (opEnd k st r d) := by
  unfold opEnd; split
  · exact .refl d
  · exact (notify_reports ..).after rfl
theorem setState_reports (st : DevSt) (d : Dev) : ReportsOnly d (setState st d) := (notify_reports ..).after rfl
theorem enterHeld_reports (k : Nat) (d : Dev) : ReportsOnly d (enterHeld k d) := by
  unfold enterHeld; split
  · exact (setState_reports ..).after rfl
  · exact .refl d
theorem foldl_reports {α : Type} (f : Dev → α → Dev) (h : ∀ d a, ReportsOnly d (f d a)) (l : List α) (d : Dev) : ReportsOnly d (l.foldl f d) := by
  induction l generalizing d with
  | nil => exact .refl d
  | cons a l ih => exact (h d a).trans (ih _)
theorem enterFaulted_reports (k : Nat) (d : Dev) : ReportsOnly d (enterFaulted k d) := by
  unfold enterFaulted; split
  · exact .refl d
  · refine (setState_reports .faulted d).trans (ReportsOnly.after (foldl_reports _ (fun d k => ?_) _ _) rfl)
    split
    · exact opEnd_reports ..
    · exact .refl d
/-- A record changes nothing but the log, the notifications, the holds of its clause and the device state. -/
theorem record_reports (r : FaultRec) (d : Dev) : ReportsOnly d (record r d) := by
  unfold record
  dsimp only
  split
  · exact ((notify_reports ..).trans (updClause_reports ..)).after rfl
  · split
    · exact ((notify_reports ..).trans (enterFaulted_reports ..)).after rfl
    · exact (notify_reports ..).after rfl
theorem recPlain_reports (c s k d0 d1 : Nat) (d : Dev) : ReportsOnly d (recPlain c s k d0 d1 d) := record_reports ..
theorem recCell_reports (c s : Nat) (x : LCell) (k : Nat) (o : Option Nat) (d0 d1 : Nat) (d : Dev) :
    ReportsOnly d (recCell c s x k o d0 d1 d) := record_reports ..
theorem recPhys_reports (c s p k d0 d1 : Nat) (d : Dev) : ReportsOnly d (recPhys c s p k d0 d1 d) := by
  unfold recPhys; split <;> exact record_reports ..

/-- Nothing that follows the writing of a record changes the log. -/
theorem opEnd_health (k st r : Nat) (d : Dev) : (opEnd k st r d).health = d.health := by unfold opEnd; split <;> rfl
theorem foldl_health {α : Type} (f : Dev → α → Dev) (h : ∀ d a, (f d a).health = d.health) (l : List α) (d : Dev) : (l.foldl f d).health = d.health := by
  induction l generalizing d with
  | nil => rfl
  | cons a l ih => exact (ih _).trans (h d a)
theorem enterFaulted_health (k : Nat) (d : Dev) : (enterFaulted k d).health = d.health := by
  unfold enterFaulted; split
  · rfl
  · exact foldl_health _ (fun d k => by split; exact opEnd_health ..; rfl) _ _
/-- A record enters the log in its place (R478). -/
theorem record_logged (r : FaultRec) (d : Dev) :
    (record r d).health.total = d.health.total + 1 ∧
    (record r d).health.ring = NMap.set none d.health.ring (d.health.total % 1024)
      (some { r with beat := d.beat.count, d0 := r.d0 % 2 ^ 32, d1 := r.d1 % 2 ^ 32 }) := by
  unfold record
  dsimp only
  split
  · exact ⟨rfl, rfl⟩
  · split
    · rw [enterFaulted_health]; exact ⟨rfl, rfl⟩
    · exact ⟨rfl, rfl⟩

end Sys2Proof.Machine
end

