-- ==== Sys2Proof/Laws/Instr.lean ====
section
/-! SUPPORT. What the shared forms of Conjunction instructions answer: each lemma says the whole next state, so that a proof
about an instruction cites its form and never unfolds it. -/
namespace Sys2Proof.Machine

/-! ### Results -/

/-- A sign-extended constant is the number that it stands for. -/
theorem signExtend_eq_ofInt (imm : BitVec 16) : imm.signExtend 64 = BitVec.ofInt 64 imm.toInt := rfl

/-- An instruction that issues and writes register `d` goes on at the next one. -/
theorem conjWrite_next {c : LCell} {i : Instr} {rs : List Reg} {d : Reg} {v : W64} {s : State} (h : IssuesInside s c i rs) :
    conjNext c (setRegAt c d v s.dev) = (s.wrote c d v).dev := by
  unfold setRegAt
  rw [conjNext_updConj _ (issues_active h.1) (by simp) h.2]; rfl

/-- The register form answers its result. -/
theorem conjReg2_next {c : LCell} {i : Instr} {a b d : Reg} {f : W64 → W64 → W64} {s : State} (h : IssuesInside s c i [a, b, d]) :
    onDev (conjReg2 c i a b d f) s = .next (s.wrote c d (f (regAt s.dev c a) (regAt s.dev c b))) := by
  unfold conjReg2 onDev
  rw [conjDo_pos _ h.1, conjWrite_next h]; rfl

/-- The constant form answers its result. -/
theorem conjReg1_next {c : LCell} {i : Instr} {a d : Reg} {f : W64 → W64} {s : State} (h : IssuesInside s c i [a, d]) :
    onDev (conjReg1 c i a d f) s = .next (s.wrote c d (f (regAt s.dev c a))) := by
  unfold conjReg1 onDev
  rw [conjDo_pos _ h.1, conjWrite_next h]; rfl

/-! ### What a change of one core leaves -/

/-- A change of core `c` that keeps its registers changes no register, no other cell, and nothing outside the cells. -/
theorem coreAt_frame {c : LCell} {s : State} {t : Nat} {f : Conj → Conj} (ha : (activeSlot (cellAt s.dev c)).isSome = true)
    (hf : ∀ k : Conj, (f k).regs = k.regs) :
    (∀ g, regAt (s.coreAt c t f).dev c g = regAt s.dev c g) ∧ OtherCells s (s.coreAt c t f) c ∧ OutsideCells s (s.coreAt c t f) := by
  refine ⟨fun g => ?_, ⟨rfl, fun p hp => cellP_updP_ne _ _ hp⟩, ⟨rfl, rfl, rfl, rfl, rfl, rfl, rfl, rfl, rfl, rfl, rfl⟩⟩
  show (cellAt (updConj c _ s.dev) c).conj.reg g = _
  rw [cellAt_updConj_self ha]
  simp only [regAt, Conj.reg, Conj.goTo, hf]

/-! ### Loads and stores -/

/-- The address of a load or store is as the rule computes it. -/
theorem dataAddr_eq (a : W64) (imm : BitVec 16) : dataAddr a imm = a + BitVec.ofInt 64 imm.toInt := rfl

theorem dataAddrOk_iff {x : W64} {size : Nat} : dataAddrOk x size = true ↔ x.toNat < 65536 ∧ x.toNat % size = 0 := by
  simp [dataAddrOk]

/-- A load at an aligned address of the data store answers its register. -/
theorem conjLoad_next {c : LCell} {i : Instr} {a d : Reg} {imm : BitVec 16} {size : Nat} {ext : Nat → W64} {s : State}
    (h : IssuesInside s c i [a, d]) (hx : dataAddrOk (dataAddr (regAt s.dev c a) imm) size = true) :
    onDev (conjLoad c i a d imm size ext) s =
      .next (s.wrote c d (ext (s.dataNat c (dataAddr (regAt s.dev c a) imm).toNat size))) := by
  unfold onDev conjLoad
  rw [conjDo_pos _ h.1]
  simp only [hx, if_true]
  rw [conjWrite_next h]; rfl

/-- A store at an aligned address answers its bytes in the data store. -/
theorem conjStore_next {c : LCell} {i : Instr} {a r : Reg} {imm : BitVec 16} {size : Nat} {s : State}
    (h : IssuesInside s c i [a, r]) (hx : dataAddrOk (dataAddr (regAt s.dev c a) imm) size = true) :
    onDev (conjStore c i a r imm size) s = .next (s.coreNext c fun k =>
      { k with dmem := k.dmem.wrN (dataAddr (regAt s.dev c a) imm).toNat (leBytes size (regAt s.dev c r).toNat) }) := by
  unfold onDev conjStore
  rw [conjDo_pos _ h.1]
  simp only [hx, if_true]
  rw [conjNext_updConj _ (issues_active h.1) (by simp) h.2]; rfl

/-- A load at any other address records DATA_ADDRESS. -/
theorem conjLoad_fault {c : LCell} {i : Instr} {a d : Reg} {imm : BitVec 16} {size : Nat} {ext : Nat → W64} {s : State}
    (h : Issues s c i [a, d]) (hx : dataAddrOk (dataAddr (regAt s.dev c a) imm) size = false) :
    onDev (conjLoad c i a d imm size ext) s = .next { s with dev := conjFault c 0x0107 (dataAddr (regAt s.dev c a) imm).toNat 0 s.dev } := by
  unfold onDev conjLoad
  rw [conjDo_pos _ h]
  simp [hx]

/-- A store at any other address records DATA_ADDRESS. -/
theorem conjStore_fault {c : LCell} {i : Instr} {a r : Reg} {imm : BitVec 16} {size : Nat} {s : State}
    (h : Issues s c i [a, r]) (hx : dataAddrOk (dataAddr (regAt s.dev c a) imm) size = false) :
    onDev (conjStore c i a r imm size) s = .next { s with dev := conjFault c 0x0107 (dataAddr (regAt s.dev c a) imm).toNat 0 s.dev } := by
  unfold onDev conjStore
  rw [conjDo_pos _ h]
  simp [hx]

theorem leBytes_length (n v : Nat) : (leBytes n v).length = n := by
  induction n generalizing v with
  | zero => rfl
  | succ n ih => simp [leBytes, ih]

/-! ### Branches -/

/-- A branch that is taken goes to its target inside the program. -/
theorem conjBranch_taken {c : LCell} {i : Instr} {a b : Reg} {off : BitVec 16} {p : W64 → W64 → Bool} {s : State}
    (h : Issues s c i [a, b]) (hp : p (regAt s.dev c a) (regAt s.dev c b) = true) (ht : relTarget s.dev c off < progLen (cellAt s.dev c)) :
    onDev (conjBranch c i a b off p) s = .next (s.coreAt c (relTarget s.dev c off) id) := by
  unfold onDev conjBranch
  rw [conjDo_pos _ h]
  simp only [hp, if_true]
  rw [conjGo_inside ht]; rfl

/-- A branch that is not taken goes on at the next instruction. -/
theorem conjBranch_passed {c : LCell} {i : Instr} {a b : Reg} {off : BitVec 16} {p : W64 → W64 → Bool} {s : State}
    (h : Issues s c i [a, b]) (hp : p (regAt s.dev c a) (regAt s.dev c b) = false) (ht : s.pc c + 1 < progLen (cellAt s.dev c)) :
    onDev (conjBranch c i a b off p) s = .next (s.coreNext c id) := by
  unfold onDev conjBranch
  rw [conjDo_pos _ h]
  simp only [hp, Bool.false_eq_true, if_false]
  unfold conjNext
  unfold State.pc at ht
  rw [conjGo_inside ht]; rfl

/-! ### Records of a core -/

/-- An update of a cell after a record reads as an update of the cell before it. -/
theorem ReportsOnly.cellAt_updCell {c : LCell} {f : Cell → Cell} {d e : Dev} (h : ReportsOnly d e) (hne : f (Machine.cellAt d c) ≠ {}) :
    Machine.cellAt (updCell c f e) c = f (Machine.cellAt d c) := by
  have g : Machine.cellAt e c = Machine.cellAt d c := h.cellAt c
  rw [cellAt_updCell_self (by rw [g]; exact hne), g]

/-- A core's clause-fatal record: the record enters the log, the core stops past its instruction, and no other cell and nothing
outside the cells changes. -/
theorem conjFault_spec {c : LCell} {code d0 d1 : Nat} {s : State} (ha : (activeSlot (cellAt s.dev c)).isSome = true) :
    let t : State := { s with dev := conjFault c code d0 d1 s.dev }
    Recorded s t (coreRecord s c code d0 d1) ∧
    cellAt t.dev c = { cellAt s.dev c with stopped := true, conj := { (cellAt s.dev c).conj with pc := s.pc c + 1, stall := none } } ∧
    OtherCells s t c ∧ OutsideCells s t := by
  intro t
  have hr := recCell_reports code 1 c (activeId (cellAt s.dev c)) (some (cellAt s.dev c).conj.pc) d0 d1 s.dev
  refine ⟨?_, hr.cellAt_updCell (cell_ne_default ha), ⟨hr.mesh, fun p hp => ?_⟩, ?_⟩
  · let r : FaultRec := { code := code, severity := 1, rflags := 7, lcell := lcellCode c, pcell := physCode (phys s.dev c),
                          clause := activeId (cellAt s.dev c), off := s.pc c, d0 := d0, d1 := d1 }
    obtain ⟨h1, h2⟩ := record_logged r s.dev
    refine ⟨h1, ?_⟩
    show NMap.get none (record _ s.dev).health.ring _ = _
    erw [h2, NMap.get_set_self_of_ne _ _ (by simp)]
    rfl
  · show cellP (updP (phys (recCell _ _ _ _ _ _ _ _) c) _ _) p = _
    rw [hr.phys, cellP_updP_ne _ _ hp, hr.cellP]
  · have g := hr
    unfold ReportsOnly at g
    unfold OutsideCells
    show _ ∧ _ ∧ (recCell _ _ _ _ _ _ _ _).beat = _ ∧ (recCell _ _ _ _ _ _ _ _).sig = _ ∧ (recCell _ _ _ _ _ _ _ _).tiers = _ ∧
      (recCell _ _ _ _ _ _ _ _).epoch = _ ∧ (recCell _ _ _ _ _ _ _ _).movers = _ ∧ (recCell _ _ _ _ _ _ _ _).ports = _ ∧
      (recCell _ _ _ _ _ _ _ _).config = _ ∧ (recCell _ _ _ _ _ _ _ _).sec = _ ∧ (recCell _ _ _ _ _ _ _ _).power = _
    rw [g]
    exact ⟨rfl, rfl, rfl, rfl, rfl, rfl, rfl, rfl, rfl, rfl, rfl⟩

end Sys2Proof.Machine
end

