-- ==== Sys2Proof/Laws/State.lean ====
section
/-! SUPPORT. For each update of a part of the device, every other part as it was: no proof need unfold the update. -/
namespace Sys2Proof.Machine
variable (d : Dev)

/-! ### The outcomes of a command, and of a step -/

@[simp] theorem onDev_eq (f : Dev → Dev) (s : State) : onDev f s = .next { s with dev := f s.dev } := rfl
@[simp] theorem onDevO_eq (f : Otp → Dev → Dev) (s : State) : onDevO f s = .next { s with dev := f s.otp s.dev } := rfl
@[simp] theorem onBoth_eq (f : Otp → Dev → Otp × Dev) (s : State) :
    onBoth f s = .next { s with otp := (f s.otp s.dev).1, dev := (f s.otp s.dev).2 } := rfl
theorem step_nil {s : State} (h : s.pending = []) : step s = .next (tick s) := by simp [step, h]
theorem step_cons {s : State} {c : Instr} {cs : List Instr} (h : s.pending = c :: cs) : step s = exec c { s with pending := cs } := by
  simp [step, h]
@[simp] theorem tick_pending (s : State) : (tick s).pending = s.pending := rfl
@[simp] theorem tick_otp (s : State) : (tick s).otp = s.otp := rfl

@[simp] theorem updP_ctl (p : Nat) (f : Cell → Cell) : (updP p f d).ctl = d.ctl := rfl
@[simp] theorem updP_beat (p : Nat) (f : Cell → Cell) : (updP p f d).beat = d.beat := rfl
@[simp] theorem updP_mesh (p : Nat) (f : Cell → Cell) : (updP p f d).mesh = d.mesh := rfl
@[simp] theorem updP_sig (p : Nat) (f : Cell → Cell) : (updP p f d).sig = d.sig := rfl
@[simp] theorem updP_plan (p : Nat) (f : Cell → Cell) : (updP p f d).plan = d.plan := rfl
@[simp] theorem updP_tiers (p : Nat) (f : Cell → Cell) : (updP p f d).tiers = d.tiers := rfl
@[simp] theorem updP_epoch (p : Nat) (f : Cell → Cell) : (updP p f d).epoch = d.epoch := rfl
@[simp] theorem updP_movers (p : Nat) (f : Cell → Cell) : (updP p f d).movers = d.movers := rfl
@[simp] theorem updP_ports (p : Nat) (f : Cell → Cell) : (updP p f d).ports = d.ports := rfl
@[simp] theorem updP_beluf (p : Nat) (f : Cell → Cell) : (updP p f d).beluf = d.beluf := rfl
@[simp] theorem updP_config (p : Nat) (f : Cell → Cell) : (updP p f d).config = d.config := rfl
@[simp] theorem updP_health (p : Nat) (f : Cell → Cell) : (updP p f d).health = d.health := rfl
@[simp] theorem updP_sec (p : Nat) (f : Cell → Cell) : (updP p f d).sec = d.sec := rfl
@[simp] theorem updP_power (p : Nat) (f : Cell → Cell) : (updP p f d).power = d.power := rfl
@[simp] theorem updP_tx (p : Nat) (f : Cell → Cell) : (updP p f d).tx = d.tx := rfl

@[simp] theorem updCell_ctl (c : LCell) (f : Cell → Cell) : (updCell c f d).ctl = d.ctl := rfl
@[simp] theorem updCell_beat (c : LCell) (f : Cell → Cell) : (updCell c f d).beat = d.beat := rfl
@[simp] theorem updCell_mesh (c : LCell) (f : Cell → Cell) : (updCell c f d).mesh = d.mesh := rfl
@[simp] theorem updCell_sig (c : LCell) (f : Cell → Cell) : (updCell c f d).sig = d.sig := rfl
@[simp] theorem updCell_plan (c : LCell) (f : Cell → Cell) : (updCell c f d).plan = d.plan := rfl
@[simp] theorem updCell_tiers (c : LCell) (f : Cell → Cell) : (updCell c f d).tiers = d.tiers := rfl
@[simp] theorem updCell_epoch (c : LCell) (f : Cell → Cell) : (updCell c f d).epoch = d.epoch := rfl
@[simp] theorem updCell_movers (c : LCell) (f : Cell → Cell) : (updCell c f d).movers = d.movers := rfl
@[simp] theorem updCell_ports (c : LCell) (f : Cell → Cell) : (updCell c f d).ports = d.ports := rfl
@[simp] theorem updCell_beluf (c : LCell) (f : Cell → Cell) : (updCell c f d).beluf = d.beluf := rfl
@[simp] theorem updCell_config (c : LCell) (f : Cell → Cell) : (updCell c f d).config = d.config := rfl
@[simp] theorem updCell_health (c : LCell) (f : Cell → Cell) : (updCell c f d).health = d.health := rfl
@[simp] theorem updCell_sec (c : LCell) (f : Cell → Cell) : (updCell c f d).sec = d.sec := rfl
@[simp] theorem updCell_power (c : LCell) (f : Cell → Cell) : (updCell c f d).power = d.power := rfl
@[simp] theorem updCell_tx (c : LCell) (f : Cell → Cell) : (updCell c f d).tx = d.tx := rfl

@[simp] theorem updConj_ctl (c : LCell) (f : Conj → Conj) : (updConj c f d).ctl = d.ctl := rfl
@[simp] theorem updConj_beat (c : LCell) (f : Conj → Conj) : (updConj c f d).beat = d.beat := rfl
@[simp] theorem updConj_mesh (c : LCell) (f : Conj → Conj) : (updConj c f d).mesh = d.mesh := rfl
@[simp] theorem updConj_sig (c : LCell) (f : Conj → Conj) : (updConj c f d).sig = d.sig := rfl
@[simp] theorem updConj_plan (c : LCell) (f : Conj → Conj) : (updConj c f d).plan = d.plan := rfl
@[simp] theorem updConj_tiers (c : LCell) (f : Conj → Conj) : (updConj c f d).tiers = d.tiers := rfl
@[simp] theorem updConj_epoch (c : LCell) (f : Conj → Conj) : (updConj c f d).epoch = d.epoch := rfl
@[simp] theorem updConj_movers (c : LCell) (f : Conj → Conj) : (updConj c f d).movers = d.movers := rfl
@[simp] theorem updConj_ports (c : LCell) (f : Conj → Conj) : (updConj c f d).ports = d.ports := rfl
@[simp] theorem updConj_beluf (c : LCell) (f : Conj → Conj) : (updConj c f d).beluf = d.beluf := rfl
@[simp] theorem updConj_config (c : LCell) (f : Conj → Conj) : (updConj c f d).config = d.config := rfl
@[simp] theorem updConj_health (c : LCell) (f : Conj → Conj) : (updConj c f d).health = d.health := rfl
@[simp] theorem updConj_sec (c : LCell) (f : Conj → Conj) : (updConj c f d).sec = d.sec := rfl
@[simp] theorem updConj_power (c : LCell) (f : Conj → Conj) : (updConj c f d).power = d.power := rfl
@[simp] theorem updConj_tx (c : LCell) (f : Conj → Conj) : (updConj c f d).tx = d.tx := rfl

@[simp] theorem setRegAt_ctl (c : LCell) (r : Reg) (v : W64) : (setRegAt c r v d).ctl = d.ctl := rfl
@[simp] theorem setRegAt_beat (c : LCell) (r : Reg) (v : W64) : (setRegAt c r v d).beat = d.beat := rfl
@[simp] theorem setRegAt_mesh (c : LCell) (r : Reg) (v : W64) : (setRegAt c r v d).mesh = d.mesh := rfl
@[simp] theorem setRegAt_sig (c : LCell) (r : Reg) (v : W64) : (setRegAt c r v d).sig = d.sig := rfl
@[simp] theorem setRegAt_plan (c : LCell) (r : Reg) (v : W64) : (setRegAt c r v d).plan = d.plan := rfl
@[simp] theorem setRegAt_tiers (c : LCell) (r : Reg) (v : W64) : (setRegAt c r v d).tiers = d.tiers := rfl
@[simp] theorem setRegAt_epoch (c : LCell) (r : Reg) (v : W64) : (setRegAt c r v d).epoch = d.epoch := rfl
@[simp] theorem setRegAt_movers (c : LCell) (r : Reg) (v : W64) : (setRegAt c r v d).movers = d.movers := rfl
@[simp] theorem setRegAt_ports (c : LCell) (r : Reg) (v : W64) : (setRegAt c r v d).ports = d.ports := rfl
@[simp] theorem setRegAt_beluf (c : LCell) (r : Reg) (v : W64) : (setRegAt c r v d).beluf = d.beluf := rfl
@[simp] theorem setRegAt_config (c : LCell) (r : Reg) (v : W64) : (setRegAt c r v d).config = d.config := rfl
@[simp] theorem setRegAt_health (c : LCell) (r : Reg) (v : W64) : (setRegAt c r v d).health = d.health := rfl
@[simp] theorem setRegAt_sec (c : LCell) (r : Reg) (v : W64) : (setRegAt c r v d).sec = d.sec := rfl
@[simp] theorem setRegAt_power (c : LCell) (r : Reg) (v : W64) : (setRegAt c r v d).power = d.power := rfl
@[simp] theorem setRegAt_tx (c : LCell) (r : Reg) (v : W64) : (setRegAt c r v d).tx = d.tx := rfl

@[simp] theorem updClause_ctl (n : Nat) (f : Clause → Clause) : (updClause n f d).ctl = d.ctl := rfl
@[simp] theorem updClause_beat (n : Nat) (f : Clause → Clause) : (updClause n f d).beat = d.beat := rfl
@[simp] theorem updClause_mesh (n : Nat) (f : Clause → Clause) : (updClause n f d).mesh = d.mesh := rfl
@[simp] theorem updClause_cells (n : Nat) (f : Clause → Clause) : (updClause n f d).cells = d.cells := rfl
@[simp] theorem updClause_sig (n : Nat) (f : Clause → Clause) : (updClause n f d).sig = d.sig := rfl
@[simp] theorem updClause_tiers (n : Nat) (f : Clause → Clause) : (updClause n f d).tiers = d.tiers := rfl
@[simp] theorem updClause_epoch (n : Nat) (f : Clause → Clause) : (updClause n f d).epoch = d.epoch := rfl
@[simp] theorem updClause_movers (n : Nat) (f : Clause → Clause) : (updClause n f d).movers = d.movers := rfl
@[simp] theorem updClause_ports (n : Nat) (f : Clause → Clause) : (updClause n f d).ports = d.ports := rfl
@[simp] theorem updClause_beluf (n : Nat) (f : Clause → Clause) : (updClause n f d).beluf = d.beluf := rfl
@[simp] theorem updClause_config (n : Nat) (f : Clause → Clause) : (updClause n f d).config = d.config := rfl
@[simp] theorem updClause_health (n : Nat) (f : Clause → Clause) : (updClause n f d).health = d.health := rfl
@[simp] theorem updClause_sec (n : Nat) (f : Clause → Clause) : (updClause n f d).sec = d.sec := rfl
@[simp] theorem updClause_power (n : Nat) (f : Clause → Clause) : (updClause n f d).power = d.power := rfl
@[simp] theorem updClause_tx (n : Nat) (f : Clause → Clause) : (updClause n f d).tx = d.tx := rfl

@[simp] theorem updSig_ctl (f w : Nat) (g : SigWord → SigWord) : (updSig f w g d).ctl = d.ctl := rfl
@[simp] theorem updSig_beat (f w : Nat) (g : SigWord → SigWord) : (updSig f w g d).beat = d.beat := rfl
@[simp] theorem updSig_mesh (f w : Nat) (g : SigWord → SigWord) : (updSig f w g d).mesh = d.mesh := rfl
@[simp] theorem updSig_cells (f w : Nat) (g : SigWord → SigWord) : (updSig f w g d).cells = d.cells := rfl
@[simp] theorem updSig_plan (f w : Nat) (g : SigWord → SigWord) : (updSig f w g d).plan = d.plan := rfl
@[simp] theorem updSig_tiers (f w : Nat) (g : SigWord → SigWord) : (updSig f w g d).tiers = d.tiers := rfl
@[simp] theorem updSig_epoch (f w : Nat) (g : SigWord → SigWord) : (updSig f w g d).epoch = d.epoch := rfl
@[simp] theorem updSig_movers (f w : Nat) (g : SigWord → SigWord) : (updSig f w g d).movers = d.movers := rfl
@[simp] theorem updSig_ports (f w : Nat) (g : SigWord → SigWord) : (updSig f w g d).ports = d.ports := rfl
@[simp] theorem updSig_beluf (f w : Nat) (g : SigWord → SigWord) : (updSig f w g d).beluf = d.beluf := rfl
@[simp] theorem updSig_config (f w : Nat) (g : SigWord → SigWord) : (updSig f w g d).config = d.config := rfl
@[simp] theorem updSig_health (f w : Nat) (g : SigWord → SigWord) : (updSig f w g d).health = d.health := rfl
@[simp] theorem updSig_sec (f w : Nat) (g : SigWord → SigWord) : (updSig f w g d).sec = d.sec := rfl
@[simp] theorem updSig_power (f w : Nat) (g : SigWord → SigWord) : (updSig f w g d).power = d.power := rfl
@[simp] theorem updSig_tx (f w : Nat) (g : SigWord → SigWord) : (updSig f w g d).tx = d.tx := rfl

@[simp] theorem sendFlit_ctl (a b : Src) (x : Body) : (sendFlit a b x d).ctl = d.ctl := rfl
@[simp] theorem sendFlit_beat (a b : Src) (x : Body) : (sendFlit a b x d).beat = d.beat := rfl
@[simp] theorem sendFlit_cells (a b : Src) (x : Body) : (sendFlit a b x d).cells = d.cells := rfl
@[simp] theorem sendFlit_sig (a b : Src) (x : Body) : (sendFlit a b x d).sig = d.sig := rfl
@[simp] theorem sendFlit_plan (a b : Src) (x : Body) : (sendFlit a b x d).plan = d.plan := rfl
@[simp] theorem sendFlit_tiers (a b : Src) (x : Body) : (sendFlit a b x d).tiers = d.tiers := rfl
@[simp] theorem sendFlit_epoch (a b : Src) (x : Body) : (sendFlit a b x d).epoch = d.epoch := rfl
@[simp] theorem sendFlit_movers (a b : Src) (x : Body) : (sendFlit a b x d).movers = d.movers := rfl
@[simp] theorem sendFlit_ports (a b : Src) (x : Body) : (sendFlit a b x d).ports = d.ports := rfl
@[simp] theorem sendFlit_beluf (a b : Src) (x : Body) : (sendFlit a b x d).beluf = d.beluf := rfl
@[simp] theorem sendFlit_config (a b : Src) (x : Body) : (sendFlit a b x d).config = d.config := rfl
@[simp] theorem sendFlit_health (a b : Src) (x : Body) : (sendFlit a b x d).health = d.health := rfl
@[simp] theorem sendFlit_sec (a b : Src) (x : Body) : (sendFlit a b x d).sec = d.sec := rfl
@[simp] theorem sendFlit_power (a b : Src) (x : Body) : (sendFlit a b x d).power = d.power := rfl
@[simp] theorem sendFlit_tx (a b : Src) (x : Body) : (sendFlit a b x d).tx = d.tx := rfl

@[simp] theorem sendTwo_ctl (a b : Src) (x y : Body) : (sendTwo a b x y d).ctl = d.ctl := rfl
@[simp] theorem sendTwo_beat (a b : Src) (x y : Body) : (sendTwo a b x y d).beat = d.beat := rfl
@[simp] theorem sendTwo_cells (a b : Src) (x y : Body) : (sendTwo a b x y d).cells = d.cells := rfl
@[simp] theorem sendTwo_sig (a b : Src) (x y : Body) : (sendTwo a b x y d).sig = d.sig := rfl
@[simp] theorem sendTwo_plan (a b : Src) (x y : Body) : (sendTwo a b x y d).plan = d.plan := rfl
@[simp] theorem sendTwo_tiers (a b : Src) (x y : Body) : (sendTwo a b x y d).tiers = d.tiers := rfl
@[simp] theorem sendTwo_epoch (a b : Src) (x y : Body) : (sendTwo a b x y d).epoch = d.epoch := rfl
@[simp] theorem sendTwo_movers (a b : Src) (x y : Body) : (sendTwo a b x y d).movers = d.movers := rfl
@[simp] theorem sendTwo_ports (a b : Src) (x y : Body) : (sendTwo a b x y d).ports = d.ports := rfl
@[simp] theorem sendTwo_beluf (a b : Src) (x y : Body) : (sendTwo a b x y d).beluf = d.beluf := rfl
@[simp] theorem sendTwo_config (a b : Src) (x y : Body) : (sendTwo a b x y d).config = d.config := rfl
@[simp] theorem sendTwo_health (a b : Src) (x y : Body) : (sendTwo a b x y d).health = d.health := rfl
@[simp] theorem sendTwo_sec (a b : Src) (x y : Body) : (sendTwo a b x y d).sec = d.sec := rfl
@[simp] theorem sendTwo_power (a b : Src) (x y : Body) : (sendTwo a b x y d).power = d.power := rfl
@[simp] theorem sendTwo_tx (a b : Src) (x y : Body) : (sendTwo a b x y d).tx = d.tx := rfl

@[simp] theorem sigIssue_ctl (op : SigOp) (r : SigReq) (w : SigFor) : (sigIssue op r w d).ctl = d.ctl := rfl
@[simp] theorem sigIssue_beat (op : SigOp) (r : SigReq) (w : SigFor) : (sigIssue op r w d).beat = d.beat := rfl
@[simp] theorem sigIssue_cells (op : SigOp) (r : SigReq) (w : SigFor) : (sigIssue op r w d).cells = d.cells := rfl
@[simp] theorem sigIssue_plan (op : SigOp) (r : SigReq) (w : SigFor) : (sigIssue op r w d).plan = d.plan := rfl
@[simp] theorem sigIssue_tiers (op : SigOp) (r : SigReq) (w : SigFor) : (sigIssue op r w d).tiers = d.tiers := rfl
@[simp] theorem sigIssue_epoch (op : SigOp) (r : SigReq) (w : SigFor) : (sigIssue op r w d).epoch = d.epoch := rfl
@[simp] theorem sigIssue_movers (op : SigOp) (r : SigReq) (w : SigFor) : (sigIssue op r w d).movers = d.movers := rfl
@[simp] theorem sigIssue_ports (op : SigOp) (r : SigReq) (w : SigFor) : (sigIssue op r w d).ports = d.ports := rfl
@[simp] theorem sigIssue_beluf (op : SigOp) (r : SigReq) (w : SigFor) : (sigIssue op r w d).beluf = d.beluf := rfl
@[simp] theorem sigIssue_config (op : SigOp) (r : SigReq) (w : SigFor) : (sigIssue op r w d).config = d.config := rfl
@[simp] theorem sigIssue_health (op : SigOp) (r : SigReq) (w : SigFor) : (sigIssue op r w d).health = d.health := rfl
@[simp] theorem sigIssue_sec (op : SigOp) (r : SigReq) (w : SigFor) : (sigIssue op r w d).sec = d.sec := rfl
@[simp] theorem sigIssue_power (op : SigOp) (r : SigReq) (w : SigFor) : (sigIssue op r w d).power = d.power := rfl
@[simp] theorem sigIssue_tx (op : SigOp) (r : SigReq) (w : SigFor) : (sigIssue op r w d).tx = d.tx := rfl

@[simp] theorem storeReply_ctl (f : Nat) (a : Src) (r : SigRes) (v : W64) : (storeReply f a r v d).ctl = d.ctl := rfl
@[simp] theorem storeReply_beat (f : Nat) (a : Src) (r : SigRes) (v : W64) : (storeReply f a r v d).beat = d.beat := rfl
@[simp] theorem storeReply_cells (f : Nat) (a : Src) (r : SigRes) (v : W64) : (storeReply f a r v d).cells = d.cells := rfl
@[simp] theorem storeReply_sig (f : Nat) (a : Src) (r : SigRes) (v : W64) : (storeReply f a r v d).sig = d.sig := rfl
@[simp] theorem storeReply_plan (f : Nat) (a : Src) (r : SigRes) (v : W64) : (storeReply f a r v d).plan = d.plan := rfl
@[simp] theorem storeReply_tiers (f : Nat) (a : Src) (r : SigRes) (v : W64) : (storeReply f a r v d).tiers = d.tiers := rfl
@[simp] theorem storeReply_epoch (f : Nat) (a : Src) (r : SigRes) (v : W64) : (storeReply f a r v d).epoch = d.epoch := rfl
@[simp] theorem storeReply_movers (f : Nat) (a : Src) (r : SigRes) (v : W64) : (storeReply f a r v d).movers = d.movers := rfl
@[simp] theorem storeReply_ports (f : Nat) (a : Src) (r : SigRes) (v : W64) : (storeReply f a r v d).ports = d.ports := rfl
@[simp] theorem storeReply_beluf (f : Nat) (a : Src) (r : SigRes) (v : W64) : (storeReply f a r v d).beluf = d.beluf := rfl
@[simp] theorem storeReply_config (f : Nat) (a : Src) (r : SigRes) (v : W64) : (storeReply f a r v d).config = d.config := rfl
@[simp] theorem storeReply_health (f : Nat) (a : Src) (r : SigRes) (v : W64) : (storeReply f a r v d).health = d.health := rfl
@[simp] theorem storeReply_sec (f : Nat) (a : Src) (r : SigRes) (v : W64) : (storeReply f a r v d).sec = d.sec := rfl
@[simp] theorem storeReply_power (f : Nat) (a : Src) (r : SigRes) (v : W64) : (storeReply f a r v d).power = d.power := rfl
@[simp] theorem storeReply_tx (f : Nat) (a : Src) (r : SigRes) (v : W64) : (storeReply f a r v d).tx = d.tx := rfl

@[simp] theorem countRefused_ctl (f w : Nat) : (countRefused f w d).ctl = d.ctl := rfl
@[simp] theorem countRefused_beat (f w : Nat) : (countRefused f w d).beat = d.beat := rfl
@[simp] theorem countRefused_mesh (f w : Nat) : (countRefused f w d).mesh = d.mesh := rfl
@[simp] theorem countRefused_cells (f w : Nat) : (countRefused f w d).cells = d.cells := rfl
@[simp] theorem countRefused_plan (f w : Nat) : (countRefused f w d).plan = d.plan := rfl
@[simp] theorem countRefused_tiers (f w : Nat) : (countRefused f w d).tiers = d.tiers := rfl
@[simp] theorem countRefused_epoch (f w : Nat) : (countRefused f w d).epoch = d.epoch := rfl
@[simp] theorem countRefused_movers (f w : Nat) : (countRefused f w d).movers = d.movers := rfl
@[simp] theorem countRefused_ports (f w : Nat) : (countRefused f w d).ports = d.ports := rfl
@[simp] theorem countRefused_beluf (f w : Nat) : (countRefused f w d).beluf = d.beluf := rfl
@[simp] theorem countRefused_config (f w : Nat) : (countRefused f w d).config = d.config := rfl
@[simp] theorem countRefused_health (f w : Nat) : (countRefused f w d).health = d.health := rfl
@[simp] theorem countRefused_sec (f w : Nat) : (countRefused f w d).sec = d.sec := rfl
@[simp] theorem countRefused_power (f w : Nat) : (countRefused f w d).power = d.power := rfl
@[simp] theorem countRefused_tx (f w : Nat) : (countRefused f w d).tx = d.tx := rfl

@[simp] theorem notify_ctl (k i u : Nat) (b : List Byte) : (notify k i u b d).ctl = d.ctl := rfl
@[simp] theorem notify_beat (k i u : Nat) (b : List Byte) : (notify k i u b d).beat = d.beat := rfl
@[simp] theorem notify_mesh (k i u : Nat) (b : List Byte) : (notify k i u b d).mesh = d.mesh := rfl
@[simp] theorem notify_cells (k i u : Nat) (b : List Byte) : (notify k i u b d).cells = d.cells := rfl
@[simp] theorem notify_sig (k i u : Nat) (b : List Byte) : (notify k i u b d).sig = d.sig := rfl
@[simp] theorem notify_plan (k i u : Nat) (b : List Byte) : (notify k i u b d).plan = d.plan := rfl
@[simp] theorem notify_tiers (k i u : Nat) (b : List Byte) : (notify k i u b d).tiers = d.tiers := rfl
@[simp] theorem notify_epoch (k i u : Nat) (b : List Byte) : (notify k i u b d).epoch = d.epoch := rfl
@[simp] theorem notify_movers (k i u : Nat) (b : List Byte) : (notify k i u b d).movers = d.movers := rfl
@[simp] theorem notify_ports (k i u : Nat) (b : List Byte) : (notify k i u b d).ports = d.ports := rfl
@[simp] theorem notify_config (k i u : Nat) (b : List Byte) : (notify k i u b d).config = d.config := rfl
@[simp] theorem notify_health (k i u : Nat) (b : List Byte) : (notify k i u b d).health = d.health := rfl
@[simp] theorem notify_sec (k i u : Nat) (b : List Byte) : (notify k i u b d).sec = d.sec := rfl
@[simp] theorem notify_power (k i u : Nat) (b : List Byte) : (notify k i u b d).power = d.power := rfl

@[simp] theorem updOp_ctl (k : Nat) (f : Op → Op) : (updOp k f d).ctl = d.ctl := rfl
@[simp] theorem updOp_beat (k : Nat) (f : Op → Op) : (updOp k f d).beat = d.beat := rfl
@[simp] theorem updOp_mesh (k : Nat) (f : Op → Op) : (updOp k f d).mesh = d.mesh := rfl
@[simp] theorem updOp_cells (k : Nat) (f : Op → Op) : (updOp k f d).cells = d.cells := rfl
@[simp] theorem updOp_sig (k : Nat) (f : Op → Op) : (updOp k f d).sig = d.sig := rfl
@[simp] theorem updOp_plan (k : Nat) (f : Op → Op) : (updOp k f d).plan = d.plan := rfl
@[simp] theorem updOp_tiers (k : Nat) (f : Op → Op) : (updOp k f d).tiers = d.tiers := rfl
@[simp] theorem updOp_epoch (k : Nat) (f : Op → Op) : (updOp k f d).epoch = d.epoch := rfl
@[simp] theorem updOp_movers (k : Nat) (f : Op → Op) : (updOp k f d).movers = d.movers := rfl
@[simp] theorem updOp_ports (k : Nat) (f : Op → Op) : (updOp k f d).ports = d.ports := rfl
@[simp] theorem updOp_config (k : Nat) (f : Op → Op) : (updOp k f d).config = d.config := rfl
@[simp] theorem updOp_health (k : Nat) (f : Op → Op) : (updOp k f d).health = d.health := rfl
@[simp] theorem updOp_sec (k : Nat) (f : Op → Op) : (updOp k f d).sec = d.sec := rfl
@[simp] theorem updOp_power (k : Nat) (f : Op → Op) : (updOp k f d).power = d.power := rfl
@[simp] theorem updOp_tx (k : Nat) (f : Op → Op) : (updOp k f d).tx = d.tx := rfl

@[simp] theorem opStart_ctl (k i u t : Nat) : (opStart k i u t d).ctl = d.ctl := rfl
@[simp] theorem opStart_beat (k i u t : Nat) : (opStart k i u t d).beat = d.beat := rfl
@[simp] theorem opStart_mesh (k i u t : Nat) : (opStart k i u t d).mesh = d.mesh := rfl
@[simp] theorem opStart_cells (k i u t : Nat) : (opStart k i u t d).cells = d.cells := rfl
@[simp] theorem opStart_sig (k i u t : Nat) : (opStart k i u t d).sig = d.sig := rfl
@[simp] theorem opStart_plan (k i u t : Nat) : (opStart k i u t d).plan = d.plan := rfl
@[simp] theorem opStart_tiers (k i u t : Nat) : (opStart k i u t d).tiers = d.tiers := rfl
@[simp] theorem opStart_epoch (k i u t : Nat) : (opStart k i u t d).epoch = d.epoch := rfl
@[simp] theorem opStart_movers (k i u t : Nat) : (opStart k i u t d).movers = d.movers := rfl
@[simp] theorem opStart_ports (k i u t : Nat) : (opStart k i u t d).ports = d.ports := rfl
@[simp] theorem opStart_config (k i u t : Nat) : (opStart k i u t d).config = d.config := rfl
@[simp] theorem opStart_health (k i u t : Nat) : (opStart k i u t d).health = d.health := rfl
@[simp] theorem opStart_sec (k i u t : Nat) : (opStart k i u t d).sec = d.sec := rfl
@[simp] theorem opStart_power (k i u t : Nat) : (opStart k i u t d).power = d.power := rfl
@[simp] theorem opStart_tx (k i u t : Nat) : (opStart k i u t d).tx = d.tx := rfl

@[simp] theorem updBeluf_ctl (f : Beluf → Beluf) : (updBeluf f d).ctl = d.ctl := rfl
@[simp] theorem updBeluf_beat (f : Beluf → Beluf) : (updBeluf f d).beat = d.beat := rfl
@[simp] theorem updBeluf_mesh (f : Beluf → Beluf) : (updBeluf f d).mesh = d.mesh := rfl
@[simp] theorem updBeluf_cells (f : Beluf → Beluf) : (updBeluf f d).cells = d.cells := rfl
@[simp] theorem updBeluf_sig (f : Beluf → Beluf) : (updBeluf f d).sig = d.sig := rfl
@[simp] theorem updBeluf_plan (f : Beluf → Beluf) : (updBeluf f d).plan = d.plan := rfl
@[simp] theorem updBeluf_tiers (f : Beluf → Beluf) : (updBeluf f d).tiers = d.tiers := rfl
@[simp] theorem updBeluf_epoch (f : Beluf → Beluf) : (updBeluf f d).epoch = d.epoch := rfl
@[simp] theorem updBeluf_movers (f : Beluf → Beluf) : (updBeluf f d).movers = d.movers := rfl
@[simp] theorem updBeluf_ports (f : Beluf → Beluf) : (updBeluf f d).ports = d.ports := rfl
@[simp] theorem updBeluf_config (f : Beluf → Beluf) : (updBeluf f d).config = d.config := rfl
@[simp] theorem updBeluf_health (f : Beluf → Beluf) : (updBeluf f d).health = d.health := rfl
@[simp] theorem updBeluf_sec (f : Beluf → Beluf) : (updBeluf f d).sec = d.sec := rfl
@[simp] theorem updBeluf_power (f : Beluf → Beluf) : (updBeluf f d).power = d.power := rfl
@[simp] theorem updBeluf_tx (f : Beluf → Beluf) : (updBeluf f d).tx = d.tx := rfl

@[simp] theorem updStream_ctl (n : Nat) (f : Stream → Stream) : (updStream n f d).ctl = d.ctl := rfl
@[simp] theorem updStream_beat (n : Nat) (f : Stream → Stream) : (updStream n f d).beat = d.beat := rfl
@[simp] theorem updStream_mesh (n : Nat) (f : Stream → Stream) : (updStream n f d).mesh = d.mesh := rfl
@[simp] theorem updStream_cells (n : Nat) (f : Stream → Stream) : (updStream n f d).cells = d.cells := rfl
@[simp] theorem updStream_sig (n : Nat) (f : Stream → Stream) : (updStream n f d).sig = d.sig := rfl
@[simp] theorem updStream_plan (n : Nat) (f : Stream → Stream) : (updStream n f d).plan = d.plan := rfl
@[simp] theorem updStream_tiers (n : Nat) (f : Stream → Stream) : (updStream n f d).tiers = d.tiers := rfl
@[simp] theorem updStream_epoch (n : Nat) (f : Stream → Stream) : (updStream n f d).epoch = d.epoch := rfl
@[simp] theorem updStream_movers (n : Nat) (f : Stream → Stream) : (updStream n f d).movers = d.movers := rfl
@[simp] theorem updStream_ports (n : Nat) (f : Stream → Stream) : (updStream n f d).ports = d.ports := rfl
@[simp] theorem updStream_config (n : Nat) (f : Stream → Stream) : (updStream n f d).config = d.config := rfl
@[simp] theorem updStream_health (n : Nat) (f : Stream → Stream) : (updStream n f d).health = d.health := rfl
@[simp] theorem updStream_sec (n : Nat) (f : Stream → Stream) : (updStream n f d).sec = d.sec := rfl
@[simp] theorem updStream_power (n : Nat) (f : Stream → Stream) : (updStream n f d).power = d.power := rfl
@[simp] theorem updStream_tx (n : Nat) (f : Stream → Stream) : (updStream n f d).tx = d.tx := rfl

@[simp] theorem updSession_ctl (n : Nat) (f : Session → Session) : (updSession n f d).ctl = d.ctl := rfl
@[simp] theorem updSession_beat (n : Nat) (f : Session → Session) : (updSession n f d).beat = d.beat := rfl
@[simp] theorem updSession_mesh (n : Nat) (f : Session → Session) : (updSession n f d).mesh = d.mesh := rfl
@[simp] theorem updSession_cells (n : Nat) (f : Session → Session) : (updSession n f d).cells = d.cells := rfl
@[simp] theorem updSession_sig (n : Nat) (f : Session → Session) : (updSession n f d).sig = d.sig := rfl
@[simp] theorem updSession_plan (n : Nat) (f : Session → Session) : (updSession n f d).plan = d.plan := rfl
@[simp] theorem updSession_tiers (n : Nat) (f : Session → Session) : (updSession n f d).tiers = d.tiers := rfl
@[simp] theorem updSession_epoch (n : Nat) (f : Session → Session) : (updSession n f d).epoch = d.epoch := rfl
@[simp] theorem updSession_movers (n : Nat) (f : Session → Session) : (updSession n f d).movers = d.movers := rfl
@[simp] theorem updSession_ports (n : Nat) (f : Session → Session) : (updSession n f d).ports = d.ports := rfl
@[simp] theorem updSession_config (n : Nat) (f : Session → Session) : (updSession n f d).config = d.config := rfl
@[simp] theorem updSession_health (n : Nat) (f : Session → Session) : (updSession n f d).health = d.health := rfl
@[simp] theorem updSession_sec (n : Nat) (f : Session → Session) : (updSession n f d).sec = d.sec := rfl
@[simp] theorem updSession_power (n : Nat) (f : Session → Session) : (updSession n f d).power = d.power := rfl
@[simp] theorem updSession_tx (n : Nat) (f : Session → Session) : (updSession n f d).tx = d.tx := rfl

@[simp] theorem belufDrop_ctl : (belufDrop d).ctl = d.ctl := rfl
@[simp] theorem belufDrop_beat : (belufDrop d).beat = d.beat := rfl
@[simp] theorem belufDrop_mesh : (belufDrop d).mesh = d.mesh := rfl
@[simp] theorem belufDrop_cells : (belufDrop d).cells = d.cells := rfl
@[simp] theorem belufDrop_sig : (belufDrop d).sig = d.sig := rfl
@[simp] theorem belufDrop_plan : (belufDrop d).plan = d.plan := rfl
@[simp] theorem belufDrop_tiers : (belufDrop d).tiers = d.tiers := rfl
@[simp] theorem belufDrop_epoch : (belufDrop d).epoch = d.epoch := rfl
@[simp] theorem belufDrop_movers : (belufDrop d).movers = d.movers := rfl
@[simp] theorem belufDrop_ports : (belufDrop d).ports = d.ports := rfl
@[simp] theorem belufDrop_config : (belufDrop d).config = d.config := rfl
@[simp] theorem belufDrop_health : (belufDrop d).health = d.health := rfl
@[simp] theorem belufDrop_sec : (belufDrop d).sec = d.sec := rfl
@[simp] theorem belufDrop_power : (belufDrop d).power = d.power := rfl
@[simp] theorem belufDrop_tx : (belufDrop d).tx = d.tx := rfl

@[simp] theorem sendTo_ctl (r : Req) (b : List Byte) : (sendTo r b d).ctl = d.ctl := rfl
@[simp] theorem sendTo_beat (r : Req) (b : List Byte) : (sendTo r b d).beat = d.beat := rfl
@[simp] theorem sendTo_mesh (r : Req) (b : List Byte) : (sendTo r b d).mesh = d.mesh := rfl
@[simp] theorem sendTo_cells (r : Req) (b : List Byte) : (sendTo r b d).cells = d.cells := rfl
@[simp] theorem sendTo_sig (r : Req) (b : List Byte) : (sendTo r b d).sig = d.sig := rfl
@[simp] theorem sendTo_plan (r : Req) (b : List Byte) : (sendTo r b d).plan = d.plan := rfl
@[simp] theorem sendTo_tiers (r : Req) (b : List Byte) : (sendTo r b d).tiers = d.tiers := rfl
@[simp] theorem sendTo_epoch (r : Req) (b : List Byte) : (sendTo r b d).epoch = d.epoch := rfl
@[simp] theorem sendTo_movers (r : Req) (b : List Byte) : (sendTo r b d).movers = d.movers := rfl
@[simp] theorem sendTo_ports (r : Req) (b : List Byte) : (sendTo r b d).ports = d.ports := rfl
@[simp] theorem sendTo_beluf (r : Req) (b : List Byte) : (sendTo r b d).beluf = d.beluf := rfl
@[simp] theorem sendTo_config (r : Req) (b : List Byte) : (sendTo r b d).config = d.config := rfl
@[simp] theorem sendTo_health (r : Req) (b : List Byte) : (sendTo r b d).health = d.health := rfl
@[simp] theorem sendTo_sec (r : Req) (b : List Byte) : (sendTo r b d).sec = d.sec := rfl
@[simp] theorem sendTo_power (r : Req) (b : List Byte) : (sendTo r b d).power = d.power := rfl

@[simp] theorem sendLink_ctl (p k : Nat) (l : LinkCtrl) : (sendLink p k l d).ctl = d.ctl := rfl
@[simp] theorem sendLink_beat (p k : Nat) (l : LinkCtrl) : (sendLink p k l d).beat = d.beat := rfl
@[simp] theorem sendLink_mesh (p k : Nat) (l : LinkCtrl) : (sendLink p k l d).mesh = d.mesh := rfl
@[simp] theorem sendLink_cells (p k : Nat) (l : LinkCtrl) : (sendLink p k l d).cells = d.cells := rfl
@[simp] theorem sendLink_sig (p k : Nat) (l : LinkCtrl) : (sendLink p k l d).sig = d.sig := rfl
@[simp] theorem sendLink_plan (p k : Nat) (l : LinkCtrl) : (sendLink p k l d).plan = d.plan := rfl
@[simp] theorem sendLink_tiers (p k : Nat) (l : LinkCtrl) : (sendLink p k l d).tiers = d.tiers := rfl
@[simp] theorem sendLink_epoch (p k : Nat) (l : LinkCtrl) : (sendLink p k l d).epoch = d.epoch := rfl
@[simp] theorem sendLink_movers (p k : Nat) (l : LinkCtrl) : (sendLink p k l d).movers = d.movers := rfl
@[simp] theorem sendLink_ports (p k : Nat) (l : LinkCtrl) : (sendLink p k l d).ports = d.ports := rfl
@[simp] theorem sendLink_beluf (p k : Nat) (l : LinkCtrl) : (sendLink p k l d).beluf = d.beluf := rfl
@[simp] theorem sendLink_config (p k : Nat) (l : LinkCtrl) : (sendLink p k l d).config = d.config := rfl
@[simp] theorem sendLink_health (p k : Nat) (l : LinkCtrl) : (sendLink p k l d).health = d.health := rfl
@[simp] theorem sendLink_sec (p k : Nat) (l : LinkCtrl) : (sendLink p k l d).sec = d.sec := rfl
@[simp] theorem sendLink_power (p k : Nat) (l : LinkCtrl) : (sendLink p k l d).power = d.power := rfl

@[simp] theorem sendNet_ctl (p : Nat) (m i : List Byte) (k : Nat) (b : List Byte) : (sendNet p m i k b d).ctl = d.ctl := rfl
@[simp] theorem sendNet_beat (p : Nat) (m i : List Byte) (k : Nat) (b : List Byte) : (sendNet p m i k b d).beat = d.beat := rfl
@[simp] theorem sendNet_mesh (p : Nat) (m i : List Byte) (k : Nat) (b : List Byte) : (sendNet p m i k b d).mesh = d.mesh := rfl
@[simp] theorem sendNet_cells (p : Nat) (m i : List Byte) (k : Nat) (b : List Byte) : (sendNet p m i k b d).cells = d.cells := rfl
@[simp] theorem sendNet_sig (p : Nat) (m i : List Byte) (k : Nat) (b : List Byte) : (sendNet p m i k b d).sig = d.sig := rfl
@[simp] theorem sendNet_plan (p : Nat) (m i : List Byte) (k : Nat) (b : List Byte) : (sendNet p m i k b d).plan = d.plan := rfl
@[simp] theorem sendNet_tiers (p : Nat) (m i : List Byte) (k : Nat) (b : List Byte) : (sendNet p m i k b d).tiers = d.tiers := rfl
@[simp] theorem sendNet_epoch (p : Nat) (m i : List Byte) (k : Nat) (b : List Byte) : (sendNet p m i k b d).epoch = d.epoch := rfl
@[simp] theorem sendNet_movers (p : Nat) (m i : List Byte) (k : Nat) (b : List Byte) : (sendNet p m i k b d).movers = d.movers := rfl
@[simp] theorem sendNet_ports (p : Nat) (m i : List Byte) (k : Nat) (b : List Byte) : (sendNet p m i k b d).ports = d.ports := rfl
@[simp] theorem sendNet_beluf (p : Nat) (m i : List Byte) (k : Nat) (b : List Byte) : (sendNet p m i k b d).beluf = d.beluf := rfl
@[simp] theorem sendNet_config (p : Nat) (m i : List Byte) (k : Nat) (b : List Byte) : (sendNet p m i k b d).config = d.config := rfl
@[simp] theorem sendNet_health (p : Nat) (m i : List Byte) (k : Nat) (b : List Byte) : (sendNet p m i k b d).health = d.health := rfl
@[simp] theorem sendNet_sec (p : Nat) (m i : List Byte) (k : Nat) (b : List Byte) : (sendNet p m i k b d).sec = d.sec := rfl
@[simp] theorem sendNet_power (p : Nat) (m i : List Byte) (k : Nat) (b : List Byte) : (sendNet p m i k b d).power = d.power := rfl

@[simp] theorem setMeasure_ctl (i : Nat) (v : List Byte) : (setMeasure i v d).ctl = d.ctl := rfl
@[simp] theorem setMeasure_beat (i : Nat) (v : List Byte) : (setMeasure i v d).beat = d.beat := rfl
@[simp] theorem setMeasure_mesh (i : Nat) (v : List Byte) : (setMeasure i v d).mesh = d.mesh := rfl
@[simp] theorem setMeasure_cells (i : Nat) (v : List Byte) : (setMeasure i v d).cells = d.cells := rfl
@[simp] theorem setMeasure_sig (i : Nat) (v : List Byte) : (setMeasure i v d).sig = d.sig := rfl
@[simp] theorem setMeasure_plan (i : Nat) (v : List Byte) : (setMeasure i v d).plan = d.plan := rfl
@[simp] theorem setMeasure_tiers (i : Nat) (v : List Byte) : (setMeasure i v d).tiers = d.tiers := rfl
@[simp] theorem setMeasure_epoch (i : Nat) (v : List Byte) : (setMeasure i v d).epoch = d.epoch := rfl
@[simp] theorem setMeasure_movers (i : Nat) (v : List Byte) : (setMeasure i v d).movers = d.movers := rfl
@[simp] theorem setMeasure_ports (i : Nat) (v : List Byte) : (setMeasure i v d).ports = d.ports := rfl
@[simp] theorem setMeasure_beluf (i : Nat) (v : List Byte) : (setMeasure i v d).beluf = d.beluf := rfl
@[simp] theorem setMeasure_config (i : Nat) (v : List Byte) : (setMeasure i v d).config = d.config := rfl
@[simp] theorem setMeasure_health (i : Nat) (v : List Byte) : (setMeasure i v d).health = d.health := rfl
@[simp] theorem setMeasure_power (i : Nat) (v : List Byte) : (setMeasure i v d).power = d.power := rfl
@[simp] theorem setMeasure_tx (i : Nat) (v : List Byte) : (setMeasure i v d).tx = d.tx := rfl

@[simp] theorem extend_ctl (i : Nat) (v : List Byte) : (extend i v d).ctl = d.ctl := rfl
@[simp] theorem extend_beat (i : Nat) (v : List Byte) : (extend i v d).beat = d.beat := rfl
@[simp] theorem extend_mesh (i : Nat) (v : List Byte) : (extend i v d).mesh = d.mesh := rfl
@[simp] theorem extend_cells (i : Nat) (v : List Byte) : (extend i v d).cells = d.cells := rfl
@[simp] theorem extend_sig (i : Nat) (v : List Byte) : (extend i v d).sig = d.sig := rfl
@[simp] theorem extend_plan (i : Nat) (v : List Byte) : (extend i v d).plan = d.plan := rfl
@[simp] theorem extend_tiers (i : Nat) (v : List Byte) : (extend i v d).tiers = d.tiers := rfl
@[simp] theorem extend_epoch (i : Nat) (v : List Byte) : (extend i v d).epoch = d.epoch := rfl
@[simp] theorem extend_movers (i : Nat) (v : List Byte) : (extend i v d).movers = d.movers := rfl
@[simp] theorem extend_ports (i : Nat) (v : List Byte) : (extend i v d).ports = d.ports := rfl
@[simp] theorem extend_beluf (i : Nat) (v : List Byte) : (extend i v d).beluf = d.beluf := rfl
@[simp] theorem extend_config (i : Nat) (v : List Byte) : (extend i v d).config = d.config := rfl
@[simp] theorem extend_health (i : Nat) (v : List Byte) : (extend i v d).health = d.health := rfl
@[simp] theorem extend_power (i : Nat) (v : List Byte) : (extend i v d).power = d.power := rfl
@[simp] theorem extend_tx (i : Nat) (v : List Byte) : (extend i v d).tx = d.tx := rfl

@[simp] theorem setEntry_ctl (n : Nat) (e : SchedEntry) : (setEntry n e d).ctl = d.ctl := rfl
@[simp] theorem setEntry_beat (n : Nat) (e : SchedEntry) : (setEntry n e d).beat = d.beat := rfl
@[simp] theorem setEntry_mesh (n : Nat) (e : SchedEntry) : (setEntry n e d).mesh = d.mesh := rfl
@[simp] theorem setEntry_cells (n : Nat) (e : SchedEntry) : (setEntry n e d).cells = d.cells := rfl
@[simp] theorem setEntry_sig (n : Nat) (e : SchedEntry) : (setEntry n e d).sig = d.sig := rfl
@[simp] theorem setEntry_tiers (n : Nat) (e : SchedEntry) : (setEntry n e d).tiers = d.tiers := rfl
@[simp] theorem setEntry_epoch (n : Nat) (e : SchedEntry) : (setEntry n e d).epoch = d.epoch := rfl
@[simp] theorem setEntry_movers (n : Nat) (e : SchedEntry) : (setEntry n e d).movers = d.movers := rfl
@[simp] theorem setEntry_ports (n : Nat) (e : SchedEntry) : (setEntry n e d).ports = d.ports := rfl
@[simp] theorem setEntry_beluf (n : Nat) (e : SchedEntry) : (setEntry n e d).beluf = d.beluf := rfl
@[simp] theorem setEntry_config (n : Nat) (e : SchedEntry) : (setEntry n e d).config = d.config := rfl
@[simp] theorem setEntry_health (n : Nat) (e : SchedEntry) : (setEntry n e d).health = d.health := rfl
@[simp] theorem setEntry_sec (n : Nat) (e : SchedEntry) : (setEntry n e d).sec = d.sec := rfl
@[simp] theorem setEntry_power (n : Nat) (e : SchedEntry) : (setEntry n e d).power = d.power := rfl
@[simp] theorem setEntry_tx (n : Nat) (e : SchedEntry) : (setEntry n e d).tx = d.tx := rfl

@[simp] theorem updSwitch_ctl (k : Nat) (f : Switch → Switch) : (updSwitch k f d).ctl = d.ctl := rfl
@[simp] theorem updSwitch_beat (k : Nat) (f : Switch → Switch) : (updSwitch k f d).beat = d.beat := rfl
@[simp] theorem updSwitch_mesh (k : Nat) (f : Switch → Switch) : (updSwitch k f d).mesh = d.mesh := rfl
@[simp] theorem updSwitch_cells (k : Nat) (f : Switch → Switch) : (updSwitch k f d).cells = d.cells := rfl
@[simp] theorem updSwitch_sig (k : Nat) (f : Switch → Switch) : (updSwitch k f d).sig = d.sig := rfl
@[simp] theorem updSwitch_tiers (k : Nat) (f : Switch → Switch) : (updSwitch k f d).tiers = d.tiers := rfl
@[simp] theorem updSwitch_epoch (k : Nat) (f : Switch → Switch) : (updSwitch k f d).epoch = d.epoch := rfl
@[simp] theorem updSwitch_movers (k : Nat) (f : Switch → Switch) : (updSwitch k f d).movers = d.movers := rfl
@[simp] theorem updSwitch_ports (k : Nat) (f : Switch → Switch) : (updSwitch k f d).ports = d.ports := rfl
@[simp] theorem updSwitch_beluf (k : Nat) (f : Switch → Switch) : (updSwitch k f d).beluf = d.beluf := rfl
@[simp] theorem updSwitch_config (k : Nat) (f : Switch → Switch) : (updSwitch k f d).config = d.config := rfl
@[simp] theorem updSwitch_health (k : Nat) (f : Switch → Switch) : (updSwitch k f d).health = d.health := rfl
@[simp] theorem updSwitch_sec (k : Nat) (f : Switch → Switch) : (updSwitch k f d).sec = d.sec := rfl
@[simp] theorem updSwitch_power (k : Nat) (f : Switch → Switch) : (updSwitch k f d).power = d.power := rfl
@[simp] theorem updSwitch_tx (k : Nat) (f : Switch → Switch) : (updSwitch k f d).tx = d.tx := rfl

@[simp] theorem dropSwitch_ctl (k : Nat) : (dropSwitch k d).ctl = d.ctl := rfl
@[simp] theorem dropSwitch_beat (k : Nat) : (dropSwitch k d).beat = d.beat := rfl
@[simp] theorem dropSwitch_mesh (k : Nat) : (dropSwitch k d).mesh = d.mesh := rfl
@[simp] theorem dropSwitch_cells (k : Nat) : (dropSwitch k d).cells = d.cells := rfl
@[simp] theorem dropSwitch_sig (k : Nat) : (dropSwitch k d).sig = d.sig := rfl
@[simp] theorem dropSwitch_tiers (k : Nat) : (dropSwitch k d).tiers = d.tiers := rfl
@[simp] theorem dropSwitch_epoch (k : Nat) : (dropSwitch k d).epoch = d.epoch := rfl
@[simp] theorem dropSwitch_movers (k : Nat) : (dropSwitch k d).movers = d.movers := rfl
@[simp] theorem dropSwitch_ports (k : Nat) : (dropSwitch k d).ports = d.ports := rfl
@[simp] theorem dropSwitch_beluf (k : Nat) : (dropSwitch k d).beluf = d.beluf := rfl
@[simp] theorem dropSwitch_config (k : Nat) : (dropSwitch k d).config = d.config := rfl
@[simp] theorem dropSwitch_health (k : Nat) : (dropSwitch k d).health = d.health := rfl
@[simp] theorem dropSwitch_sec (k : Nat) : (dropSwitch k d).sec = d.sec := rfl
@[simp] theorem dropSwitch_power (k : Nat) : (dropSwitch k d).power = d.power := rfl
@[simp] theorem dropSwitch_tx (k : Nat) : (dropSwitch k d).tx = d.tx := rfl

@[simp] theorem updSentence_ctl (n : Nat) (f : Sentence → Sentence) : (updSentence n f d).ctl = d.ctl := rfl
@[simp] theorem updSentence_beat (n : Nat) (f : Sentence → Sentence) : (updSentence n f d).beat = d.beat := rfl
@[simp] theorem updSentence_mesh (n : Nat) (f : Sentence → Sentence) : (updSentence n f d).mesh = d.mesh := rfl
@[simp] theorem updSentence_cells (n : Nat) (f : Sentence → Sentence) : (updSentence n f d).cells = d.cells := rfl
@[simp] theorem updSentence_sig (n : Nat) (f : Sentence → Sentence) : (updSentence n f d).sig = d.sig := rfl
@[simp] theorem updSentence_tiers (n : Nat) (f : Sentence → Sentence) : (updSentence n f d).tiers = d.tiers := rfl
@[simp] theorem updSentence_epoch (n : Nat) (f : Sentence → Sentence) : (updSentence n f d).epoch = d.epoch := rfl
@[simp] theorem updSentence_movers (n : Nat) (f : Sentence → Sentence) : (updSentence n f d).movers = d.movers := rfl
@[simp] theorem updSentence_ports (n : Nat) (f : Sentence → Sentence) : (updSentence n f d).ports = d.ports := rfl
@[simp] theorem updSentence_beluf (n : Nat) (f : Sentence → Sentence) : (updSentence n f d).beluf = d.beluf := rfl
@[simp] theorem updSentence_config (n : Nat) (f : Sentence → Sentence) : (updSentence n f d).config = d.config := rfl
@[simp] theorem updSentence_health (n : Nat) (f : Sentence → Sentence) : (updSentence n f d).health = d.health := rfl
@[simp] theorem updSentence_sec (n : Nat) (f : Sentence → Sentence) : (updSentence n f d).sec = d.sec := rfl
@[simp] theorem updSentence_power (n : Nat) (f : Sentence → Sentence) : (updSentence n f d).power = d.power := rfl
@[simp] theorem updSentence_tx (n : Nat) (f : Sentence → Sentence) : (updSentence n f d).tx = d.tx := rfl

@[simp] theorem updFab_ctl (p : Nat) (f : FabPort → FabPort) : (updFab p f d).ctl = d.ctl := rfl
@[simp] theorem updFab_beat (p : Nat) (f : FabPort → FabPort) : (updFab p f d).beat = d.beat := rfl
@[simp] theorem updFab_mesh (p : Nat) (f : FabPort → FabPort) : (updFab p f d).mesh = d.mesh := rfl
@[simp] theorem updFab_cells (p : Nat) (f : FabPort → FabPort) : (updFab p f d).cells = d.cells := rfl
@[simp] theorem updFab_sig (p : Nat) (f : FabPort → FabPort) : (updFab p f d).sig = d.sig := rfl
@[simp] theorem updFab_plan (p : Nat) (f : FabPort → FabPort) : (updFab p f d).plan = d.plan := rfl
@[simp] theorem updFab_tiers (p : Nat) (f : FabPort → FabPort) : (updFab p f d).tiers = d.tiers := rfl
@[simp] theorem updFab_epoch (p : Nat) (f : FabPort → FabPort) : (updFab p f d).epoch = d.epoch := rfl
@[simp] theorem updFab_movers (p : Nat) (f : FabPort → FabPort) : (updFab p f d).movers = d.movers := rfl
@[simp] theorem updFab_beluf (p : Nat) (f : FabPort → FabPort) : (updFab p f d).beluf = d.beluf := rfl
@[simp] theorem updFab_config (p : Nat) (f : FabPort → FabPort) : (updFab p f d).config = d.config := rfl
@[simp] theorem updFab_health (p : Nat) (f : FabPort → FabPort) : (updFab p f d).health = d.health := rfl
@[simp] theorem updFab_sec (p : Nat) (f : FabPort → FabPort) : (updFab p f d).sec = d.sec := rfl
@[simp] theorem updFab_power (p : Nat) (f : FabPort → FabPort) : (updFab p f d).power = d.power := rfl
@[simp] theorem updFab_tx (p : Nat) (f : FabPort → FabPort) : (updFab p f d).tx = d.tx := rfl

@[simp] theorem updHost_ctl (p : Nat) (f : HostPort → HostPort) : (updHost p f d).ctl = d.ctl := rfl
@[simp] theorem updHost_beat (p : Nat) (f : HostPort → HostPort) : (updHost p f d).beat = d.beat := rfl
@[simp] theorem updHost_mesh (p : Nat) (f : HostPort → HostPort) : (updHost p f d).mesh = d.mesh := rfl
@[simp] theorem updHost_cells (p : Nat) (f : HostPort → HostPort) : (updHost p f d).cells = d.cells := rfl
@[simp] theorem updHost_sig (p : Nat) (f : HostPort → HostPort) : (updHost p f d).sig = d.sig := rfl
@[simp] theorem updHost_plan (p : Nat) (f : HostPort → HostPort) : (updHost p f d).plan = d.plan := rfl
@[simp] theorem updHost_tiers (p : Nat) (f : HostPort → HostPort) : (updHost p f d).tiers = d.tiers := rfl
@[simp] theorem updHost_epoch (p : Nat) (f : HostPort → HostPort) : (updHost p f d).epoch = d.epoch := rfl
@[simp] theorem updHost_movers (p : Nat) (f : HostPort → HostPort) : (updHost p f d).movers = d.movers := rfl
@[simp] theorem updHost_beluf (p : Nat) (f : HostPort → HostPort) : (updHost p f d).beluf = d.beluf := rfl
@[simp] theorem updHost_config (p : Nat) (f : HostPort → HostPort) : (updHost p f d).config = d.config := rfl
@[simp] theorem updHost_health (p : Nat) (f : HostPort → HostPort) : (updHost p f d).health = d.health := rfl
@[simp] theorem updHost_sec (p : Nat) (f : HostPort → HostPort) : (updHost p f d).sec = d.sec := rfl
@[simp] theorem updHost_power (p : Nat) (f : HostPort → HostPort) : (updHost p f d).power = d.power := rfl
@[simp] theorem updHost_tx (p : Nat) (f : HostPort → HostPort) : (updHost p f d).tx = d.tx := rfl

@[simp] theorem setRun_ctl (k : Nat) (r : Option MoverRun) : (setRun k r d).ctl = d.ctl := rfl
@[simp] theorem setRun_beat (k : Nat) (r : Option MoverRun) : (setRun k r d).beat = d.beat := rfl
@[simp] theorem setRun_mesh (k : Nat) (r : Option MoverRun) : (setRun k r d).mesh = d.mesh := rfl
@[simp] theorem setRun_cells (k : Nat) (r : Option MoverRun) : (setRun k r d).cells = d.cells := rfl
@[simp] theorem setRun_sig (k : Nat) (r : Option MoverRun) : (setRun k r d).sig = d.sig := rfl
@[simp] theorem setRun_plan (k : Nat) (r : Option MoverRun) : (setRun k r d).plan = d.plan := rfl
@[simp] theorem setRun_tiers (k : Nat) (r : Option MoverRun) : (setRun k r d).tiers = d.tiers := rfl
@[simp] theorem setRun_epoch (k : Nat) (r : Option MoverRun) : (setRun k r d).epoch = d.epoch := rfl
@[simp] theorem setRun_ports (k : Nat) (r : Option MoverRun) : (setRun k r d).ports = d.ports := rfl
@[simp] theorem setRun_beluf (k : Nat) (r : Option MoverRun) : (setRun k r d).beluf = d.beluf := rfl
@[simp] theorem setRun_config (k : Nat) (r : Option MoverRun) : (setRun k r d).config = d.config := rfl
@[simp] theorem setRun_health (k : Nat) (r : Option MoverRun) : (setRun k r d).health = d.health := rfl
@[simp] theorem setRun_sec (k : Nat) (r : Option MoverRun) : (setRun k r d).sec = d.sec := rfl
@[simp] theorem setRun_power (k : Nat) (r : Option MoverRun) : (setRun k r d).power = d.power := rfl
@[simp] theorem setRun_tx (k : Nat) (r : Option MoverRun) : (setRun k r d).tx = d.tx := rfl

@[simp] theorem setDomain_ctl (n : Nat) (x : DomSt) : (setDomain n x d).ctl = d.ctl := rfl
@[simp] theorem setDomain_beat (n : Nat) (x : DomSt) : (setDomain n x d).beat = d.beat := rfl
@[simp] theorem setDomain_mesh (n : Nat) (x : DomSt) : (setDomain n x d).mesh = d.mesh := rfl
@[simp] theorem setDomain_cells (n : Nat) (x : DomSt) : (setDomain n x d).cells = d.cells := rfl
@[simp] theorem setDomain_sig (n : Nat) (x : DomSt) : (setDomain n x d).sig = d.sig := rfl
@[simp] theorem setDomain_plan (n : Nat) (x : DomSt) : (setDomain n x d).plan = d.plan := rfl
@[simp] theorem setDomain_tiers (n : Nat) (x : DomSt) : (setDomain n x d).tiers = d.tiers := rfl
@[simp] theorem setDomain_epoch (n : Nat) (x : DomSt) : (setDomain n x d).epoch = d.epoch := rfl
@[simp] theorem setDomain_movers (n : Nat) (x : DomSt) : (setDomain n x d).movers = d.movers := rfl
@[simp] theorem setDomain_ports (n : Nat) (x : DomSt) : (setDomain n x d).ports = d.ports := rfl
@[simp] theorem setDomain_beluf (n : Nat) (x : DomSt) : (setDomain n x d).beluf = d.beluf := rfl
@[simp] theorem setDomain_config (n : Nat) (x : DomSt) : (setDomain n x d).config = d.config := rfl
@[simp] theorem setDomain_health (n : Nat) (x : DomSt) : (setDomain n x d).health = d.health := rfl
@[simp] theorem setDomain_sec (n : Nat) (x : DomSt) : (setDomain n x d).sec = d.sec := rfl
@[simp] theorem setDomain_tx (n : Nat) (x : DomSt) : (setDomain n x d).tx = d.tx := rfl

@[simp] theorem updEpoch_ctl (f : Epoch → Epoch) : (updEpoch f d).ctl = d.ctl := rfl
@[simp] theorem updEpoch_beat (f : Epoch → Epoch) : (updEpoch f d).beat = d.beat := rfl
@[simp] theorem updEpoch_mesh (f : Epoch → Epoch) : (updEpoch f d).mesh = d.mesh := rfl
@[simp] theorem updEpoch_cells (f : Epoch → Epoch) : (updEpoch f d).cells = d.cells := rfl
@[simp] theorem updEpoch_sig (f : Epoch → Epoch) : (updEpoch f d).sig = d.sig := rfl
@[simp] theorem updEpoch_plan (f : Epoch → Epoch) : (updEpoch f d).plan = d.plan := rfl
@[simp] theorem updEpoch_tiers (f : Epoch → Epoch) : (updEpoch f d).tiers = d.tiers := rfl
@[simp] theorem updEpoch_movers (f : Epoch → Epoch) : (updEpoch f d).movers = d.movers := rfl
@[simp] theorem updEpoch_ports (f : Epoch → Epoch) : (updEpoch f d).ports = d.ports := rfl
@[simp] theorem updEpoch_beluf (f : Epoch → Epoch) : (updEpoch f d).beluf = d.beluf := rfl
@[simp] theorem updEpoch_config (f : Epoch → Epoch) : (updEpoch f d).config = d.config := rfl
@[simp] theorem updEpoch_health (f : Epoch → Epoch) : (updEpoch f d).health = d.health := rfl
@[simp] theorem updEpoch_sec (f : Epoch → Epoch) : (updEpoch f d).sec = d.sec := rfl
@[simp] theorem updEpoch_power (f : Epoch → Epoch) : (updEpoch f d).power = d.power := rfl
@[simp] theorem updEpoch_tx (f : Epoch → Epoch) : (updEpoch f d).tx = d.tx := rfl

@[simp] theorem markW_ctl (g : Nat) : (markW g d).ctl = d.ctl := rfl
@[simp] theorem markW_beat (g : Nat) : (markW g d).beat = d.beat := rfl
@[simp] theorem markW_mesh (g : Nat) : (markW g d).mesh = d.mesh := rfl
@[simp] theorem markW_cells (g : Nat) : (markW g d).cells = d.cells := rfl
@[simp] theorem markW_sig (g : Nat) : (markW g d).sig = d.sig := rfl
@[simp] theorem markW_plan (g : Nat) : (markW g d).plan = d.plan := rfl
@[simp] theorem markW_tiers (g : Nat) : (markW g d).tiers = d.tiers := rfl
@[simp] theorem markW_movers (g : Nat) : (markW g d).movers = d.movers := rfl
@[simp] theorem markW_ports (g : Nat) : (markW g d).ports = d.ports := rfl
@[simp] theorem markW_beluf (g : Nat) : (markW g d).beluf = d.beluf := rfl
@[simp] theorem markW_config (g : Nat) : (markW g d).config = d.config := rfl
@[simp] theorem markW_health (g : Nat) : (markW g d).health = d.health := rfl
@[simp] theorem markW_sec (g : Nat) : (markW g d).sec = d.sec := rfl
@[simp] theorem markW_power (g : Nat) : (markW g d).power = d.power := rfl
@[simp] theorem markW_tx (g : Nat) : (markW g d).tx = d.tx := rfl

@[simp] theorem updPower_ctl (f : Power → Power) : (updPower f d).ctl = d.ctl := rfl
@[simp] theorem updPower_beat (f : Power → Power) : (updPower f d).beat = d.beat := rfl
@[simp] theorem updPower_mesh (f : Power → Power) : (updPower f d).mesh = d.mesh := rfl
@[simp] theorem updPower_cells (f : Power → Power) : (updPower f d).cells = d.cells := rfl
@[simp] theorem updPower_sig (f : Power → Power) : (updPower f d).sig = d.sig := rfl
@[simp] theorem updPower_plan (f : Power → Power) : (updPower f d).plan = d.plan := rfl
@[simp] theorem updPower_tiers (f : Power → Power) : (updPower f d).tiers = d.tiers := rfl
@[simp] theorem updPower_epoch (f : Power → Power) : (updPower f d).epoch = d.epoch := rfl
@[simp] theorem updPower_movers (f : Power → Power) : (updPower f d).movers = d.movers := rfl
@[simp] theorem updPower_ports (f : Power → Power) : (updPower f d).ports = d.ports := rfl
@[simp] theorem updPower_beluf (f : Power → Power) : (updPower f d).beluf = d.beluf := rfl
@[simp] theorem updPower_config (f : Power → Power) : (updPower f d).config = d.config := rfl
@[simp] theorem updPower_health (f : Power → Power) : (updPower f d).health = d.health := rfl
@[simp] theorem updPower_sec (f : Power → Power) : (updPower f d).sec = d.sec := rfl
@[simp] theorem updPower_tx (f : Power → Power) : (updPower f d).tx = d.tx := rfl

@[simp] theorem updBeat_ctl (f : BeatUnit → BeatUnit) : (updBeat f d).ctl = d.ctl := rfl
@[simp] theorem updBeat_mesh (f : BeatUnit → BeatUnit) : (updBeat f d).mesh = d.mesh := rfl
@[simp] theorem updBeat_cells (f : BeatUnit → BeatUnit) : (updBeat f d).cells = d.cells := rfl
@[simp] theorem updBeat_sig (f : BeatUnit → BeatUnit) : (updBeat f d).sig = d.sig := rfl
@[simp] theorem updBeat_plan (f : BeatUnit → BeatUnit) : (updBeat f d).plan = d.plan := rfl
@[simp] theorem updBeat_tiers (f : BeatUnit → BeatUnit) : (updBeat f d).tiers = d.tiers := rfl
@[simp] theorem updBeat_epoch (f : BeatUnit → BeatUnit) : (updBeat f d).epoch = d.epoch := rfl
@[simp] theorem updBeat_movers (f : BeatUnit → BeatUnit) : (updBeat f d).movers = d.movers := rfl
@[simp] theorem updBeat_ports (f : BeatUnit → BeatUnit) : (updBeat f d).ports = d.ports := rfl
@[simp] theorem updBeat_beluf (f : BeatUnit → BeatUnit) : (updBeat f d).beluf = d.beluf := rfl
@[simp] theorem updBeat_config (f : BeatUnit → BeatUnit) : (updBeat f d).config = d.config := rfl
@[simp] theorem updBeat_health (f : BeatUnit → BeatUnit) : (updBeat f d).health = d.health := rfl
@[simp] theorem updBeat_sec (f : BeatUnit → BeatUnit) : (updBeat f d).sec = d.sec := rfl
@[simp] theorem updBeat_power (f : BeatUnit → BeatUnit) : (updBeat f d).power = d.power := rfl
@[simp] theorem updBeat_tx (f : BeatUnit → BeatUnit) : (updBeat f d).tx = d.tx := rfl

@[simp] theorem updConfig_ctl (f : Config → Config) : (updConfig f d).ctl = d.ctl := rfl
@[simp] theorem updConfig_beat (f : Config → Config) : (updConfig f d).beat = d.beat := rfl
@[simp] theorem updConfig_mesh (f : Config → Config) : (updConfig f d).mesh = d.mesh := rfl
@[simp] theorem updConfig_cells (f : Config → Config) : (updConfig f d).cells = d.cells := rfl
@[simp] theorem updConfig_sig (f : Config → Config) : (updConfig f d).sig = d.sig := rfl
@[simp] theorem updConfig_plan (f : Config → Config) : (updConfig f d).plan = d.plan := rfl
@[simp] theorem updConfig_tiers (f : Config → Config) : (updConfig f d).tiers = d.tiers := rfl
@[simp] theorem updConfig_epoch (f : Config → Config) : (updConfig f d).epoch = d.epoch := rfl
@[simp] theorem updConfig_movers (f : Config → Config) : (updConfig f d).movers = d.movers := rfl
@[simp] theorem updConfig_ports (f : Config → Config) : (updConfig f d).ports = d.ports := rfl
@[simp] theorem updConfig_beluf (f : Config → Config) : (updConfig f d).beluf = d.beluf := rfl
@[simp] theorem updConfig_health (f : Config → Config) : (updConfig f d).health = d.health := rfl
@[simp] theorem updConfig_sec (f : Config → Config) : (updConfig f d).sec = d.sec := rfl
@[simp] theorem updConfig_power (f : Config → Config) : (updConfig f d).power = d.power := rfl
@[simp] theorem updConfig_tx (f : Config → Config) : (updConfig f d).tx = d.tx := rfl

@[simp] theorem updReload_ctl (f : Reload → Reload) : (updReload f d).ctl = d.ctl := rfl
@[simp] theorem updReload_beat (f : Reload → Reload) : (updReload f d).beat = d.beat := rfl
@[simp] theorem updReload_mesh (f : Reload → Reload) : (updReload f d).mesh = d.mesh := rfl
@[simp] theorem updReload_cells (f : Reload → Reload) : (updReload f d).cells = d.cells := rfl
@[simp] theorem updReload_sig (f : Reload → Reload) : (updReload f d).sig = d.sig := rfl
@[simp] theorem updReload_plan (f : Reload → Reload) : (updReload f d).plan = d.plan := rfl
@[simp] theorem updReload_tiers (f : Reload → Reload) : (updReload f d).tiers = d.tiers := rfl
@[simp] theorem updReload_epoch (f : Reload → Reload) : (updReload f d).epoch = d.epoch := rfl
@[simp] theorem updReload_movers (f : Reload → Reload) : (updReload f d).movers = d.movers := rfl
@[simp] theorem updReload_ports (f : Reload → Reload) : (updReload f d).ports = d.ports := rfl
@[simp] theorem updReload_beluf (f : Reload → Reload) : (updReload f d).beluf = d.beluf := rfl
@[simp] theorem updReload_health (f : Reload → Reload) : (updReload f d).health = d.health := rfl
@[simp] theorem updReload_sec (f : Reload → Reload) : (updReload f d).sec = d.sec := rfl
@[simp] theorem updReload_power (f : Reload → Reload) : (updReload f d).power = d.power := rfl
@[simp] theorem updReload_tx (f : Reload → Reload) : (updReload f d).tx = d.tx := rfl

@[simp] theorem updJig_ctl (f : Nat) (g : Jig → Jig) : (updJig f g d).ctl = d.ctl := rfl
@[simp] theorem updJig_beat (f : Nat) (g : Jig → Jig) : (updJig f g d).beat = d.beat := rfl
@[simp] theorem updJig_mesh (f : Nat) (g : Jig → Jig) : (updJig f g d).mesh = d.mesh := rfl
@[simp] theorem updJig_cells (f : Nat) (g : Jig → Jig) : (updJig f g d).cells = d.cells := rfl
@[simp] theorem updJig_sig (f : Nat) (g : Jig → Jig) : (updJig f g d).sig = d.sig := rfl
@[simp] theorem updJig_plan (f : Nat) (g : Jig → Jig) : (updJig f g d).plan = d.plan := rfl
@[simp] theorem updJig_tiers (f : Nat) (g : Jig → Jig) : (updJig f g d).tiers = d.tiers := rfl
@[simp] theorem updJig_epoch (f : Nat) (g : Jig → Jig) : (updJig f g d).epoch = d.epoch := rfl
@[simp] theorem updJig_movers (f : Nat) (g : Jig → Jig) : (updJig f g d).movers = d.movers := rfl
@[simp] theorem updJig_ports (f : Nat) (g : Jig → Jig) : (updJig f g d).ports = d.ports := rfl
@[simp] theorem updJig_beluf (f : Nat) (g : Jig → Jig) : (updJig f g d).beluf = d.beluf := rfl
@[simp] theorem updJig_config (f : Nat) (g : Jig → Jig) : (updJig f g d).config = d.config := rfl
@[simp] theorem updJig_sec (f : Nat) (g : Jig → Jig) : (updJig f g d).sec = d.sec := rfl
@[simp] theorem updJig_power (f : Nat) (g : Jig → Jig) : (updJig f g d).power = d.power := rfl
@[simp] theorem updJig_tx (f : Nat) (g : Jig → Jig) : (updJig f g d).tx = d.tx := rfl

@[simp] theorem setState_beat (x : DevSt) : (setState x d).beat = d.beat := rfl
@[simp] theorem setState_mesh (x : DevSt) : (setState x d).mesh = d.mesh := rfl
@[simp] theorem setState_cells (x : DevSt) : (setState x d).cells = d.cells := rfl
@[simp] theorem setState_sig (x : DevSt) : (setState x d).sig = d.sig := rfl
@[simp] theorem setState_plan (x : DevSt) : (setState x d).plan = d.plan := rfl
@[simp] theorem setState_tiers (x : DevSt) : (setState x d).tiers = d.tiers := rfl
@[simp] theorem setState_epoch (x : DevSt) : (setState x d).epoch = d.epoch := rfl
@[simp] theorem setState_movers (x : DevSt) : (setState x d).movers = d.movers := rfl
@[simp] theorem setState_ports (x : DevSt) : (setState x d).ports = d.ports := rfl
@[simp] theorem setState_config (x : DevSt) : (setState x d).config = d.config := rfl
@[simp] theorem setState_health (x : DevSt) : (setState x d).health = d.health := rfl
@[simp] theorem setState_sec (x : DevSt) : (setState x d).sec = d.sec := rfl
@[simp] theorem setState_power (x : DevSt) : (setState x d).power = d.power := rfl

@[simp] theorem landed_ctl (a b : Src) (l : List Body) : (landed d a b l).ctl = d.ctl := rfl
@[simp] theorem landed_beat (a b : Src) (l : List Body) : (landed d a b l).beat = d.beat := rfl
@[simp] theorem landed_cells (a b : Src) (l : List Body) : (landed d a b l).cells = d.cells := rfl
@[simp] theorem landed_sig (a b : Src) (l : List Body) : (landed d a b l).sig = d.sig := rfl
@[simp] theorem landed_plan (a b : Src) (l : List Body) : (landed d a b l).plan = d.plan := rfl
@[simp] theorem landed_tiers (a b : Src) (l : List Body) : (landed d a b l).tiers = d.tiers := rfl
@[simp] theorem landed_epoch (a b : Src) (l : List Body) : (landed d a b l).epoch = d.epoch := rfl
@[simp] theorem landed_movers (a b : Src) (l : List Body) : (landed d a b l).movers = d.movers := rfl
@[simp] theorem landed_ports (a b : Src) (l : List Body) : (landed d a b l).ports = d.ports := rfl
@[simp] theorem landed_beluf (a b : Src) (l : List Body) : (landed d a b l).beluf = d.beluf := rfl
@[simp] theorem landed_config (a b : Src) (l : List Body) : (landed d a b l).config = d.config := rfl
@[simp] theorem landed_health (a b : Src) (l : List Body) : (landed d a b l).health = d.health := rfl
@[simp] theorem landed_sec (a b : Src) (l : List Body) : (landed d a b l).sec = d.sec := rfl
@[simp] theorem landed_power (a b : Src) (l : List Body) : (landed d a b l).power = d.power := rfl
@[simp] theorem landed_tx (a b : Src) (l : List Body) : (landed d a b l).tx = d.tx := rfl

/-! ### What the update leaves in its own part -/

@[simp] theorem updBeluf_beluf (f : Beluf → Beluf) : (updBeluf f d).beluf = f d.beluf := rfl
@[simp] theorem updEpoch_epoch (f : Epoch → Epoch) : (updEpoch f d).epoch = f d.epoch := rfl
@[simp] theorem updPower_power (f : Power → Power) : (updPower f d).power = f d.power := rfl
@[simp] theorem updBeat_beat (f : BeatUnit → BeatUnit) : (updBeat f d).beat = f d.beat := rfl
@[simp] theorem updConfig_config (f : Config → Config) : (updConfig f d).config = f d.config := rfl
@[simp] theorem sendTo_tx (r : Req) (b : List Byte) : (sendTo r b d).tx = .host r.port r.ip r.udp b (hostEther d r.port r.mac) d.ports.belufUdp :: d.tx := rfl
@[simp] theorem sendFlit_remap (a b : Src) (x : Body) : (sendFlit a b x d).mesh.remap = d.mesh.remap := rfl
@[simp] theorem landed_remap (a b : Src) (l : List Body) : (landed d a b l).mesh.remap = d.mesh.remap := rfl
@[simp] theorem cellP_sendFlit (a b : Src) (x : Body) (p : Nat) : cellP (sendFlit a b x d) p = cellP d p := rfl
@[simp] theorem cellP_landed (a b : Src) (l : List Body) (p : Nat) : cellP (landed d a b l) p = cellP d p := rfl
@[simp] theorem cellAt_sendFlit (a b : Src) (x : Body) (c : LCell) : cellAt (sendFlit a b x d) c = cellAt d c := rfl
@[simp] theorem cellAt_landed (a b : Src) (l : List Body) (c : LCell) : cellAt (landed d a b l) c = cellAt d c := rfl
@[simp] theorem cellAt_notify (k i u : Nat) (b : List Byte) (c : LCell) : cellAt (notify k i u b d) c = cellAt d c := rfl

/-- A flit leaves its sender: one flit with that sender, receiver and content joins those in flight. -/
theorem sendFlit_flits (a b : Src) (x : Body) :
    ∃ y, (sendFlit a b x d).mesh.flits = d.mesh.flits ++ [y] ∧ y.src = a ∧ y.dst = b ∧ y.body = x := ⟨_, rfl, rfl, rfl, rfl⟩
/-- A message whose flits have not come leaves the device as it is (R77). -/
theorem arrive_absent {src dst : Src} {bs : List Body} (f : Dev → Dev) (h : arrived d src dst bs = false) : arrive src dst bs f d = d := by
  simp [arrive, h]
/-- An arrived message acts on the device without it. -/
theorem arrive_come {src dst : Src} {bs : List Body} (f : Dev → Dev) (h : arrived d src dst bs = true) :
    arrive src dst bs f d = f (landed d src dst bs) := by simp [arrive, h]
theorem arriveO_absent {src dst : Src} {bs : List Body} (f : Otp → Dev → Otp × Dev) (o : Otp) (h : arrived d src dst bs = false) :
    arriveO src dst bs f o d = (o, d) := by simp [arriveO, h]
theorem arriveO_come {src dst : Src} {bs : List Body} (f : Otp → Dev → Otp × Dev) (o : Otp) (h : arrived d src dst bs = true) :
    arriveO src dst bs f o d = f o (landed d src dst bs) := by simp [arriveO, h]
/-- A message of one flit has come where it is its sender's oldest to the receiver, and its router may eject it and has power. -/
theorem arrived_one (src dst : Src) (b : Body) :
    arrived d src dst [b] = ((landOne src dst b d.mesh.flits).isSome && exitGranted d.mesh src dst && exitOpen d src dst) := by
  unfold arrived landFlits
  cases landOne src dst b d.mesh.flits <;> rfl
/-- Another signal word is as it was. -/
theorem sigWord_updSig_ne {f w f' w' : Nat} (g : SigWord → SigWord) (h : sigKey f' w' ≠ sigKey f w) :
    sigWord (updSig f w g d) f' w' = sigWord d f' w' := NMap.get_upd_ne _ _ _ h
/-- In a canonical store the word holds what the update gives. -/
theorem sigWord_updSig_self {f w : Nat} (g : SigWord → SigWord) (h : NMap.wf {} d.sig.words = true) :
    sigWord (updSig f w g d) f w = g (sigWord d f w) := NMap.get_set_self h _ _
/-- The words stay canonical. -/
theorem wf_updSig {f w : Nat} (g : SigWord → SigWord) (h : NMap.wf {} d.sig.words = true) :
    NMap.wf {} (updSig f w g d).sig.words = true := NMap.wf_upd _ _ h
/-- The map of cells stays canonical. -/
theorem wf_updP {p : Nat} (f : Cell → Cell) (h : NMap.wf {} d.cells = true) : NMap.wf {} (updP p f d).cells = true := NMap.wf_upd _ _ h
/-- Another operation slot is as it was. -/
theorem opOf_updOp_ne {k j : Nat} (f : Op → Op) (h : j ≠ k) : opOf (updOp k f d) j = opOf d j := NMap.get_upd_ne _ _ _ h
/-- In a canonical map the slot holds what the update gives. -/
theorem opOf_updOp_self {k : Nat} (f : Op → Op) (h : NMap.wf {} d.beluf.ops = true) : opOf (updOp k f d) k = f (opOf d k) :=
  NMap.get_set_self h _ _

end Sys2Proof.Machine
end

