-- ==== Sys2Proof/WellFormed.lean ====
section
/-! DEFINITION. The commands that the device's environment can send: every coordinate, number and length that a command
carries lies in the range that the rule of its operand gives. exec is total on every command; this says which ones the
wires can spell. -/
namespace Sys2Proof.WellFormed

/-- A logical cell of the device (R10). -/
def cell (c : LCell) : Bool := decide (c.row < 64) && decide (c.col < 64)
/-- A sender (R270). -/
def src : Src → Bool
  | .cell c => cell c
  | .frameMover f m => decide (f < 4) && decide (m < 16)
  | .ioMover d m => decide (d < 2) && decide (m < 8)
  | .store f => decide (f < 4)
  | .ioDie d => decide (d < 2)
/-- A mover (R318, R320). -/
def mover : MoverId → Bool
  | .frame f m => decide (f < 4) && decide (m < 16)
  | .io d m => decide (d < 2) && decide (m < 8)
/-- A 64-byte line (R239). -/
def line (bs : List Byte) : Bool := bs.length == 64
/-- A signal operation (R292, R300). -/
def sig (r : SigReq) : Bool := src r.src && decide (r.frame < 4) && decide (r.word < 4096) && decide (r.clause < 65536)
/-- A Beluf request (R429). -/
def req (r : Req) : Bool :=
  decide (r.port < 2) && decide (r.session < 65536) && decide (r.seq < 65536) && decide (r.index < 65536) &&
  decide (r.sub < 256) && decide (r.data.length ≤ 8192) && decide (r.udp < 65536) && r.mac.length == 6
/-- A fabric port (R367). -/
def fport (p : Nat) : Bool := decide (p < 6)
/-- A host port (R367). -/
def hport (p : Nat) : Bool := decide (p < 2)
/-- A MAC address (R371). -/
def mac (m : List Byte) : Bool := m.length == 6
/-- Why a packet is discarded: what a frame can carry (R369, R374). -/
def drop : HostDrop → Bool
  | .oversize n => decide (9216 < n)
  | .vlan (some v) => decide (v < 4096)
  | .etherType t => decide (t < 65536)
  | .udpPort u => decide (u < 65536)
  | _ => true
/-- A bank of a Noun cell and its port (R239, R67). -/
def bank (b : Nat) : Bool := decide (b < 16)
/-- A schedule entry (R348). -/
def entry (n : Nat) : Bool := decide (n < 256)

end Sys2Proof.WellFormed

namespace Sys2Proof
open WellFormed in
/-- The well-formed commands. -/
def Instr.wellFormed : Instr → Bool
  | .add c _ _ _ | .sub c _ _ _ | .and c _ _ _ | .ior c _ _ _ | .xor c _ _ _ | .lsl c _ _ _ | .lsr c _ _ _ | .asr c _ _ _ |
    .lts c _ _ _ | .ltu c _ _ _ | .mins c _ _ _ | .maxs c _ _ _ | .minu c _ _ _ | .maxu c _ _ _ | .mullo c _ _ _ |
    .mulhs c _ _ _ | .mulhu c _ _ _ | .quos c _ _ _ | .quou c _ _ _ | .rmds c _ _ _ | .rmdu c _ _ _ | .addk c _ _ _ |
    .andk c _ _ _ | .iork c _ _ _ | .xork c _ _ _ | .ltsk c _ _ _ | .ltuk c _ _ _ | .lslk c _ _ _ | .lsrk c _ _ _ |
    .asrk c _ _ _ | .kld c _ _ | .ksh c _ _ _ | .ld8s c _ _ _ | .ld8u c _ _ _ | .ld16s c _ _ _ | .ld16u c _ _ _ |
    .ld32s c _ _ _ | .ld32u c _ _ _ | .ld64 c _ _ _ | .st8 c _ _ _ | .st16 c _ _ _ | .st32 c _ _ _ | .st64 c _ _ _ |
    .jeq c _ _ _ | .jne c _ _ _ | .jlts c _ _ _ | .jges c _ _ _ | .jltu c _ _ _ | .jgeu c _ _ _ | .call c _ _ |
    .jmpr c _ _ _ | .jdnz c _ _ | .undefinedEncoding c _ | .cstate c _ _ | .beat c _ | .phaseRead c _ | .bwait c _ _ _ |
    .sread c _ _ | .sset c _ _ | .sadd c _ _ _ | .swait c _ _ _ _ _ | .qopen c _ | .qclose c _ | .qreset c _ |
    .qsend c _ _ _ | .qrecv c _ _ _ _ _ | .launch c _ _ _ _ _ | .move c _ _ _ | .mbpop c _ _ _ _ | .mbtake c _ _ _ _ _ |
    .nop c | .cend c | .sync c | .faultNotice c _ _ | .faultFatal c _ _ | .blockingWaitResume c _ | .waitDeadline c _ |
    .sendStall c | .matmulStart c | .matmulSegmentEnd c | .verbBlockDrain c | .verbOutputWrite c | .matmulComplete c |
    .stageStart c | .stageComplete c | .vectorStart c | .summarySend c | .vectorComplete c | .smmStart c | .smmComplete c |
    .cellHoldStop c => cell c
  | .signalReplyDone dst f _ | .signalReplyWake dst f _ | .signalReplyCancelled dst f | .signalReplyRefused dst f _ |
    .signalReplyAbsent dst f => src dst && decide (f < 4)
  | .signalRead r _ | .signalSet r _ | .signalAdd r _ | .signalWait r _ _ | .signalCancel r _ => sig r
  | .nounReadRequest c _ addr s _ _ => cell c && decide (addr < 4194304) && src s
  | .nounWrite c _ addr s _ _ l _ => cell c && decide (addr < 4194304) && src s && line l
  | .bankGrant c b _ => cell c && bank b
  | .nounReadData dst frm _ addr _ l => src dst && cell frm && decide (addr < 4194304) && line l
  | .nounWriteAck dst frm _ addr _ => src dst && cell frm && decide (addr < 4194304)
  | .queueMessage c q gen _ s pay => cell c && decide (q < 64) && decide (gen < 256) && src s && line pay
  | .qctlQopen c q s | .qctlQclose c q s | .qctlQreset c q s => cell c && decide (q < 64) && src s
  | .qcompAccepted dst c q gen | .qcompClosed dst c q gen _ | .qcompFull dst c q gen | .qcompResume dst c q gen |
    .qcompFenced dst c q gen => src dst && cell c && decide (q < 64) && decide (gen < 256)
  | .fullResendTimeout dst c q => src dst && cell c && decide (q < 64)
  | .queueEntryTaken c port _ => cell c && decide (port < 12)
  | .combineSlotDeliver c q es => cell c && decide (q < 64) && decide (es.length ≤ 16)
  | .mailboxSummary c s pay => cell c && src s && line pay
  | .launchArrival c s _ _ _ _ => cell c && cell s
  | .badFlit p cls => decide (p < 4608) && decide (0xD ≤ cls) && decide (cls ≤ 0xF)
  | .routerForward _ _ | .tableChange | .copyBeforeWriteDone _ | .pageSpareCopyDone _ _ _ | .beatEdge _ | .beatInPulse _ _ |
    .beatInMissing | .beatInLost | .ptpLost |
    .beatFrameSend _ _ | .beatFrameLost | .echoSend _ | .sentenceFill _ | .sentenceSwitch _ |
    .fillComplete _ | .switchCloseOut _ | .switchActivateIn _ | .switchStartIn _ | .switchLateRecheck _ |
    .switchGraceExpiry _ | .commitWindowOpen | .commit | .commitNowFlip | .abandonComplete | .bulkReadSend _ _ |
    .belufDeferredReply _ | .sessionIdleTimeout _ | .nonceExpiry _ | .imageEnd | .imageIdleTimeout | .startupSelftestDone _ |
    .cascDoneSample _ | .startBeat | .configRewriteDone | .reloadClamp | .reloadWrite | .reloadReopen | .reloadRestart |
    .clampTimeout | .holdComplete | .nanWatchHold | .releaseBeat | .powerOnReset _ | .warmReset _ | .powerDown |
    .inertReady | .railFault _ _ | .clockFault _ | .thermalTrip _ _ _ | .ptpDelayReqSend _ _ |
    .jtagInstruction _ | .configReadbackError _ _ => true
  | .adverbOutputWrite c y => cell c && decide (y < 2)
  | .moverRequestStart f | .readbackPassEnd f _ _ | .sliceEnd f _ _ _ | .sliceOverrun f => decide (f < 4)
  | .moverComplete id | .fabricAckTimeout id => mover id
  | .moverReadLine id tag _ _ | .moverWriteLine id tag _ _ _ | .moverReadData id tag _ | .moverWriteAck id tag | .moverRefused id tag =>
    mover id && decide (tag < 256)
  | .ptpSync seq _ _ _ dom | .ptpFollowUp seq _ dom | .ptpDelayResp seq _ dom => decide (dom < 256) && decide (seq < 65536)
  | .beatFrame _ _ _ _ _ lseq | .echoRsp _ _ _ _ lseq => decide (lseq < 65536)
  | .echoReq p _ _ _ lseq => fport p && decide (lseq < 65536)
  | .hello p _ m => fport p && mac m
  | .fabricFrameDiscarded p hdr => fport p && hdr.length == 32
  | .linkCtrlAck p _ | .linkCtrlNak p _ | .spareReq p _ | .spareGo p _ _ _ | .linkCtrlSend p |
    .helloSend p | .replayTimeout p | .laneFailure p _ | .neighbourSilence p | .pcsLockLoss p | .resendLimit p |
    .fabricWrite p _ _ _ _ | .fabricRaise p _ _ | .fabricReadReq p _ _ | .fabricReadData p _ _ | .fabricAck p _ |
    .pfcFrame p _ _ | .imageFrame p _ _ _ | .linkNotice p _ _ | .fabricFrameRejected p => fport p
  | .schedSwitch n | .schedHold n | .schedSentenceStart n | .schedSentenceStop n | .schedQopenSet n | .schedQcloseSet n |
    .schedRaise n | .schedSelftest n | .schedAbandon n | .schedThrottle n => entry n
  | .arpRequest p _ _ _ | .neighbourSolicitation p _ _ _ | .icmpEcho p _ _ _ _ | .duplicateAddressDetection p _ _ |
    .bulkData p _ _ _ _ _ _ | .hostLinkUp p _ | .hostLinkDown p => hport p
  | .hostPacketDiscarded p w => hport p && drop w
  | .belufMalformed p _ _ _ m _ => hport p && mac m
  | .belufRead r | .belufWrite r | .bulkOpen r | .bulkClose r | .discover r | .load r | .arm r | .disarm r | .reload r |
    .hold r | .release r | .unload r | .sessionChallenge r | .sessionOpen r | .sessionClose r | .opAcknowledge r |
    .opSuspend r | .opResume r | .opCancel r | .sentenceRestart r | .sigRaise r | .sigValueWrite r | .nanRearm r |
    .counterReset r | .jigRun r | .retire r | .cellFence r | .cellUnfence r | .epochAbandon r | .epochCommitNow r |
    .quote r | .debugChallenge r | .debugUnlock r | .ownerInstall r _ | .ownerReplace r _ | .signKeyInstall r _ |
    .signKeyRevoke r _ | .beatPeriodNsWrite r | .schedEntryWrite r | .scientificEnableWrite r | .hbmInterleaveWrite r |
    .monSelectWrite r | .fabEnableWrite r | .routeTableWrite r | .hostEnableWrite r => req r
  | .cellFenceDone p => decide (p < 4608)
  | .pllLock n => decide (n < 6)
  | .identityCheck cause => decide (cause < 4)
  | .domainSwitchDone n => decide (n < 96)

end Sys2Proof
end

