-- ==== Sys2Proof/Tests/Slice0.lean ====
section
/-! SUPPORT. Tests of single steps on small states, and for each statement concrete states and operands that meet its
hypotheses. -/
namespace Sys2Proof.Tests
open Sys2Proof Sys2Proof.Machine
-- One theorem at a time: each waits for the kernel, and a worker apiece would not fit in memory.
set_option Elab.async false

/-! ### Small states -/

/-- The Conjunction cell of bench 0.0. -/
def cj : LCell := { row := 1, col := 2 }
/-- An Adverb cell of bench 0.0. -/
def ad : LCell := { row := 1, col := 0 }
/-- A Verb cell of bench 0.0. -/
def vb : LCell := { row := 0, col := 1 }
/-- A Noun cell of bench 0.0, south of `vb`. -/
def nn : LCell := { row := 1, col := 1 }

/-- A contract of 2 x 2 benches, 16 signals and 1 MiB of HBM. -/
def contract : List Byte := setFld (setFld (setFld (setFld (List.replicate 64 0) 4 1 2) 5 1 2) 0x0A 2 16) 0x10 8 0x100000
/-- Clause 7 in slot 0 at bench 0.0, its signals at word 32 of frame 0. -/
def cl7 : Clause := { id := 7, contract := contract, orow := 0, ocol := 0, slot := 0, hbmBase := 0, lpBase := 0, runs := [(0, 32, 16)] }
/-- A cell whose slot 0 is ACTIVE with this data. -/
def active (sd : SlotData) : Cell := { slots := [(0, { st := .active, clause := 7, data := sd })] }
/-- Every domain has power. -/
def allOn : NMap DomSt := (List.range 96).map fun n => (n, .on)
/-- A RUNNING device with clause 7 and these cells. -/
def dev (cs : List (LCell × Cell)) : Dev :=
  cs.foldl (fun d p => updCell p.1 (fun _ => p.2) d)
    { (Dev.reset { master := true, hostport := false, id := 0 }) with
      ctl := { state := .running }, plan := { clauses := [cl7] }, power := { boot := .ready, domains := allOn } }
/-- A machine with that device. -/
def mach (cs : List (LCell × Cell)) : State := { dev := dev cs }

/-- That machine with a message whose flits stand at its receiver. -/
def come (src dst : Src) (bs : List Body) (s : State) : State :=
  { s with dev := { s.dev with mesh := { s.dev.mesh with flits := bs.map fun b =>
      let f := newFlit src dst b s.dev; { f with my := f.dmy, mx := f.dmx, inj := true } } } }

/-- A word of forms R, X and Q (R217): OP, A, B, D, C, FN. -/
def wR (op a b d c f : Nat) : Nat := op * 2 ^ 26 + a * 2 ^ 21 + b * 2 ^ 16 + d * 2 ^ 11 + c * 2 ^ 6 + f
/-- A program. -/
def prog (ws : List Nat) : List Byte := ws.flatMap (leBytes 4)
/-- NOP (R236). -/
def nopW : Nat := 0xFC000000
/-- A running core with this program, data and registers. -/
def coreCell (ws : List Nat) (k : Conj) : Cell := { active { secA := prog ws } with conj := { k with st := .running } }
/-- A machine whose one cell is such a core. -/
def core (ws : List Nat) (k : Conj) : State := mach [(cj, coreCell ws k)]

/-- Word `w` of a core whose next word is NOP issues as `i`. -/
def fetches (w : Nat) (k : Conj) (i : Instr) (rs : List Reg) : Prop := IssuesInside (core [w, nopW] k) cj i rs

/-! ### Encodings of R217 to R236: the example of chapter 09, and words of the other forms -/

/-- The nine words of the example's claiming loop. -/
theorem test_claiming_loop_words :
    [0x10010000, 0x10020001, 0x100A0040, 0x10140060, 0xC8221800, 0x94740003, 0xD00750C0, 0x981FFFFD, 0xFC000001].map (fun w => conjDecode cj w) =
      [.addk cj 0 1 0, .addk cj 0 2 1, .addk cj 0 10 0x40, .addk cj 0 20 96, .sadd cj 1 2 3, .jgeu cj 3 20 3,
       .launch cj 7 10 3 0 false, .call cj 0 (-3), .cend cj] := by decide

/-! ### Witnesses: Conjunction instructions -/

theorem witness_RegisterAluGroupResults : ∀ p ∈
    ([(0x00, .add cj 1 2 3), (0x01, .sub cj 1 2 3), (0x02, .and cj 1 2 3), (0x03, .ior cj 1 2 3), (0x04, .xor cj 1 2 3),
      (0x05, .lsl cj 1 2 3), (0x06, .lsr cj 1 2 3), (0x07, .asr cj 1 2 3), (0x08, .lts cj 1 2 3), (0x09, .ltu cj 1 2 3),
      (0x0A, .mins cj 1 2 3), (0x0B, .maxs cj 1 2 3), (0x0C, .minu cj 1 2 3), (0x0D, .maxu cj 1 2 3), (0x10, .mullo cj 1 2 3),
      (0x11, .mulhs cj 1 2 3), (0x12, .mulhu cj 1 2 3)] : List (Nat × Instr)),
    fetches (wR 0 1 2 3 0 p.1) {} p.2 [1, 2, 3] := by
  unfold fetches IssuesInside; decide

/-- With a divisor of zero, with the overflowing pair, and with -7 and 2. -/
theorem witness_DivisionNeverFaults : ∀ k ∈
    ([{ regs := [(1, 5)] }, { regs := [(1, 0x8000000000000000#64), (2, 0xFFFFFFFFFFFFFFFF#64)] }, { regs := [(1, -7), (2, 2)] }] : List Conj),
    ∀ p ∈ ([(0x18, .quos cj 1 2 3), (0x19, .quou cj 1 2 3), (0x1A, .rmds cj 1 2 3), (0x1B, .rmdu cj 1 2 3)] : List (Nat × Instr)),
    fetches (wR 0 1 2 3 0 p.1) k p.2 [1, 2, 3] := by
  unfold fetches IssuesInside; decide

theorem witness_ConstantInstructionResults :
    (∀ p ∈ ([(0x04, .addk cj 1 2 0xFFFF), (0x05, .andk cj 1 2 0xFFFF), (0x06, .iork cj 1 2 0xFFFF), (0x07, .xork cj 1 2 0xFFFF),
      (0x08, .ltsk cj 1 2 0xFFFF), (0x09, .ltuk cj 1 2 0xFFFF), (0x0A, .lslk cj 1 2 0xFFFF), (0x0B, .lsrk cj 1 2 0xFFFF),
      (0x0C, .asrk cj 1 2 0xFFFF), (0x0F, .ksh cj 1 2 0xFFFF)] : List (Nat × Instr)),
      fetches (wR p.1 1 2 0 0 0 + 0xFFFF) {} p.2 [1, 2]) ∧
    fetches (wR 0x0E 2 31 0 0 0 + 0xFFFF) {} (.kld cj 2 (-1)) [2] := by
  unfold fetches IssuesInside; decide

/-- A core whose x1 holds `a`. -/
def x1 (a : W64) : Conj := { regs := [(1, a)] }

/-- The last aligned address of each size. -/
theorem witness_LoadsWriteTheirRegister : ∀ p ∈
    ([(0x10, 1, .ld8s cj 1 3 0), (0x11, 1, .ld8u cj 1 3 0), (0x12, 2, .ld16s cj 1 3 0), (0x13, 2, .ld16u cj 1 3 0),
      (0x14, 4, .ld32s cj 1 3 0), (0x15, 4, .ld32u cj 1 3 0), (0x16, 8, .ld64 cj 1 3 0)] : List (Nat × Nat × Instr)),
    let k := x1 (BitVec.ofNat 64 (65536 - p.2.1))
    fetches (wR p.1 1 3 0 0 0) k p.2.2 [1, 3] ∧ (k.reg 1).toNat < 65536 ∧ (k.reg 1).toNat % p.2.1 = 0 := by
  unfold fetches IssuesInside; decide

theorem witness_StoresWriteTheirBytes : ∀ p ∈
    ([(0x18, 1, .st8 cj 1 3 0), (0x19, 2, .st16 cj 1 3 0), (0x1A, 4, .st32 cj 1 3 0), (0x1B, 8, .st64 cj 1 3 0)] : List (Nat × Nat × Instr)),
    let k := x1 (BitVec.ofNat 64 (65536 - p.2.1))
    fetches (wR p.1 1 3 0 0 0) k p.2.2 [1, 3] ∧ (k.reg 1).toNat < 65536 ∧ (k.reg 1).toNat % p.2.1 = 0 := by
  unfold fetches IssuesInside; decide

/-- The first address beyond the store, and an address that is not aligned. -/
theorem witness_DataAddressFault : ∀ p ∈
    ([(0x10, 1, .ld8s cj 1 3 0), (0x11, 1, .ld8u cj 1 3 0), (0x12, 2, .ld16s cj 1 3 0), (0x13, 2, .ld16u cj 1 3 0),
      (0x14, 4, .ld32s cj 1 3 0), (0x15, 4, .ld32u cj 1 3 0), (0x16, 8, .ld64 cj 1 3 0),
      (0x18, 1, .st8 cj 1 3 0), (0x19, 2, .st16 cj 1 3 0), (0x1A, 4, .st32 cj 1 3 0), (0x1B, 8, .st64 cj 1 3 0)] : List (Nat × Nat × Instr)),
    (fetches (wR p.1 1 3 0 0 0) (x1 65536) p.2.2 [1, 3] ∧ 65536 ≤ ((x1 65536).reg 1).toNat) ∧
    (p.2.1 ≠ 1 → fetches (wR p.1 1 3 0 0 0) (x1 65) p.2.2 [1, 3] ∧ ((x1 65).reg 1).toNat % p.2.1 ≠ 0) := by
  unfold fetches IssuesInside; decide

/-- Each branch at offset 0 to the last instruction of two, taken and not taken. -/
theorem witness_ControlTransferTargets :
    (∀ p ∈ ([(0x20, .jeq cj 1 2 1, 5, 5, 5, 6), (0x21, .jne cj 1 2 1, 5, 6, 5, 5), (0x22, .jlts cj 1 2 1, -1, 0, 0, -1),
        (0x23, .jges cj 1 2 1, 0, -1, -1, 0), (0x24, .jltu cj 1 2 1, 5, 6, 5, 5), (0x25, .jgeu cj 1 2 1, 5, 5, 5, 6)] :
        List (Nat × Instr × W64 × W64 × W64 × W64)),
      fetches (wR p.1 1 2 0 0 1) { regs := [(1, p.2.2.1), (2, p.2.2.2.1)] } p.2.1 [1, 2] ∧
      fetches (wR p.1 1 2 0 0 1) { regs := [(1, p.2.2.2.2.1), (2, p.2.2.2.2.2)] } p.2.1 [1, 2]) ∧
    fetches (wR 0x26 3 0 0 0 1) {} (.call cj 3 1) [3] ∧
    fetches (wR 0x27 1 3 0 0 0) (x1 1) (.jmpr cj 1 3 0) [1, 3] ∧
    fetches (wR 0x2B 1 0 0 0 1) (x1 2) (.jdnz cj 1 1) [1] ∧ fetches (wR 0x2B 1 0 0 0 1) (x1 1) (.jdnz cj 1 1) [1] := by
  unfold fetches IssuesInside; decide

/-- It issues at the last word of its program. -/
def issuesLast (w : Nat) (k : Conj) (i : Instr) (rs : List Reg) : Prop := Issues (core [w] k) cj i rs ∧ progLen (cellAt (core [w] k).dev cj) ≤ (core [w] k).pc cj + 1
/-- A mail of tag `t`. -/
def mail (t : Nat) : List Byte := padTo 64 (leBytes 2 t)

/-- Each branch at a program's only word, taken and not taken, to the word after it. -/
theorem witness_IllegalInstructionsRecord_branches :
    (∀ p ∈ ([(0x20, .jeq cj 1 2 1, 5, 5, 5, 6), (0x21, .jne cj 1 2 1, 5, 6, 5, 5), (0x22, .jlts cj 1 2 1, -1, 0, 0, -1),
        (0x23, .jges cj 1 2 1, 0, -1, -1, 0), (0x24, .jltu cj 1 2 1, 5, 6, 5, 5), (0x25, .jgeu cj 1 2 1, 5, 5, 5, 6)] :
        List (Nat × Instr × W64 × W64 × W64 × W64)),
      issuesLast (wR p.1 1 2 0 0 1) { regs := [(1, p.2.2.1), (2, p.2.2.2.1)] } p.2.1 [1, 2] ∧
      issuesLast (wR p.1 1 2 0 0 1) { regs := [(1, p.2.2.2.2.1), (2, p.2.2.2.2.2)] } p.2.1 [1, 2]) ∧
    issuesLast (wR 0x27 1 3 0 0 0) (x1 1) (.jmpr cj 1 3 0) [1, 3] ∧
    issuesLast (wR 0x2B 1 0 0 0 1) (x1 2) (.jdnz cj 1 1) [1] ∧ issuesLast (wR 0x2B 1 0 0 0 1) (x1 1) (.jdnz cj 1 1) [1] := by
  unfold issuesLast Issues; decide

/-- Waits and receives that complete at a program's only word. -/
theorem witness_IllegalInstructionsRecord_waits :
    issuesLast (wR 0x3F 0 0 0 0 2) {} (.sync cj) [] ∧ issuesLast (wR 0x2A 1 0 3 4 0) {} (.bwait cj 1 4 3) [1, 4, 3] ∧
    (let k : Conj := { regs := [(1, 64), (2, 9)], mbox := [mail 9] }
     issuesLast (wR 0x3D 1 0 3 4 5) k (.mbpop cj 1 4 3 5) [1, 4, 3, 5] ∧ issuesLast (wR 0x3E 1 2 3 4 5) k (.mbtake cj 1 2 4 3 5) [1, 2, 4, 3, 5] ∧
       fld (mail 9) 0 2 = 9) := by
  unfold issuesLast Issues; decide

theorem witness_IllegalInstructionsRecord :
    (Issues (core [wR 0x26 3 0 0 0 1] {}) cj (.call cj 3 1) [3] ∧ progLen (cellAt (core [wR 0x26 3 0 0 0 1] {}).dev cj) = 1) ∧
    (Issues (core [nopW] {}) cj (.nop cj) [] ∧ progLen (cellAt (core [nopW] {}).dev cj) = 1) ∧
    (coreRuns (core [0x3F] {}).dev cj = true ∧ fetched (core [0x3F] {}).dev cj = some (.undefinedEncoding cj 0x3F)) := by
  unfold Issues; decide

theorem witness_CellStateAndTimeReads :
    activeClause (core [wR 0x28 0 3 0 0 7] {}).dev cj = some cl7 ∧
    fetches (wR 0x28 0 3 0 0 7) {} (.cstate cj 3 7) [3] ∧ fetches (wR 0x29 0 0 3 0 0) {} (.beat cj 3) [3] ∧
    fetches (wR 0x29 0 0 3 0 1) {} (.phaseRead cj 3) [3] := by
  unfold fetches IssuesInside; decide

/-- Queue 3 of a core, bound to port D, with 4 entries. -/
def portD : List Byte := setFld (List.replicate 0x110 0) 12 4 (4 * 2 ^ 21 + 10 * 2 ^ 17)
/-- The beat count has reached `b`. -/
def atBeat (b : Nat) (s : State) : State := { s with dev := { s.dev with beat := { s.dev.beat with count := b } } }
/-- It issues at beat 5, an instruction following. -/
def fetches5 (w : Nat) (k : Conj) (i : Instr) (rs : List Reg) : Prop := IssuesInside (atBeat 5 (core [w, nopW] k)) cj i rs

/-- A wait met and one not met, and a mailbox with the mail awaited, without it and empty, each with no deadline and with one
that has come. -/
theorem witness_BlockingInstructionsAtIssue :
    (∀ r ∈ ([[(1, 5)], [(1, 6)], [(1, 6), (4, 5)], [(1, 6), (4, 6)]] : List (List (Nat × W64))), fetches5 (wR 0x2A 1 0 3 4 0) { regs := r } (.bwait cj 1 4 3) [1, 4, 3]) ∧
    (∀ k ∈ ([{ regs := [(1, 64), (2, 9)], mbox := [mail 8, mail 9] }, { regs := [(1, 64), (2, 9)] }, { regs := [(1, 64), (2, 9), (4, 5)] }] : List Conj),
      fetches5 (wR 0x3D 1 0 3 4 5) k (.mbpop cj 1 4 3 5) [1, 4, 3, 5] ∧
      fetches5 (wR 0x3E 1 2 3 4 5) k (.mbtake cj 1 2 4 3 5) [1, 2, 4, 3, 5]) ∧
    (∀ l ∈ ([none, some (vb, { idx := 0, eng := .verb, p0 := 0, p1 := 0, src := cj })] : List (Option (LCell × Launch))),
      fetches5 (wR 0x3F 0 0 0 0 2) { launch := l } (.sync cj) []) := by
  unfold fetches5 IssuesInside; decide

/-- A core with queue 3 at port D, OPEN and holding one entry. -/
def recvCell (k : Conj) : Cell :=
  { coreCell [wR 0x3C 1 2 3 4 0, nopW] k with
    slots := [(0, { st := .active, clause := 7, data := { secA := prog [wR 0x3C 1 2 3 4 0, nopW], qcfg := portD } })]
    queues := [(3, { st := .open, entries := [{ src := .cell ad, pay := mail 9 }] })] }

/-- A receive that completes at a program's last word. -/
theorem witness_IllegalInstructionsRecord_receive :
    let w := [wR 0x3C 1 2 3 4 0]
    let y := recvCell { regs := [(1, 3), (2, 64)] }
    let s := mach [(cj, { y with slots := [(0, { st := .active, clause := 7, data := { secA := prog w, qcfg := portD } })] })]
    Issues s cj (.qrecv cj 1 2 4 3 .good) [1, 2, 4, 3] ∧ progLen (cellAt s.dev cj) ≤ s.pc cj + 1 ∧ qPort (activeData (cellAt s.dev cj)) 3 = 10 ∧
      (queueOf (cellAt s.dev cj) 3).st = .open := by
  unfold Issues; decide

theorem witness_QueueReceiveTakesTheHead :
    (let s := mach [(cj, recvCell { regs := [(1, 3), (2, 64)] })]
     let x := cellAt s.dev cj
     (IssuesInside s cj (.qrecv cj 1 2 4 3 .good) [1, 2, 4, 3] ∧ qPort (activeData x) 3 = 10 ∧ qGrouped (activeData x) 3 = false ∧
       qComb (activeData x) 3 = false ∧ (queueOf x 3).st = .open ∧ (queueOf x 3).entries = [{ src := .cell ad, pay := mail 9 }] ∧
       regAt s.dev cj 4 = 0)) ∧
    (let s := mach [(cj, recvCell { regs := [(1, 4), (2, 64)] })]
     Issues s cj (.qrecv cj 1 2 4 3 .good) [1, 2, 4, 3] ∧ qPort (activeData (cellAt s.dev cj)) 4 ≠ 10) ∧
    (let s := mach [(cj, recvCell { regs := [(1, 3), (2, 32)] })]
     Issues s cj (.qrecv cj 1 2 4 3 .good) [1, 2, 4, 3] ∧ qPort (activeData (cellAt s.dev cj)) 3 = 10 ∧ (32 : Nat) % 64 ≠ 0) := by
  unfold IssuesInside Issues; decide

/-- An empty queue, with no deadline and with one that has come. -/
theorem witness_QueueReceiveTakesTheHead_empty : ∀ r ∈ ([[(1, 3), (2, 64)], [(1, 3), (2, 64), (4, 5)]] : List (List (Nat × W64))),
    let s := atBeat 5 (mach [(cj, { recvCell { regs := r } with queues := [] })])
    issues s.dev cj (.qrecv cj 1 2 4 3 .good) [1, 2, 4, 3] = true ∧ s.pc cj + 1 < progLen (cellAt s.dev cj) ∧ (queueOf (cellAt s.dev cj) 3).entries = [] := by
  decide +kernel

/-- A core that waits at offset 0 at beat 5. -/
def waiting (w : Wait) (dl : W64) (mb : List (List Byte)) : State :=
  atBeat 5 (mach [(cj, { active { secA := prog [nopW, nopW] } with conj := { st := .waiting w dl 3, mbox := mb } })])

theorem witness_WaitingCoresComplete : ∀ s ∈
    [waiting (.beat 5) 0 [], waiting (.mbox 64 2 3) 0 [mail 9], waiting (.mboxTag 64 9 2 3) 0 [mail 8, mail 9], waiting .sync 0 [], waiting (.beat 6) 5 [],
      waiting (.mbox 64 2 3) 5 [], waiting (.mboxTag 64 9 2 3) 5 [mail 8], waiting (.queue 3 64) 5 [],
      waiting (.signal 0 32 1 .ge false false false) 5 [], waiting (.signal 0 32 1 .ge false true true) 5 []],
    let x := cellAt s.dev cj
    cellOk cj = true ∧ s.dev.ctl.state = .running ∧ x.stopped = false ∧ x.fence = .none ∧ x.conj.pc + 1 < progLen x ∧ x.sends = [] ∧
      x.conj.launch = none ∧ x.conj.sigs = [] ∧ s.dev.beat.count = 5 ∧ fld (mail 9) 0 2 = 9 ∧ fld (mail 8) 0 2 ≠ 9 ∧
      qGrouped (activeData x) 3 = false ∧ qComb (activeData x) 3 = false ∧ (queueOf x 3).entries = [] := by decide

/-- A core that waits for its queue, which has an entry. -/
theorem witness_WaitingCoresComplete_queue :
    let y : Cell := { recvCell {} with conj := { st := .waiting (.queue 3 64) 0 3 } }
    let x := cellAt (mach [(cj, y)]).dev cj
    x.stopped = false ∧ x.fence = .none ∧ x.conj.pc + 1 < progLen x ∧ x.conj.st = .waiting (.queue 3 64) 0 3 ∧ qGrouped (activeData x) 3 = false ∧
      qComb (activeData x) 3 = false ∧ (queueOf x 3).st = .open ∧ (queueOf x 3).entries = [{ src := .cell ad, pay := mail 9 }] := by decide

/-- Signal instructions of index 3, of index 16, the first that is out of range, and with four replies outstanding. -/
theorem witness_SignalInstructionsSend :
    activeClause (core [] {}).dev cj = some cl7 ∧ runAt cl7.runs 3 = some (0, 35) ∧ cl7.signals = 16 ∧
    ∀ k ∈ [x1 3, x1 16, { regs := [(1, 3)], sigs := List.replicate 4 { f := 0, w := 32, reg := some 9 } }],
      fetches (wR 0x30 1 0 3 0 0) k (.sread cj 1 3) [1, 3] ∧ fetches (wR 0x31 1 2 0 0 0) k (.sset cj 1 2) [1, 2] ∧
      fetches (wR 0x32 1 2 3 0 0) k (.sadd cj 1 2 3) [1, 2, 3] ∧ fetches (wR 0x33 1 2 3 4 1) k (.swait cj 1 2 4 3 .eq) [1, 2, 4, 3] := by
  unfold fetches IssuesInside; decide

/-- Each reply stands at the core: of an operation outstanding, of a wait that goes on, and of one whose WAKE overtook its CANCEL. -/
theorem witness_SignalRepliesWriteRegisters :
    (∀ res ∈ [SigRes.done, .refused, .absent],
      let s := come (.store 0) (.cell cj) [.sigReply 0 res 0] (core [nopW, nopW] { sigs := [{ f := 0, w := 35, reg := some 3 }] })
      (activeSlot (cellAt s.dev cj)).isSome = true ∧ s.arrives (.store 0) (.cell cj) [.sigReply 0 res 0] ∧
        (cellAt s.dev cj).conj.sigs = [{ f := 0, w := 35, reg := some 3 }]) ∧
    (∀ cx ∈ [true, false], ∀ ab ∈ [true, false], ∀ res ∈ [SigRes.wake, .cancelled],
      let s := come (.store 0) (.cell cj) [.sigReply 0 res 0] (waiting (.signal 0 35 1 .ge cx ab false) 5 [])
      (activeSlot (cellAt s.dev cj)).isSome = true ∧ s.arrives (.store 0) (.cell cj) [.sigReply 0 res 0] ∧ (cellAt s.dev cj).stopped = false ∧
        s.dev.ctl.state = .running ∧ progLen (cellAt s.dev cj) = 2 ∧ 0 ∉ (cellAt s.dev cj).conj.ignore) ∧
    (let s := come (.store 0) (.cell cj) [.sigReply 0 .cancelled 0] (core [nopW] { ignore := [0] })
     0 ∈ (cellAt s.dev cj).conj.ignore ∧ s.arrives (.store 0) (.cell cj) [.sigReply 0 .cancelled 0]) := by
  unfold State.arrives; decide

/-- A name of cell 0.1 and queue 5, one of a cell outside the clause, none to all four of the send buffers taken, one of them by a message
that was refused, and a data address that is not aligned. -/
theorem witness_QueueInstructionsSend :
    activeClause (core [] {}).dev cj = some cl7 ∧
    (∀ p ∈ ([(0x38, .qopen cj 1), (0x39, .qclose cj 1), (0x3A, .qreset cj 1)] : List (Nat × Instr)),
      fetches (wR p.1 1 0 0 0 0) (x1 0x45) p.2 [1] ∧ fetches (wR p.1 1 0 0 0 0) (x1 0x8045) p.2 [1] ∧
      namesFenced (core [wR p.1 1 0 0 0 0, nopW] (x1 0x8045)).dev cl7 0x8045 = false ∧
      IssuesInside (mach [(cj, { coreCell [wR p.1 1 0 0 0 0, nopW] (x1 0x45) with sends := List.replicate 4 { dst := ad, q := 1 } })]) cj p.2 [1]) ∧
    (∀ b ∈ [false, true], fetches (wR 0x3B 1 2 0 0 b.toNat) (x1 0x45) (.qsend cj 1 2 b) [1, 2] ∧
      fetches (wR 0x3B 1 2 0 0 b.toNat) (x1 0x8045) (.qsend cj 1 2 b) [1, 2] ∧
      fetches (wR 0x3B 1 2 0 0 b.toNat) { regs := [(1, 0x45), (2, 65)] } (.qsend cj 1 2 b) [1, 2] ∧
      (∀ n ∈ [1, 2, 3, 4], ∀ full ∈ [false, true],
        let l : List Sent := List.replicate n { dst := { row := 0, col := 1 }, q := 5, fulled := full }
        let s := mach [(cj, { coreCell [wR 0x3B 1 2 0 0 b.toNat, nopW] (x1 0x45) with sends := l })]
        IssuesInside s cj (.qsend cj 1 2 b) [1, 2] ∧ (cellAt s.dev cj).sends = l) ∧
      namesFenced (core [wR 0x3B 1 2 0 0 b.toNat, nopW] (x1 0x8045)).dev cl7 0x8045 = false) := by
  unfold fetches IssuesInside; decide

/-- Targets of a Verb cell 0.1, an Adverb cell 1.0 and a Noun cell; a frame queue that is full; eight requests not started. -/
theorem witness_LaunchAndMoveIssue :
    let l : LCell × Launch := (vb, { idx := 0, eng := .verb, p0 := 0, p1 := 0, src := cj })
    let r : MReq := { cell := ad, clause := 7, slot := 0, idx := 0, p0 := 0, p1 := 0 }
    let w := wR 0x35 0 7 0 3 4
    let full (k : Conj) : State := { core [w, nopW] k with dev := { (core [w, nopW] k).dev with movers := { queue := [(0, List.replicate 64 r)] } } }
    (∀ p ∈ ([(false, 0x40), (false, 0x1000), (true, 0x1000), (true, 0x40), (false, 0)] : List (Bool × Nat)),
      fetches (wR 0x34 0 7 1 3 (4 + p.1.toNat)) (x1 (BitVec.ofNat 64 p.2)) (.launch cj 7 1 3 2 p.1) [1, 3, 2] ∧
      fetches (wR 0x34 0 7 1 3 (4 + p.1.toNat)) { x1 (BitVec.ofNat 64 p.2) with launch := some l } (.launch cj 7 1 3 2 p.1) [1, 3, 2]) ∧
    fetches w {} (.move cj 7 3 2) [3, 2] ∧ notStarted (core [w, nopW] {}).dev cj = 0 ∧
    IssuesInside (full {}) cj (.move cj 7 3 2) [3, 2] ∧ (frameQueue (full {}).dev 0).length = 64 ∧ notStarted (full {}).dev cj = 0 ∧
    IssuesInside (full { mreqs := List.replicate 8 { r with cell := cj } }) cj (.move cj 7 3 2) [3, 2] ∧
    notStarted (full { mreqs := List.replicate 8 { r with cell := cj } }).dev cj = 8 := by
  unfold fetches IssuesInside; decide

theorem witness_SystemInstructionEffects :
    fetches nopW {} (.nop cj) [] ∧ fetches (wR 0x3F 0 0 0 0 1) {} (.cend cj) [] ∧
    fetches (wR 0x3F 1 2 0 0 3) {} (.faultNotice cj 1 2) [1, 2] ∧ fetches (wR 0x3F 1 2 0 0 4) {} (.faultFatal cj 1 2) [1, 2] := by
  unfold fetches IssuesInside; decide

theorem witness_RegistersReadBackAndStall :
    NMap.wf 0 (x1 5).regs = true ∧ (3 : Reg) ≠ 0 ∧ ∃ o ∈ (cellAt (core [] { sigs := [{ f := 0, w := 35, reg := some 3 }] }).dev cj).conj.sigs, o.reg = some 3 := by decide

/-! ### Witnesses: signal stores, Noun cells, queues -/

/-- A request of the core on word 35 of frame 0. -/
def sigReq (v : W64) : SigReq := { src := .cell cj, frame := 0, word := 35, v := v, clause := 7, off := 0 }
/-- A machine whose word 35 of frame 0 is `w`. -/
def withWord (w : SigWord) : State := { core [nopW] {} with dev := { (core [nopW] {}).dev with sig := { words := [(35, w)] } } }
/-- A word of clause 7 with value 5 and ceiling 9. -/
def word5 : SigWord := { value := 5, alloc := true, ceilEn := true, ceiling := 9, owner := 7 }

/-- Each operation at the store; a value up to the ceiling; a wait that holds and one that does not. -/
theorem witness_SignalStoreOperations :
    let w := sigWord (withWord word5).dev 0 35
    (∀ op ∈ [SigOp.read, .set, .add, .wait .ge, .cancel],
      let s := come (.cell cj) (.store 0) [.sigOp op (sigReq 4)] (withWord word5)
      s.arrives (.cell cj) (.store 0) [.sigOp op (sigReq 4)] ∧ sigWord s.dev 0 35 = w) ∧
    (sigReq 4).kind = .clause ∧ w.alloc = true ∧ w.owner = (sigReq 4).clause ∧ ¬(w.ceilEn = true ∧ w.ceiling.toNat < (4 : W64).toNat) ∧
    ¬(w.ceilEn = true ∧ w.ceiling.toNat < (w.value + 4).toNat) ∧ condHolds .ge w.value 4 = true ∧ condHolds .ge w.value 6 = false := by
  unfold State.arrives; decide

/-- A word of no clause, one of another clause, and a value beyond the ceiling, recorded and not yet recorded; a SET of the host and a
remote raise. -/
theorem witness_SignalRefusals :
    (∀ w ∈ [({} : SigWord), { word5 with owner := 8 }, word5], ∀ op ∈ [SigOp.read, .set, .add, .cancel], ∀ k ∈ [SigKind.clause, .host, .remote],
      let r : SigReq := { sigReq 10 with kind := k }
      let s := come (.cell cj) (.store 0) [.sigOp op r] (withWord w)
      s.arrives (.cell cj) (.store 0) [.sigOp op r] ∧ sigWord s.dev 0 35 = w) ∧
    (({} : SigWord).alloc = false ∧ ({ word5 with owner := 8 } : SigWord).owner ≠ (sigReq 10).clause ∧ word5.remote = false) ∧
    (let w := sigWord (withWord word5).dev 0 35
     w.alloc = true ∧ w.owner = (sigReq 10).clause ∧ w.ceilEn = true ∧ w.ceiling.toNat < (10 : W64).toNat ∧ w.ceiling.toNat < (w.value + 10).toNat ∧
       clauseOf (withWord word5).dev 7 = some cl7 ∧ cl7.ceilRec = false) := by unfold State.arrives; decide

theorem witness_SignalUpsetFailsTheWord : ∀ op ∈ [SigOp.read, .set, .add, .wait .ge, .cancel],
    let s := come (.cell cj) (.store 0) [.sigOp op (sigReq 4)] (withWord word5)
    let u : Dev := { s.dev with sig := { s.dev.sig with spares := [(3, 4 + 1)] } }
    s.arrives (.cell cj) (.store 0) [.sigOp op (sigReq 4)] ∧ s.otp.retired.length < 32768 ∧
    spareOf s.dev 0 4 = none ∧ spareOf u 0 4 = some 3 ∧ wordsFailed u 0 < (sparesFree u 0).length := by
  unfold State.arrives; decide +kernel

/-- A record of each severity on a clause that is loaded; a machine in canonical form with a command that is no reset before it. -/
theorem witness_FaultLogTakesEveryRecord :
    (∀ v ∈ [0, 1, 2], clauseOf (dev []) (plainRecord 0x0403 v 7 0 0).clause = some cl7 ∧ (plainRecord 0x0403 v 7 0 0).severity = v) ∧
    (let s : State := { core [wR 0 1 2 3 0 0, nopW] {} with pending := [.add cj 1 2 3] }
     (∃ t, step s = .next t) ∧ ∀ c ∈ s.pending.head?, resets c = false) := ⟨by decide, ⟨_, rfl⟩, by decide⟩

theorem witness_CanonicalFormIsKept :
    let x := coreCell [wR 0 1 2 3 0 0, nopW] { regs := [(1, 5)], dmem := [(64, 1)] }
    let s : State := { mach [] with dev := { dev [] with cells := [(phys (dev []) cj, x)] }, pending := [.add cj 1 2 3] }
    Canonical s.dev ∧ ∃ t, step s = .next t := by
  refine ⟨⟨by decide, by decide, by decide, fun p => ?_⟩, _, rfl⟩
  simp only [cellP, NMap.get]
  split <;> decide

/-- A Noun cell whose banks are Owned by port N, SharedRead by N and E, and Off. -/
def nounCell (n : Noun) : Cell := { active { secA := [0x41, 0x85, 0] } with noun := n }

/-- Reads and writes at port N that the bank's mode permits and that it does not. -/
theorem witness_NounAccessesAreChecked :
    let x := cellAt (mach [(nn, nounCell {})]).dev nn
    (∀ a ∈ [0, 0x20000, 0x40000],
      let r : List Body := [.nounRead .n a 7 8]
      let w : List Body := [.nounWrite .n a 7 8 (List.replicate 64 1), .nounEnables 3]
      (come (.cell vb) (.cell nn) r (mach [(nn, nounCell {})])).arrives (.cell vb) (.cell nn) r ∧
        (come (.cell vb) (.cell nn) w (mach [(nn, nounCell {})])).arrives (.cell vb) (.cell nn) w) ∧
    x.fence = .none ∧ nounWaits (mach [(nn, nounCell {})]).dev (phys (mach [(nn, nounCell {})]).dev nn) = false ∧ x.noun.refusedOnce = false ∧
    bankMode x (.cell vb) 7 (bankOf 0) = 0x41 ∧ bankMode x (.cell vb) 7 (bankOf 0x20000) = 0x85 ∧ bankMode x (.cell vb) 7 (bankOf 0x40000) = 0 := by
  unfold State.arrives; decide

/-- A write and a read at port N of bank 0; a hit in bank 1, and an uncorrectable line. -/
theorem witness_NounBankGrants :
    let r : NounReq := { port := .n, addr := 64, src := .cell vb, clause := 7, off := 0, wr := none }
    let w : NounReq := { r with wr := some (List.replicate 64 1, 3) }
    let x (n : Noun) : Cell := cellAt (mach [(nn, nounCell n)]).dev nn
    portHead (x { reqs := [w] }) 0 .n = some w ∧ portHead (x { reqs := [r] }) 0 .n = some r ∧ portHead (x { reqs := [r], bad := [64] }) 0 .n = some r ∧
    (let q : NounReq := { r with addr := 0x20040 }
     portHead (x { reqs := [q], merge := [(1, [0x20040])] }) 1 .n = some q ∧ modeShared (fld (activeData (x { reqs := [q] })).secA 1 1) = true) ∧
    (halfOn (mach [(nn, nounCell {})]).dev (phys (mach [(nn, nounCell {})]).dev nn) = true ∧ Unfaulted (mach [(nn, nounCell {})])) ∧
    (∀ d : Dir, (dirCode d + 3 * NMap.get 0 (x { reqs := [r] }).noun.ptr 0) % 4 < (dirCode .n + 3 * 0) % 4 → False) := by
  refine ⟨by decide, by decide, by decide, by decide, by unfold Unfaulted; decide, ?_⟩
  intro d; cases d <;> decide

/-- A queue configuration in which queue `q` has depth 4 and port `p`. -/
def qcfg (q p : Nat) : List Byte := setFld (List.replicate 0x110 0) (4 * q) 4 (4 * 2 ^ 21 + p * 2 ^ 17)
/-- A cell whose queue 5 has depth 4 and port `p`, and is `k`. -/
def queueCell (p : Nat) (k : Queue) : Cell := { active { qcfg := qcfg 5 p } with queues := [(5, k)] }
/-- An entry. -/
def ent : QEntry := { src := .cell cj, pay := mail 9 }

/-- A message at the cell; an open queue with room and without, a mailbox with room and without, and each other state. -/
theorem witness_QueueMessagesByState :
    let x (p : Nat) (k : Queue) : Cell := cellAt (mach [(ad, queueCell p k)]).dev ad
    let sd := activeData (x 4 {})
    let m : List Body := [.qmsg 5 0 false (mail 9)]
    (∀ y ∈ [queueCell 4 {}, queueCell 11 {}, { queueCell 4 {} with fence := .byCommand }],
      (come (.cell cj) (.cell ad) m (mach [(ad, y)])).arrives (.cell cj) (.cell ad) m ∧
      (senderOf (come (.cell cj) (.cell ad) m (mach [(ad, y)])).dev (.cell cj)).sends = []) ∧
    (let s := come (.cell cj) (.cell ad) m (mach [(ad, queueCell 4 { st := .open }), (cj, { active {} with sends := [{ dst := ad, q := 5, st := .full, fulled := true }, { dst := ad, q := 5, born := 1 }] })])
     s.arrives (.cell cj) (.cell ad) m ∧ behindFull (landed s.dev (.cell cj) (.cell ad) m) (.cell cj) ad 5 = true) ∧
    qComb sd 5 = false ∧ qPort sd 5 = 4 ∧ qDepth sd 5 = 4 ∧ qPort (activeData (x 11 {})) 5 = 11 ∧
    queueOf (x 4 { st := .open, gen := 3 }) 5 = { st := .open, gen := 3 } ∧ queueOf (x 4 { st := .open, entries := List.replicate 4 ent }) 5 = { st := .open, entries := List.replicate 4 ent } ∧
    (∀ k ∈ ([{ st := .draining }, { gen := 1 }, { st := .open, gen := 1 }, { st := .open, clamped := true }] : List Queue), queueOf (x 4 k) 5 = k ∧ (x 4 k).fence = .none) ∧
    (cellAt (mach [(ad, { queueCell 11 { st := .open } with conj := { mbox := List.replicate 16 (mail 1) } })]).dev ad).conj.mbox.length = 16 ∧
    (cellAt (mach [(ad, { queueCell 4 {} with fence := .byCommand })]).dev ad).fence ≠ .none := by unfold State.arrives; decide

theorem witness_QueueControlsByState :
    let x (k : Queue) : Cell := cellAt (mach [(ad, queueCell 4 k)]).dev ad
    (∀ op ∈ [QOp.qopen, .qclose, .qreset], (come (.cell cj) (.cell ad) [.qctl 5 op] (mach [(ad, queueCell 4 {})])).arrives (.cell cj) (.cell ad) [.qctl 5 op]) ∧
    (x {}).fence = .none ∧ (x {}).slots ≠ [] ∧ qUsed (activeData (x {})) 5 = true ∧ qUsed (activeData (x {})) 6 = false ∧ qComb (activeData (x {})) 5 = false ∧
    (∀ k ∈ ([{}, { st := .draining }, { st := .open }, { st := .open, entries := [ent] }] : List Queue), queueOf (x k) 5 = k ∧ (x k).waiters = []) := by
  unfold State.arrives; decide

/-- Two messages to one queue, the second held behind the first, and each completion of the first. -/
theorem witness_CompletionsFreeTheirMessage :
    let m : Sent := { dst := ad, q := 5 }
    let h : Sent := { m with st := .held }
    (∀ strict ∈ [true, false], ∀ res ∈ [QRes.accepted, .closed .draining, .fenced],
      let s := come (.cell ad) (.cell cj) [.qcomp ad 5 1 res] (mach [(cj, { active {} with sends := [{ m with strict := strict }, h] })])
      s.arrives (.cell ad) (.cell cj) [.qcomp ad 5 1 res] ∧
      (cellAt s.dev cj).slots ≠ [] ∧ (cellAt s.dev cj).sends = [] ++ { m with strict := strict } :: [h]) ∧ m.st = .inFlight ∧ m.ctl = none ∧
      h.st = .held ∧ h.fulled = false := by unfold State.arrives; decide

theorem witness_FullMessagesAreResent : ∀ p ∈ [(SentSt.inFlight, false, QRes.full), (.full, true, .resume)],
    let m : Sent := { dst := ad, q := 5, st := p.1, fulled := p.2.1 }
    let s := come (.cell ad) (.cell cj) [.qcomp ad 5 1 p.2.2] (mach [(cj, { active {} with sends := [m] })])
    s.arrives (.cell ad) (.cell cj) [.qcomp ad 5 1 p.2.2] ∧
    (cellAt s.dev cj).slots ≠ [] ∧ senderStopped s.dev (.cell cj) = false ∧ (senderOf s.dev (.cell cj)).sends = [] ++ m :: [] := by unfold State.arrives; decide

/-- A launch at its cell with its place free and taken, a fenced target, a summary with room in the mailbox and with none, and a stall of
two beats. -/
theorem witness_LaunchesMailAndStalls :
    let l : Launch := { idx := 7, eng := .vec, p0 := 0, p1 := 0, src := cj }
    let body : List Body := [.launch 7 .vec 0 0]
    let s (y : Cell) : State := come (.cell cj) (.cell ad) body (mach [(ad, y), (cj, { active {} with conj := { launch := some (ad, l) } })])
    (∀ y ∈ [active {}, { active {} with pend := List.replicate 4 l }, { active {} with fence := .byCommand }],
      (s y).arrives (.cell cj) (.cell ad) body ∧ (cellAt (s y).dev cj).conj.launch = some (ad, l) ∧ (cellAt (s y).dev cj).slots ≠ []) ∧
    ((cellAt (s (active {})).dev ad).fence = .none ∧ reloadHolds (s (active {})).dev (phys (s (active {})).dev ad) = false ∧
      pendOf (cellAt (s (active {})).dev ad) .vec = [] ∧ phys (s (active {})).dev cj ≠ phys (s (active {})).dev ad) ∧
    (pendOf (cellAt (s { active {} with pend := List.replicate 4 l }).dev ad) .vec).length = 4 ∧
    (cellAt (s { active {} with fence := .byCommand }).dev ad).fence ≠ .none ∧
    (∀ n ∈ [0, 16], let z := come (.cell ad) (.cell cj) [.summary (mail 9)] (core [nopW] { mbox := List.replicate n (mail 1) })
     z.arrives (.cell ad) (.cell cj) [.summary (mail 9)] ∧ (cellAt z.dev cj).conj.mbox.length = n) ∧
    (let y : Cell := { active { qcfg := setFld (qcfg 5 4) 0x102 2 2 } with sends := [{ dst := ad, q := 5, st := .full, fulled := true }], stall := 2 }
     stalled (mach [(cj, y)]).dev cj = true ∧ y.stallRec = false ∧ watchdog (activeData y) = 2) := by unfold State.arrives; decide

/-! ### Witnesses: Verb and Adverb cells -/

/-- A record of `n` bytes with these fields: offset, size, value. -/
def rec_ (n : Nat) (fs : List (Nat × Nat × Nat)) : List Byte := fs.foldl (fun b f => setFld b f.1 f.2.1 f.2.2) (List.replicate n 0)
/-- A descriptor store that holds one record, at byte 8. -/
def store1 (raw : List Byte) : List Byte := leBytes 2 1 ++ leBytes 2 1 ++ List.replicate 4 0 ++ raw
/-- A MATMUL of one row and `n` columns at K = 1 in FP8, from its south and east neighbours to the west. -/
def matRaw (n : Nat) : List Byte :=
  rec_ 256 [(0, 2, 1), (2, 2, 256), (4, 2, 3), (0x28, 1, 7), (0x29, 1, 7), (0x2A, 1, 2), (0x2C, 4, 1), (0x30, 4, 1), (0x38, 4, 1), (0x3C, 4, n),
    (0x40, 4, 1), (0x48, 4, 5 * 2 ^ 28), (0x4C, 4, 6 * 2 ^ 28), (0x54, 4, 7 * 2 ^ 28), (0x5C, 4, 1), (0x74, 4, 1), (0x8C, 4, 4), (0xAA, 2, 512)]
/-- A launch of descriptor `i`. -/
def launch (i : Nat) (e : Engine) : Launch := { idx := i, eng := e, p0 := 0, p1 := 0, src := cj }
/-- A Verb cell in the middle of the clause with this descriptor and a launch of descriptor `i` pending. -/
def verbAt : LCell := { row := 2, col := 3 }
/-- A machine with that cell. -/
def verbMach (raw : List Byte) (i : Nat) (y : Cell) : State :=
  mach [(verbAt, { y with slots := (active { secA := store1 raw, qcfg := qcfg 5 4 }).slots, pend := [launch i .verb] })]

/-- A descriptor that starts, an empty one, one that fails its checks, and an index beyond the store. -/
theorem witness_MatmulStartsItsBlocks :
    (∀ p ∈ [(matRaw 1, 0), (matRaw 0, 0), (setFld (matRaw 1) 2 2 64, 0), (matRaw 1, 1)],
      let s := verbMach p.1 p.2 {}
      headLaunch s.dev verbAt .verb .verb = some (launch p.2 .verb) ∧ activeClause s.dev verbAt = some cl7 ∧ (cellAt s.dev verbAt).stage = none ∧
        (cellAt s.dev verbAt).mats = [] ∧ (cellAt s.dev verbAt).clockOff = false ∧ descKind (activeData (cellAt s.dev verbAt)).secA p.2 ≠ some 2) ∧
    descAt (store1 (matRaw 1)) 0 256 = some (8, matRaw 1) ∧ (matChecks cl7 { qcfg := qcfg 5 4 } (matRaw 1) 0 0).2 = none ∧ matEmpty (matRaw 1) = false ∧
    (matBlocks (matRaw 1)).length = 1 ∧ (∀ p ∈ [0, 1], (usable (verbMach (matRaw 1) 0 {}).dev verbAt (pwDir (mPort (matRaw 1) p))).isSome = true) ∧
    (matChecks cl7 { qcfg := qcfg 5 4 } (matRaw 0) 0 0).2 = none ∧ matEmpty (matRaw 0) = true ∧
    (matChecks cl7 { qcfg := qcfg 5 4 } (setFld (matRaw 1) 2 2 64) 0 0).2 ≠ none ∧ fld (store1 (matRaw 1)) 0 2 ≤ 1 := by decide +kernel

/-- The one block of that MATMUL. -/
def blk1 : Blk := { m0 := 0, rows := 1, n0 := 0, cols := 1, rb := 0, cb := 0, q := 0 }
/-- A running MATMUL whose block has finished and is not drained. -/
def matRun : MatRun := { off := 8, raw := matRaw 1, blocks := [], latch := some { blk := blk1, acc := [0], comp := [0] }, dest := ({ row := 2, col := 2 }, 64) }
/-- A line on its way out. -/
def outLine (nans : List (List Nat)) : OutLine := { addr := 0, line := List.replicate 64 0, en := 15, nans := nans }

/-- A block in the latches, a line to the west and one to a queue, a NaN under a watch that is armed, a descriptor whose every line has
been acknowledged, and a hold at a segment's end. -/
theorem witness_VerbDrainsWritesAndCompletes :
    let s (m : MatRun) : State := verbMach (matRaw 1) 0 { mats := [m] }
    let m0 : MatRun := { matRun with latch := none }
    let m1 : MatRun := { m0 with outs := [{ bufs := [0], lines := [outLine []] }] }
    let q : Nat := 2 * 2 ^ 30 + 5 * 2 ^ 22 + 2 * 2 ^ 16 + 2 * 2 ^ 10
    ((cellAt (s matRun).dev verbAt).mats = [] ++ matRun :: [] ∧ engineGoes (s matRun).dev verbAt = true ∧ (drainBuffers (cellAt (s matRun).dev verbAt) matRun.raw).isSome = true ∧
      blk1.rows ≤ 64 ∧ blk1.cols ≤ 128) ∧
    (engineGoes (s m1).dev verbAt = true ∧ pwMode (mPort m1.raw 3) = 1 ∧ usable (s m1).dev verbAt (pwDir (mPort m1.raw 3)) = some { row := 2, col := 2 } ∧
      ((cellAt (s m1).dev verbAt).mats.getLast?.map fun y => y.blocks) = some []) ∧
    (let m2 : MatRun := { m1 with raw := setFld (matRaw 1) 0x54 4 q, dest := ({ row := 2, col := 2 }, 5) }
     pwMode (mPort m2.raw 3) = 2 ∧ (cellAt (s m2).dev verbAt).sends = [] ∧ (cellAt (s m2).dev verbAt).mats = [m2]) ∧
    activeClause (s m1).dev verbAt = some cl7 ∧ ((cellAt (s m0).dev verbAt).slots ≠ [] ∧ (cellAt (s m0).dev verbAt).mats = [m0]) ∧
    (let h := { (s { m0 with blocks := [blk1] }).dev with ctl := { state := .held } }
     holdDue h (phys h verbAt) = true ∧ engineGoes h verbAt = true ∧ (cellAt h verbAt).mats = [] ++ [{ m0 with blocks := [blk1] }] ∧
       latchesEmpty (cellAt h verbAt) = true) := by decide +kernel

/-- A STAGE of `n` lines from port word `w` to store port `p`. -/
def stageRaw (w n p : Nat) : List Byte := rec_ 64 [(0, 2, 2), (2, 2, 64), (4, 2, 3), (0x28, 1, p), (0x2C, 4, w), (0x34, 4, 64 * n), (0x3A, 2, n)]
/-- An SMM of one row and `n` columns at K = 1 in FP8. -/
def smmRaw (n : Nat) : List Byte :=
  rec_ 112 [(0, 2, 0x11), (2, 2, 112), (4, 2, 3), (0x28, 1, 7), (0x29, 1, 7), (0x2A, 1, 2), (0x2C, 4, 1), (0x30, 4, n), (0x34, 4, 1),
    (0x3C, 4, 1), (0x48, 4, 64), (0x4C, 4, 1), (0x58, 4, 128), (0x5C, 4, 4)]
/-- A VECTOR of `n` points that adds constant 0 to X0, at LOC `loc`, in FP32 and writes the operand file. -/
def vecRaw (loc n : Nat) : List Byte :=
  rec_ 712 ([(0, 2, 0x10), (2, 2, 712), (4, 2, 3), (0x28, 1, 1), (0x2C, 2, 0xFFFF)] ++ ((List.range 6).map fun k => (0x30 + 4 * k, 4, if k = 0 then n else 1)) ++
    [(0x88, 8, 2 ^ 58 + 2 ^ 55 + 2 ^ 36 + 16 * 2 ^ 31), (viewOff 0, 1, loc), (viewOff 0 + 1, 1, 2), (viewOff 0 + 12, 4, 4), (viewOff 0 + 0x10, 8, 4),
     (viewOff 4, 1, 1), (viewOff 4 + 1, 1, 2), (viewOff 4 + 3, 1, 1), (viewOff 4 + 8, 4, 64), (viewOff 4 + 12, 4, 4), (viewOff 4 + 0x10, 8, 4)])
/-- An Adverb cell with this descriptor and a launch of descriptor `i` pending at the vector engine and the small matrix unit. -/
def advMach (raw : List Byte) (i : Nat) (y : Cell) : State :=
  mach [(ad, { y with slots := (active { secA := store1 raw, qcfg := qcfg 5 6 }).slots, pend := [launch i .vec], pendS := [launch i .smm] })]

/-- Each descriptor from a neighbour, from a queue or the operand file, empty, failing a check, and beyond the store. -/
theorem witness_OtherDescriptorsStart :
    (∀ p ∈ [(stageRaw (5 * 2 ^ 28) 2 0, 0), (stageRaw (5 * 2 ^ 28) 2 0, 1)],
      headLaunch (verbMach p.1 p.2 {}).dev verbAt .verb .verb = some (launch p.2 .verb) ∧ activeClause (verbMach p.1 p.2 {}).dev verbAt = some cl7) ∧
    (let sd : SlotData := { qcfg := qcfg 5 4 }
     (∀ w ∈ [5 * 2 ^ 28, 2 * 2 ^ 30 + 5 * 2 ^ 22], (stageChecks .verb cl7 sd (stageRaw w 2 0) 0 0).2 = none ∧ (stageChecks .verb cl7 sd (stageRaw w 0 0) 0 0).2 = none) ∧
     (stageChecks .verb cl7 sd (stageRaw 0 2 0) 0 0).2 ≠ none ∧ descAt (store1 (stageRaw (5 * 2 ^ 28) 2 0)) 0 64 = some (8, stageRaw (5 * 2 ^ 28) 2 0) ∧
     usable (verbMach (stageRaw (5 * 2 ^ 28) 2 0) 0 {}).dev verbAt (pwDir (5 * 2 ^ 28)) = some { row := 3, col := 3 }) ∧
    (∀ p ∈ [(vecRaw 1 1, 0), (vecRaw 1 1, 1)],
      headLaunch (advMach p.1 p.2 {}).dev ad .adverb .vec = some (launch p.2 .vec) ∧ headLaunch (advMach p.1 p.2 {}).dev ad .adverb .smm = some (launch p.2 .smm) ∧
        engineGoes (advMach p.1 p.2 {}).dev ad = true ∧ activeClause (advMach p.1 p.2 {}).dev ad = some cl7) ∧
    ((vecChecks cl7 {} (vecRaw 1 1) 0 0).2 = none ∧ vecEmpty (vecRaw 1 1) = false ∧ vStreams (vecRaw 1 1) = [] ∧ descAt (store1 (vecRaw 1 1)) 0 712 = some (8, vecRaw 1 1)) ∧
    ((vecChecks cl7 {} (vecRaw 3 1) 0 0).2 = none ∧ vStreams (vecRaw 3 1) = [0] ∧ groupLines (vecRaw 3 1) 0 0 ≠ [] ∧ (cellAt (advMach (vecRaw 3 1) 0 {}).dev ad).clockOff = false ∧
      (usable (advMach (vecRaw 3 1) 0 {}).dev ad (dirOf (vLoc (vecRaw 3 1) 0 - 2))).isSome = true) ∧
    ((vecChecks cl7 {} (vecRaw 1 0) 0 0).2 = none ∧ vecEmpty (vecRaw 1 0) = true ∧ vSumDest (vecRaw 1 0) = 0xFFFF) ∧
    (vecChecks cl7 {} (setFld (vecRaw 1 1) 0x28 1 0) 0 0).2 ≠ none ∧
    ((smmChecks cl7 (smmRaw 1) 0 0).2 = none ∧ smmEmpty (smmRaw 1) = false ∧ (smmChecks cl7 (smmRaw 0) 0 0).2 = none ∧ smmEmpty (smmRaw 0) = true ∧
      (smmChecks cl7 (setFld (smmRaw 1) 0x2A 1 0) 0 0).2 ≠ none ∧ descAt (store1 (smmRaw 1)) 0 112 = some (8, smmRaw 1)) := by decide +kernel

/-- A running VECTOR whose groups have run and that has no line to send. -/
def vecRun (loc : Nat) : VecRun :=
  { off := 8, raw := setFld (vecRaw 1 1) (viewOff 4) 1 loc, pos := 1, y0 := { dest := ({ row := 2, col := 0 }, 64) }, y1 := { dest := ({ row := 2, col := 0 }, 64) } }

/-- A line of each output to the south and to a queue; a summary; a finished VECTOR behind one that is not, an SMM and a STAGE. -/
theorem witness_AdverbOutputsAndCompletions :
    let s (v : List VecRun) : State := advMach (vecRaw 1 1) 0 { vecs := v }
    let k : VecOut := { dest := (nn, 5), lines := [outLine []] }
    (∀ v ∈ [{ vecRun 3 with y0 := { (vecRun 3).y0 with lines := [outLine []] } }, { vecRun 6 with y0 := k }, { vecRun 3 with y1 := k }],
      engineGoes (s [v]).dev ad = true ∧ activeClause (s [v]).dev ad = some cl7 ∧ (cellAt (s [v]).dev ad).slots ≠ [] ∧ (cellAt (s [v]).dev ad).vecs = [v] ∧
        (cellAt (s [v]).dev ad).sends = []) ∧
    vLoc (vecRun 3).raw 4 = 3 ∧ usable (s [vecRun 3]).dev ad (dirOf (3 - 2)) = some { row := 2, col := 0 } ∧ vLoc (vecRun 6).raw 4 = 6 ∧
    vLoc (setFld (vecRun 1).raw (viewOff 5) 1 3) 5 = 3 ∧ vLoc (setFld (vecRun 1).raw (viewOff 5) 1 6) 5 = 6 ∧
    (let v := { vecRun 3 with summary := some (cj, mail 9) }
     vGroups v.raw ≤ v.pos ∧ v.y0.lines = [] ∧ v.y1.lines = [] ∧ engineGoes (s [v]).dev ad = true ∧ v.complete = false ∧
       (cellAt (s [v, vecRun 3]).dev ad).vecs = [v] ++ vecRun 3 :: [] ∧ (vecRun 3).summary = none ∧ (vecRun 3).sumWait = none) ∧
    (let y : Cell := { smm := some { off := 8, raw := smmRaw 1, acc := [0] }, stage := some { off := 8, raw := stageRaw (5 * 2 ^ 28) 2 2, need := [], landed := 2 } }
     engineGoes (advMach (smmRaw 1) 0 y).dev ad = true ∧ (cellAt (advMach (smmRaw 1) 0 y).dev ad).smm = some { off := 8, raw := smmRaw 1, acc := [0] } ∧
       (cellAt (advMach (smmRaw 1) 0 y).dev ad).stage = some { off := 8, raw := stageRaw (5 * 2 ^ 28) 2 2, need := [], landed := 2 }) := by decide +kernel

/-- Lines awaited by a STAGE, a MATMUL and a VECTOR. -/
theorem witness_LinesReachTheirEngines_lines :
    let n : Need := { port := 4, frm := some nn, addr := 0 }
    let later : Need := { n with step := 1 }
    let g : StageRun := { off := 8, raw := stageRaw (5 * 2 ^ 28) 3 0, need := [n], left := [64], landed := 1 }
    let m : MatRun := { matRun with latch := none, blocks := [blk1], acc := [0], fresh := false, need := [n], asks := List.replicate 3 { step := 1 } }
    let v : VecRun := { vecRun 3 with pos := 0, need := [n], asks := List.replicate 4 { step := 1 } }
    let s (y : Cell) : State := verbMach (matRaw 1) 0 y
    (∀ y ∈ ([{ stage := some g }, { mats := [m] }, { vecs := [v] }] : List Cell), ∀ r ∈ [true, false],
      (come (.cell nn) (.cell verbAt) [.nounData nn .n 0 r (mail 9)] (s y)).arrives (.cell nn) (.cell verbAt) [.nounData nn .n 0 r (mail 9)] ∧
        (cellAt (s y).dev verbAt).slots ≠ []) ∧
    ((cellAt (s { stage := some g }).dev verbAt).stage = some g ∧ pwMode (gPort g.raw) ≠ 2 ∧ (usable (s {}).dev verbAt (pwDir (gPort g.raw))).isSome = true ∧
      engineGoes (s { stage := some g }).dev verbAt = true) ∧
    ((cellAt (s { mats := [m] }).dev verbAt).mats = [] ++ [m] ∧ m.need = n :: [] ∧ m.k + 1 = mK m.raw ∧ segOver m = false ∧
      engineGoes (s { mats := [m] }).dev verbAt = true ∧ mayFinish (cellAt (s { mats := [m] }).dev verbAt) m.raw = true ∧
      (∀ a ∈ m.asks, a.left = [] ∧ mK m.raw ≤ a.step)) ∧
    (let w := { v with need := [n, { n with step := 0 }] }
     (cellAt (s { vecs := [w] }).dev verbAt).vecs = [] ++ [w] ∧ (∀ a ∈ w.asks, a.left = [] ∧ vGroups w.raw ≤ a.step) ∧ (∃ y ∈ w.need.drop 1, y.step = w.pos)) ∧
    (let w : MatRun := { m with raw := setFld (matRaw 1) 0x40 4 2, asks := List.replicate 3 { step := 2 }, need := [n, n] }
     w.k + 1 < mK w.raw ∧ (∀ a ∈ w.asks, a.left = [] ∧ mK w.raw ≤ a.step) ∧ (∃ y ∈ w.need.drop 1, y.step = w.k)) ∧ later.step ≠ n.step := by
  unfold State.arrives; decide +kernel

/-- Acknowledgements awaited, a queue-fed STAGE, and a combining queue of one producer with its contribution. -/
theorem witness_LinesReachTheirEngines :
    let qd : Need := { port := 4, frm := none, addr := 0 }
    let g : StageRun := { off := 8, raw := stageRaw (2 * 2 ^ 30 + 5 * 2 ^ 22) 2 0, need := [qd], landed := 1 }
    let m : MatRun := { matRun with dest := (nn, 64), acks := [0] }
    let v : VecRun := { vecRun 3 with y0 := { dest := (nn, 64), acks := [0] } }
    let s (y : Cell) : State := verbMach (matRaw 1) 0 y
    (∀ r ∈ [true, false], ∀ y ∈ ([{ mats := [m] }, { vecs := [v] }] : List Cell),
      (come (.cell nn) (.cell verbAt) [.nounAck nn .n 0 r] (s y)).arrives (.cell nn) (.cell verbAt) [.nounAck nn .n 0 r]) ∧
    (cellAt (s { mats := [m] }).dev verbAt).mats = [m] ∧ (cellAt (s { vecs := [v] }).dev verbAt).vecs = [v] ∧
    (let y : Cell := { stage := some g, queues := [(5, { st := .open, entries := [ent] })] }
     let x := cellAt (s y).dev verbAt
     engineGoes (s y).dev verbAt = true ∧ x.stage = some g ∧ pwMode (gPort g.raw) = 2 ∧ takeMember x (pwQueue (gPort g.raw)) = some 5 ∧
       qComb (activeData x) 5 = false ∧ queueOf x 5 = { st := .open, entries := [ent] }) ∧
    (let sd : SlotData := { qcfg := setFld (setFld (List.replicate 0x130 0) 20 4 (4 * 2 ^ 21 + 4 * 2 ^ 17 + 2 ^ 16)) 0x110 2 66 }
     let c := mach [(verbAt, { active sd with queues := [(5, { st := .open, entries := [ent] })] })]
     qComb (activeData (cellAt c.dev verbAt)) 5 = true ∧ prodsOf c.dev verbAt 5 = [66] ∧ (combSlot (prodsOf c.dev verbAt 5) (queueOf (cellAt c.dev verbAt) 5)).isSome = true ∧
       senderStopped c.dev (.cell verbAt) = false) := by
  unfold State.arrives; decide +kernel

/-! ### Witnesses: movers, memory, routers -/

/-- A MOVE of `n` bytes from address 0 to 4096, adding 1 to signal 3; `f` is AFLAGS. -/
def moveRaw (n f : Nat) : List Byte :=
  rec_ 128 [(0, 2, 0x20), (2, 2, 0x80), (4, 2, 3), (0x30, 8, 4096), (0x38, 4, n), (0x3C, 4, 1), (0x40, 4, 1), (0x44, 4, n), (0x68, 4, n), (0x6D, 1, f), (0x6E, 2, 1)]
/-- A request of the core for descriptor `i`. -/
def mreq (i : Nat) : MReq := { cell := cj, clause := 7, slot := 0, idx := i, p0 := 0, p1 := 0 }
/-- A machine in which that request stands first at frame 0. -/
def moverMach (raw : List Byte) (i : Nat) : State :=
  { mach [] with dev := { dev [] with cells := [(phys (dev []) cj, active { secC := store1 raw })], movers := { queue := [(0, [mreq i])] } } }

theorem moverMach_calm (raw : List Byte) (i : Nat) (k : LCell) : (cellAt (moverMach raw i).dev k).conj.mreqs = [] := by
  simp only [cellAt, cellP, moverMach, NMap.get]
  split <;> rfl

/-- A running request of mover 0 of frame 0. -/
def mrun : MoverRun := { req := mreq 0, off := 8, raw := moveRaw 64 0, reads := [], readsOut := [], writes := [], writesOut := [] }
/-- A machine with that request running. -/
def runMach (r : MoverRun) : State := { mach [] with dev := { dev [] with movers := { run := [(0, some r)] } } }

/-- A request that starts, an empty one, one that fails a check, one beyond the store; a request at its end, with a handle and
without. -/
theorem witness_MoverRequestsStartAndComplete :
    (∀ p ∈ [(moveRaw 64 0, 0), (moveRaw 0 0, 0), (setFld (moveRaw 64 0) 0x6E 2 0, 0), (moveRaw 64 0, 1)],
      let s := moverMach p.1 p.2
      s.dev.ctl.state = .running ∧ frameQueue s.dev 0 = [mreq p.2] ∧ clauseOf s.dev 7 = some cl7 ∧ cl7.held = false ∧ windowOpen s.dev = false ∧ s.dev.ctl.holds = [] ∧
        reqDesc s.dev (mreq p.2) = (if p.2 = 0 then some (8, p.1) else none) ∧ idleMover s.dev 0 (moveDie (moveParams p.1 0 0)) = some (.frame 0 0) ∧
        idleMover s.dev 0 none = some (.frame 0 0)) ∧
    ((moveChecks 0 cl7 (moveRaw 64 0) 0 0).2 = none ∧ moveEmpty (moveRaw 64 0) = false ∧ moveRaise (moveRaw 64 0) = false ∧
      moveReads (moveRaw 64 0) = [0] ∧ placeOf 0 0 ≠ .remote) ∧
    ((moveChecks 0 cl7 (moveRaw 0 0) 0 0).2 = none ∧ moveEmpty (moveRaw 0 0) = true ∧ vmFlag (moveRaw 0 0) 4 = false ∧ signalPlace cl7 3 = some (0, 35)) ∧
    (moveChecks 0 cl7 (setFld (moveRaw 64 0) 0x6E 2 0) 0 0).2 ≠ none ∧
    moverRun (runMach mrun).dev (moverKey (.frame 0 0)) = some mrun ∧ mrun.quiet = true ∧ vmFlag mrun.raw 4 = false ∧ vmFlag (moveRaw 64 16) 4 = true ∧
    clauseOf (runMach mrun).dev 7 = some cl7 := by decide +kernel

theorem witness_MoverRequestsStartAndComplete_queues : ∀ k, frameOf k = 0 → (cellAt (moverMach (moveRaw 64 0) 0).dev k).conj.mreqs = [] :=
  fun k _ => moverMach_calm _ _ k

/-- A durable region of clause 7 from address 0, its second copy behind it. -/
def durable : Durable := { index := 0, len := 0x10000, copy0 := 0, copy1 := 0x10000, g0 := 0 }
/-- A machine with an epoch under way and that region. -/
def epochMach (r : MoverRun) (k : Epoch) : State :=
  { mach [] with dev := { dev [] with movers := { run := [(0, some r)] }, epoch := k, plan := { clauses := [{ cl7 with durable := [durable] }] } } }

/-- The message that a mover awaits or is asked for, and the agent that it has come to. -/
def heard (d : Dev) (id : MoverId) (at_ : Flit → Bool) (p : Body → Bool) : Option (List Body × Src) := (takeMem d id at_ p).map fun x => (x.1, x.2.1)

/-- A read and a write on the mover's own wires, and a read that has come over the mesh to the mover of another frame. -/
theorem witness_MemoryControllersServeMovers_requests :
    let id : MoverId := .frame 0 0
    let src := moverSrc id
    let w : List Body := [.memWrite 4 2 0 64 3, .memLine (mail 9)]
    let far := Config.hbmWindow
    let local_ : Dev := { dev [] with movers := { run := [(0, some mrun)], wires := [(id, [.memRead 3 2 0 64]), (id, w)] } }
    let mesh := (come src (.frameMover 1 0) [.memRead 3 2 0 far] (runMach mrun)).dev
    moverRun local_ (moverKey id) = some mrun ∧ rankGoes local_ id 3 = true ∧ rankGoes local_ id 4 = true ∧ readsCommitted local_ id 3 = false ∧ delivOn local_ id = none ∧
    heard local_ id (fun f => decide (f.src = src)) (isMemRead 3) = some ([.memRead 3 2 0 64], src) ∧ memAgent local_ id 64 = src ∧
    heard local_ id (fun f => decide (f.src = src)) (isMemWrite 4) = some (w, src) ∧ olderWrite local_ id 4 64 = false ∧
    heard mesh id (fun f => decide (f.src = src)) (isMemRead 3) = some ([.memRead 3 2 0 far], .frameMover 1 0) ∧ memAgent mesh id far = .frameMover 1 0 := by
  decide +kernel

/-- A line clean and poisoned; a write outside and inside a durable region; a copy in progress; a page on its way to its spare. -/
theorem witness_MemoryControllersServeMovers :
    (let d := (runMach mrun).dev
     memOn d (readPlace d 64) = true ∧ memOn d (writePlace d 64) = true ∧
       pageCopying d (readPlace d 64) = false ∧ pageCopying d (writePlace d 64) = false ∧ memKey d (readPlace d 64) ∉ d.tiers.poison ∧ d.epoch.enable = false ∧
       (let e := { d with tiers := { d.tiers with poison := [64] } }
        memKey e (readPlace e 64) ∈ e.tiers.poison ∧ pageCopying e (readPlace e 64) = false)) ∧
    (let d := (epochMach mrun { enable := true }).dev
     durableAt d 64 = some ({ cl7 with durable := [durable] }, durable) ∧ memOn d (readPlace d 64) = true ∧ memOn d (writePlace d 64) = true ∧ d.epoch.cows = [] ∧ ledgerW d (granuleAt durable 64) = false ∧
       runCovers mrun.raw (durable.copy0 + (granuleAt durable 64 - durable.g0) * Config.granuleBytes) = false) ∧
    (let k : Cow := { granule := 0, whole := none, waiting := [] }
     let d := (epochMach mrun { enable := true, cows := [k] }).dev
     let page (x i : Nat) : Nat := memKey d (x + 4096 * i) / 4096
     d.epoch.cows.find? (fun c => c.granule == 0) = some k ∧ granulePlace d 0 = some (durable, 0) ∧ copyPlace durable (ledgerC d 0) 0 = 0 ∧
       copyPlace durable (!ledgerC d 0) 0 = 65536 ∧
       (∀ i < Config.granuleBytes / 4096, ∀ j < Config.granuleBytes / 4096, page 65536 i ≠ page 0 j ∧ (page 65536 i = page 65536 j → i = j))) ∧
    (let d : Dev := { dev [] with tiers := { copying := [(11, 5)] } }
     (11, 5) ∈ d.tiers.copying ∧ d.tiers.waiting = [] ∧ State.reset.otp.retired = [] ∧ d.health.extra = [] ∧ NMap.get 0 d.tiers.sparesUsed 11 < 262144) := by
  decide +kernel

theorem witness_MoverRepliesAdvanceTheRequest :
    let id : MoverId := .frame 0 0
    let to_ (f : Flit) : Bool := decide (f.dst = moverSrc id)
    let s (r : MoverRun) : Dev := { (runMach r).dev with movers := { (runMach r).dev.movers with wires := [(id, [.memData 1 (mail 9)]), (id, [.memAck 2]), (id, [.memRefused 3])] } }
    (∀ r ∈ [{ mrun with readsOut := [(0, 0), (1, 64)] }, { mrun with readsOut := [(1, 64)], writes := [{ addr := 4096, lo := 0, n := 64, t := 0 }] },
        { mrun with writesOut := [(2, 64), (3, 128)] }],
      moverRun (s r) (moverKey id) = some r ∧ r.stopped = false ∧ r.done = false ∧ r.reads = [] ∧ moverGoes (s r) r = true ∧
      heard (s r) id to_ (fun b => decide (b = .memData 1 (mail 9))) = some ([.memData 1 (mail 9)], moverSrc id) ∧
      heard (s r) id to_ (fun b => decide (b = .memAck 2)) = some ([.memAck 2], moverSrc id) ∧
      heard (s r) id to_ (fun b => decide (b = .memRefused 3)) = some ([.memRefused 3], moverSrc id)) ∧
    vmQdst mrun.raw = false ∧ placeOf 0 4096 = .hbm ∧ ({ mrun with writesOut := [(2, 64)] } : MoverRun).quiet = false ∧
    (let r := { mrun with readsOut := [(0, 0), (1, windowAddr nn 64)] }
     r.readsOut.length = 2 ∧ (come (.cell nn) (moverSrc id) [.nounData nn .n 64 false (mail 9)] (runMach r)).arrives (.cell nn) (moverSrc id) [.nounData nn .n 64 false (mail 9)] ∧
     ({ mrun with writesOut := [(0, windowAddr nn 64)] } : MoverRun).writesOut.any (fun q => q.2 == windowAddr nn 64) = true ∧
       (come (.cell nn) (moverSrc id) [.nounAck nn .n 64 false] (runMach { mrun with writesOut := [(0, windowAddr nn 64)] })).arrives (.cell nn) (moverSrc id) [.nounAck nn .n 64 false]) := by
  unfold State.arrives; decide +kernel

/-- A flit on its way east, and one that a blocked output sends south; a flit that waits to enter; tables that wait. -/
theorem witness_RoutersForwardFlits :
    let f : Flit := { src := .cell cj, dst := .cell ad, body := .summary [], my := 1, mx := 4, dmy := 1, dmx := 6, inj := true }
    let e : DetEntry := { blocked := true, jog := .s, jogHops := 1, pass := 1 }
    let m : Mesh := { flits := [f], next := some ([], []) }
    let b : Mesh := { m with detour := [((1 * 72 + 4) * 4 + dirCode .e, e)] }
    let d : Dev := { dev [] with mesh := m, power := { boot := .ready, domains := [(halfDomain (physAt 1 5), .on)] } }
    m.flits[0]? = some f ∧ m.drain = false ∧ f.det = none ∧ f.mx < f.dmx ∧ (f.my, f.mx) ≠ (f.dmy, f.dmx) ∧ (detourAt m.detour 1 4 .e).blocked = false ∧
    bufferHead m.flits f = true ∧ granted m f .e = true ∧ routerOn d (physAt 1 5) = true ∧ routerOn d (physAt 2 4) = true ∧ routerOn d (physAt 1 4) = true ∧
    bufferRoom m.flits 1 5 3 0 = true ∧ bufferRoom m.flits 2 4 0 1 = true ∧ bufferRoom m.flits 1 4 4 0 = true ∧
    detourAt b.detour 1 4 .e = e ∧ granted b f .s = true ∧ linkAt 1 4 .s = true ∧ (detourAt b.detour 1 4 .s).blocked = false ∧
    m.next = some ([], []) ∧ (dev []).beat.cyc = 0 := by decide +kernel

/-! ### Witnesses: the beat, fabric ports, host ports -/

/-- A measurement with nothing amiss. -/
def cool : Measure := { power1024 := 0, power256 := 0, power16 := 5000, temps := List.replicate 6 0 }

theorem witness_BeatEdgeAdvancesTheCount :
    booted (mach []).dev = true ∧ (mach []).dev.power.limit < cool.power16 ∧ booted State.reset.dev = false := by decide

/-- A booted device with this beat unit, straps and fabric ports. -/
def beatMach (b : BeatUnit) (master : Bool) (fab : List FabPort) : State :=
  { mach [] with dev := { dev [] with beat := b, power := { boot := .ready, straps := { master := master, hostport := false, id := 0 } }
                                      ports := { fab := fab, hosts := [{ enable := true, link := 1 }, {}] } } }
/-- Six ports that are UP in mode 0. -/
def fabs : List FabPort := List.replicate 6 { st := .up, enable := true, peerCaps := 1, peerPort := 1 }
/-- BEAT_IN with no code under way, with one, locked, and lost; PTP with a Sync that waits and a delay request; beat frames and echoes
at a member and at the master. -/
theorem witness_BeatSourcesFollowTheirSignals :
    (∀ b ∈ ([{ srcEn := 1 }, { srcEn := 1, biBits := some [true] }, { srcEn := 1, biLocked := true }, { srcEn := 1, biLocked := true, biMiss := 16, srcUsed := 1 },
        { srcEn := 2, ptpWait := some (3, 9, 0, 0), ptpT3 := some (3, 9), ptpLocked := true, bfLocked := true }, { srcEn := 2, ptpWait := some (3, 9, 0, 0) }] : List BeatUnit),
      booted (beatMach b false fabs).dev = true ∧ b.biCode = none ∧ (srcOn (beatMach b false fabs).dev 1 = true ∨ ptpLive (beatMach b false fabs).dev = true) ∧
      srcOn (beatMach b false fabs).dev 4 = false ∧ b.ptpGood + 1 < 16 ∧ (5 : Nat) ≠ b.ptpDomain) ∧
    (∀ l ∈ [true, false],
      let s := beatMach { srcEn := 1, biPrev := some 0, biLocked := l } false fabs
      booted s.dev = true ∧ srcOn s.dev 1 = true ∧ 8 * ((200 : Int) - 0).natAbs > s.dev.beat.period * 21 / 20) ∧
    (let s := beatMach {} true fabs
     fabUp s.dev 3 = true ∧ (fabPort s.dev 3).p2p = true ∧ 0 = (fabPort s.dev 3).rxSeq) ∧
    (∀ m ∈ [true, false],
      let s := beatMach {} m (fabs.map fun x => { x with st := .lost })
      booted s.dev = true ∧ (fabPort s.dev 2).st = .lost ∧ (fabPort s.dev 3).st = .lost ∧ s.dev.power.straps.master = m ∧ s.dev.beat.count % 1024 = 0) ∧
    (let s := beatMach { echoT1 := some 5 } false fabs
     fabUp s.dev 3 = true ∧ (fabPort s.dev 3).p2p = true ∧ 0 = (fabPort s.dev 3).rxSeq ∧ s.dev.power.straps.master = false ∧ srcOn s.dev 4 = false ∧
       s.dev.beat.count % 1024 = 0 ∧ s.dev.beat.echoT1 = some 5) ∧
    (let s := beatMach {} true fabs
     fabUp s.dev 2 = true ∧ s.dev.power.straps.master = true ∧ s.dev.beat.count % 16 = 0) := by decide

/-- A code of 96 symbols whose last bit is 0. -/
theorem witness_BeatSourcesFollowTheirSignals_code : ∃ bs : List Bool, bs.length = 95 ∧ markCode 1000 (false :: bs).reverse = some 0 := by
  let head : List Bool := List.replicate 64 false ++ [false, false, false, false, false, false, true, true, true, true, true, false, true, false, false, false]
  refine ⟨(head ++ (List.range 15).map fun i => (crc16 head).testBit (15 - i)).reverse, by decide +kernel, by decide +kernel⟩

/-- A port UP point to point with frames unacknowledged and with none, one UP through a switch, one in training. -/
theorem witness_LinkControlKeepsTheLink :
    let f : FFrame := { ty := 1, h := { srcId := 0, pos := 1, route := 0, lseq := 5, result := 0, tag := 0, target := 0 }, pay := [] }
    let x : FabPort := { st := .up, peerCaps := 1, peerPort := 1, peerId := 8, replay := [f], resent := [8] }
    let lc : LinkCtrl := { ackSeq := 4, lane := 0, cred0 := 0, cred1 := 0, fabricId := 9, port := 1, caps := 1, mode := 0, spareLseq := 0 }
    (let s := beatMach {} false [x]
     fabUp s.dev 0 = true ∧ (fabPort s.dev 0).mode < 2 ∧ (fabPort s.dev 0).waiting = [] ∧ (fabPort s.dev 0).replay ≠ [] ∧
       (x.replay.filter fun f => decide (0x8000 ≤ (lc.ackSeq + 0x10000 - f.h.lseq) % 0x10000)) ≠ [] ∧ (∃ n ∈ x.resent, 8 ≤ n) ∧ lc.fabricId ≠ x.peerId ∧
       { lc with fabricId := 8 }.fabricId = x.peerId ∧ lc.port = x.peerPort ∧ x.peerMode < 2 ∧ lc.lane < 8 ∧
       s.dev.ctl.state ≠ .inert ∧ x.peerCaps % 2 = 1 ∧ x.spared = none ∧ s.otp.retired.length < 32768) ∧
    (fabPort (beatMach {} false [{ x with replay := [], spared := some 8 }]).dev 0).spared = some 8 ∧
    (∀ l ∈ [none, some 9], (fabPort (beatMach {} false [{ st := .training, lanesOut := l }]).dev 0).st = .training ∧
      (fabPort (beatMach {} false [{ st := .training, lanesOut := l }]).dev 0).lanesOut = l) ∧ lc.port = 0 ^^^ 1 ∧ { lc with port := 2 }.port ≠ 0 ^^^ 1 ∧
    (let s := beatMach {} false [{ st := .up, mode := 2, spared := some 3 }]
     fabUp s.dev 0 = true ∧ ¬(fabPort s.dev 0).mode < 2 ∧ (fabPort s.dev 0).pause4 = false ∧ (fabPort s.dev 0).waiting = []) := by decide

/-- A header of a frame whose route ends here after one hop out of port 1. -/
def hdr (target : Nat) : FabHdr := { srcId := 5, pos := 1, route := routeOf [(1, 1)], lseq := 0, result := 0, tag := 4, target := target }
/-- A machine with its ports up, a word that admits remote raises, and a grant of the first 4 KiB. -/
def fabMach (r : MoverRun) (grant : List Byte) : State :=
  { mach [] with dev := { dev [] with ports := { fab := fabs, grants := [(0, grant)] }, movers := { run := [(0, some r)] }
                                      sig := { words := [(35, { word5 with remote := true })] } } }
/-- That grant. -/
def grant4k : List Byte := beBytes 8 0 ++ beBytes 8 4096 ++ [3]

/-- A header that is under way: it leaves by port `e`. -/
def passing (e : Nat) : FabHdr := { hdr 0 with route := routeOf [(e, 2)] }
/-- A delivery on mover `k` of die 0 for a frame from port 0. -/
def delivered (h : FabHdr) (j : Job) (k : Option Nat) (out : List (Nat × Nat)) : Deliv := { die := 0, port := 0, h := h, job := j, mover := k, out := out }
/-- A machine with these deliveries. -/
def delivMach (l : List Deliv) (x : FabPort → FabPort) : State :=
  { mach [] with dev := { dev [] with ports := { fab := fabs.map x, grants := [(0, grant4k)], deliv := l, passEn := 2 ^ 36 - 1 } } }

/-- A frame at the end of its route with a grant and without, with a mover that is idle and with none; a raise; frames under way to a
port of the same die and of the other one. -/
theorem witness_FabricFramesAreServed :
    (let s := fabMach mrun grant4k
     fabUp s.dev 0 = true ∧ (fabPort s.dev 0).rxSeq = (hdr 64).lseq ∧ (hdr 64).pos = routeTotal (hdr 64).route ∧ placeOf 0 64 = .hbm ∧
       s.dev.epoch.enable = false ∧ inCopy1 s.dev 64 = false ∧ (grantFor s.dev true 64 64).isSome = true ∧ (grantFor s.dev false 64 64).isSome = true ∧
       (List.range 8).all (fun k => moverIdle s.dev (.io 0 k)) = true ∧ s.dev.ports.deliv = []) ∧
    (let busy := delivMach ((List.range 8).map fun k => delivered (hdr 64) (.raise 1) (some k) []) id
     (List.range 8).all (fun k => !moverFree busy.dev (.io 0 k)) = true ∧ (grantFor busy.dev true 64 64).isSome = true) ∧
    (let one := delivMach [{ delivered (hdr 64) (.raise 1) (some 0) [] with h := { hdr 64 with srcId := 6 } }] id
     moverIdle one.dev (.io 0 1) = true ∧ moverIdle one.dev (.io 0 0) = false ∧
       ∀ y ∈ one.dev.ports.deliv, (delivered (hdr 64) (.raise 1) none []).follows y = false ∧ ¬(y.die = 0 ∧ y.mover = none)) ∧
    (let paused := (List.range 8).map fun k => (moverKey (.io 0 k), some mrun)
     let lent : State := { delivMach [] id with dev := { (delivMach [] id).dev with ctl := { state := .held }, movers := { run := paused } } }
     (List.range 8).all (fun k => !moverIdle lent.dev (.io 0 k)) = true ∧ moverFree lent.dev (.io 0 0) = true ∧ (grantFor lent.dev true 64 64).isSome = true) ∧
    (let d := (delivMach [] id).dev
     let copied : Dev := { d with plan := { clauses := [{ cl7 with durable := [{ durable with copy0 := 0x10000, copy1 := 0 }] }] } }
     inCopy1 copied 64 = true ∧ placeOf 0 64 = .hbm) ∧
    grantFor (fabMach mrun []).dev true 64 64 = none ∧ placeOf 0 (signalAddr 0 35) = .signal ∧
    (let d := (delivMach [] id).dev
     (∀ e ∈ [1, 4], (passing e).pos ≠ routeTotal (passing e).route ∧ legAt (routeLegs (passing e).route) (passing e).pos = e ∧ e < 6 ∧
       bit d.ports.passEn (6 * 0 + e) = true ∧ (fabPort d e).st = .up) ∧ portDie 1 = portDie 0 ∧ portDie 4 ≠ portDie 0 ∧
     bit (fabMach mrun []).dev.ports.passEn (6 * 1 + 1) = false ∧ (fabMach mrun []).dev.ports.passRec = none) := by decide +kernel

/-- Deliveries whose accesses are answered: a write, a read, a raise and a frame passed on; a frame that has come to the other die. -/
theorem witness_FabricFramesAreServed_deliveries :
    let v : MoverId := .io 0 2
    let to_ (f : Flit) : Bool := decide (f.dst = moverSrc v)
    let agent := readAgent (delivMach [] id).dev v 64
    (∀ j ∈ ([.write .n [(64, mail 9, 1)], .read .n [64], .pass 4 { ty := 2, h := passing 4, pay := [] }] : List Job),
      let s := delivMach [delivered (hdr 64) j (some 2) [(128, 64)]] id
      moverRun s.dev (moverKey v) = none ∧ delivOn s.dev v = some (delivered (hdr 64) j (some 2) [(128, 64)]) ∧ (fabPort s.dev 4).st = .up ∧
        (delivered (hdr 64) j (some 2) [(128, 64)]).refused = false ∧
        heard (come agent (moverSrc v) [.memAck 128] s).dev v to_ (fun b => decide (b = .memAck 128)) = some ([.memAck 128], moverSrc v) ∧
        heard (come agent (moverSrc v) [.memRefused 128] s).dev v to_ (fun b => decide (b = .memRefused 128)) = some ([.memRefused 128], moverSrc v) ∧
        heard (come agent (moverSrc v) [.memData 128 (mail 9)] s).dev v to_ (fun b => decide (b = .memData 128 (mail 9))) = some ([.memData 128 (mail 9)], moverSrc v)) ∧
    (let x : SigSent := { src := moverSrc v, f := 0, why := .deliv }
     let s := delivMach [delivered (hdr 0) (.raise 1) (some 2) []] id
     let u : State := { s with dev := { s.dev with sig := { sent := [x] } } }
     u.dev.sig.sent.find? (fun z => decide (z.src = moverSrc v) && z.f == 0) = some x ∧ delivOn u.dev v = some (delivered (hdr 0) (.raise 1) (some 2) []) ∧
       (come (.store 0) (moverSrc v) [.sigReply 0 .done 1] u).arrives (.store 0) (moverSrc v) [.sigReply 0 .done 1]) ∧
    (let w : List Body := [.memWrite 128 2 0 0 (BitVec.allOnes 64), .memLine (mail 9)]
     let s := come (moverSrc v) (.ioDie 1) w (delivMach [delivered (hdr 64) (.pass 4 { ty := 2, h := passing 4, pay := [] }) (some 2) [(128, 0)]] id)
     heard s.dev v (fun f => decide (f.src = moverSrc v)) (isMemWrite 128) = some (w, .ioDie 1) ∧ olderWrite s.dev v 128 0 = false) := by
  unfold State.arrives; decide +kernel

/-- Answers to a mover's read, write and raise, and a request without an answer; frames without a meaning. -/
theorem witness_FabricFramesAreServed_answers :
    (∀ y ∈ ([{ tag := 4, port := 0, ty := 3, target := 64, addr := 64, beat := 0 }, { tag := 4, port := 0, ty := 1, target := 64, addr := 64, beat := 0 },
        { tag := 4, port := 0, ty := 2, target := 64, addr := 64, beat := 0 }] : List FabOut),
      let r : MoverRun := { mrun with fab := [y], readsOut := [(7, 64), (8, 128)] }
      moverOfTag (fabMach r []).dev 4 = some (0, y) ∧ moverRun (fabMach r []).dev 0 = some r ∧ r.stopped = false ∧ r.done = false ∧ r.reads = [] ∧ r.writes = [] ∧
        r.readsOut.find? (fun q => q.2 == y.addr) = some (7, y.addr) ∧ 2 ≤ r.readsOut.length ∧
        y.beat + (fabMach r []).dev.ports.ackTimeout ≤ (atBeat 64 (fabMach r [])).dev.beat.count ∧ booted (fabMach r []).dev = true) ∧
    (∀ b ∈ ([beBytes 2 0x0201, beBytes 2 0x0100, beBytes 2 0x010C] : List (List Byte)),
      let h := b ++ List.replicate 30 0
      (fldBE h 0 1 ≠ 1 ∨ fldBE h 1 1 = 0 ∨ 11 < fldBE h 1 1) ∧ fldBE h 0x0C 2 = (fabPort (fabMach mrun []).dev 0).rxSeq) := by decide +kernel

/-- A host port with every kind of address in use, and one that waits for its IPv4 address; packets that a port drops. -/
theorem witness_HostPortsAnswerTheNetwork :
    let h : HostPort := { enable := true, link := 1, use4 := true, use6 := true, useLl := true, ipv4 := defaultIpv4 0 0, ipv6 := defaultIpv6 0 0 }
    (∀ x ∈ [h, { h with use4 := false }],
      let s : State := { mach [] with dev := { dev [] with ports := { hosts := [x, {}] } } }
      hostLive s.dev 0 = true ∧ (hostPort s.dev 0).use4 = x.use4 ∧ (hostPort s.dev 0).ipv4.length = 4 ∧ (hostPort s.dev 0).use6 = true ∧
        (hostPort s.dev 0).ipv6.length = 16 ∧ (hostPort s.dev 0).useLl = true ∧ s.dev.power.boot ≠ .down ∧ hostPowered s.dev 0 = true ∧ booted s.dev = true ∧
        s.dev.ports.mcast.all (· == 0) = true ∧ (hostPort s.dev 0).vlan = 0 ∧ (3 : Nat) ≠ s.dev.ports.belufUdp ∧ (3 : Nat) ≠ s.dev.ports.bulkUdp) ∧
    (some 5 : Option Nat) ≠ none ∧ 9216 < 9217 ∧ booted State.reset.dev = false := by decide

/-! ### Witnesses: the schedule, switches, epochs -/

/-- A machine whose entry 1 is due at beat 5 with this action and these arguments, with sentence 2. -/
def schedMach (act a0 a1 : Nat) (cs : List (LCell × Cell)) : State :=
  atBeat 5 { mach cs with dev := { dev cs with
    plan := { clauses := [cl7], sentences := [{ id := 2, p := 10, repeats := 0, steps := [] }], sched := [(1, { beat := 5, action := act, valid := true, arg0 := a0, arg1 := a1 })] } } }
/-- The cell with queue 5 OPEN and an entry in it. -/
def openCell : Cell := queueCell 4 { st := .open, entries := [ent] }

/-- Each action with an argument that names what exists and, where it may be, with one that does not. -/
theorem witness_ScheduleEntriesAct :
    (∀ p ∈ ([(1, 7), (1, 7 * 2 ^ 16), (1, 8), (2, 0xFFFF), (2, 7), (3, 2), (3, 2 + 2 ^ 16), (3, 3), (4, 7), (4, 8), (5, 7), (5, 8), (6, 7), (6, 7 + 16 * 2 ^ 16), (6, 8),
        (7, 2 ^ 32 + 0xFFFF * 2 ^ 16), (9, 0), (0xA, 3)] : List (Nat × Nat)),
      let s := schedMach p.1 p.2 32 [(ad, openCell)]
      booted s.dev = true ∧ s.dev.ctl.state = .running ∧ entryTurn s.dev 1 = true ∧ (schedEntry s.dev 1).action = p.1) ∧
    (let d := (schedMach 1 7 0 [(ad, openCell)]).dev
     clauseOf d 7 = some cl7 ∧ clauseOf d 8 = none ∧ (sentenceOf d 2).isSome = true ∧ sentenceOf d 3 = none ∧ ad ∈ cl7.cells ∧ (activeSlot (cellAt d ad)).isSome = true ∧
       activeId (cellAt d ad) = 7 ∧ qUsed (activeData (cellAt d ad)) 5 = true ∧ qComb (activeData (cellAt d ad)) 5 = false ∧ (queueOf (cellAt d ad) 5).entries ≠ [] ∧
       runAt cl7.runs 0 = some (0, 32) ∧ 0 < cl7.signals ∧ cl7.signals ≤ 16) := by decide +kernel

/-- A switch that nothing holds back, one held back by its incoming clause, which is not RESIDENT, and a unit for a slice. -/
theorem witness_ScheduleEntriesAct_switches :
    holdsBack (schedMach 1 7 0 []).dev { outs := [7], ins := [], src := .entry 1, beat := 5, first := 5, grace := 0, stage := .go } = none ∧
    holdsBack (schedMach 1 (7 * 2 ^ 16) 0 []).dev { outs := [], ins := [7], src := .entry 1, beat := 5, first := 5, grace := 0, stage := .go } = some 7 ∧
    (unitFor [] (schedMach 7 0 0 []).dev 0 0 0xFFFF).isSome = true ∧ (schedMach 7 0 0 []).dev.health.jigs[0]? = some ({} : Jig) := by decide +kernel

/-- A machine at beat 5 with this clause, sentence and switch. -/
def planMach (cl : Clause) (q : Sentence) (w : List Switch) (cs : List (LCell × Cell)) : State :=
  atBeat 5 { mach cs with dev := { dev cs with plan := { clauses := [cl], sentences := [q], switches := w } } }
/-- A sentence whose step of this kind is due. -/
def sent (kind inId : Nat) : Sentence :=
  { id := 2, p := 10, repeats := 0, steps := [{ offset := 0, kind := kind, grace := 0, outId := 0, inId := inId, outId2 := 0, inId2 := 0 }], running := true, start := 5 }
/-- A switch at this stage, for this beat. -/
def switch (outs ins : List Nat) (b : Nat) (g : SwStage) : Switch := { outs := outs, ins := ins, src := .step 2 0, beat := b, first := b, grace := 1, stage := g }

theorem witness_SentencesAndSwitchesProceed :
    (let s := planMach cl7 (sent 0 7) [] []
     booted s.dev = true ∧ s.dev.ctl.state = .running ∧ sentenceOf s.dev 2 = some (sent 0 7) ∧ (stepDue s.dev (sent 0 7)).isSome = true ∧ stepTurn s.dev 2 = true ∧
       clauseOf s.dev 7 = some cl7 ∧ clauseActive s.dev cl7 = false) ∧
    (let s := planMach cl7 (sent 1 7) [] []
     (stepDue s.dev (sent 1 7)).isSome = true ∧ stepTurn s.dev 2 = true ∧ holdsBack s.dev { outs := [], ins := [7], src := .step 2 0, beat := 5, first := 5, grace := 0, stage := .go } = some 7) ∧
    clauseOf (planMach { cl7 with filling := true } (sent 0 7) [] []).dev 7 = some { cl7 with filling := true } ∧
    (∀ w ∈ [switch [7] [] 5 .go, switch [] [7] 4 .closed, switch [] [7] 3 .active, switch [] [7] 4 .late, switch [] [7] 5 .late],
      switchAt (planMach cl7 (sent 0 7) [w] []).dev 0 = some w ∧ inRun (planMach cl7 (sent 0 7) [w] []).dev = true) ∧
    (∀ c ∈ cl7.cells, activeSlot (cellAt (planMach cl7 (sent 0 7) [] []).dev c) = none) ∧
    busyCell (planMach cl7 (sent 0 7) [] [(ad, openCell)]).dev cl7 = some ad ∧
    (let s := atBeat 6 (planMach cl7 (sent 0 7) [{ switch [] [7] 6 .late with first := 5 }] [])
     switchAt s.dev 0 = some { switch [] [7] 6 .late with first := 5 } ∧ holdsBack s.dev { switch [] [7] 6 .late with first := 5 } = some 7) ∧
    slotOfClause (cellAt (planMach cl7 (sent 0 7) [] [(cj, active {})]).dev cj) 7 = activeSlot (cellAt (planMach cl7 (sent 0 7) [] [(cj, active {})]).dev cj) := by
  decide +kernel

/-- An epoch OPEN before its commit beat, at it with everything drained and not drained, missed with a commit asked for, and one being
abandoned. -/
theorem witness_EpochsCommitOrAreMissed :
    let at_ (b : Nat) (k : Epoch) (run : NMap (Option MoverRun)) : State := { mach [] with dev := { dev [] with
      beat := { count := b }, epoch := k, movers := { run := run }, beluf := { ops := [(0, { used := true, state := 1 })] }
      plan := { clauses := [{ cl7 with durable := [durable] }], sched := [(0, { beat := 1000, period := 1000, action := 8, valid := true })] } } }
    (let s := at_ 900 { enable := true } []
     booted s.dev = true ∧ (schedEntry s.dev 0).beat ≤ s.dev.beat.count + s.dev.epoch.window ∧ s.dev.beat.count < (schedEntry s.dev 0).beat) ∧
    (inRun (at_ 1000 { enable := true } []).dev = true ∧ commitDue (at_ 1000 { enable := true } []).dev = true ∧ drained (at_ 1000 { enable := true } []).dev = true ∧
      segmentRead (at_ 1000 { enable := true } []).dev = false) ∧
    drained (at_ 1000 { enable := true, cows := [{ granule := 0, whole := none, waiting := [] }] } []).dev = false ∧
    (let s := at_ 1001 { enable := true, state := 2, commitNow := some 0, abandoning := true } []
     drained s.dev = true ∧ segmentRead s.dev = false ∧ (opOf s.dev 0).state < 3 ∧ durableRuns s.dev = [] ∧ s.dev.epoch.cows = [] ∧ s.dev.epoch.commitNow = some 0) := by decide +kernel

/-! ### Witnesses: requests of the host -/

/-- The session of the host at 10.0.0.1. -/
def sess (z : Sels) : Session := { id := 1, udp := 5, ip := [10, 0, 0, 1], port := 0, sels := z }
/-- A request of that host to the port's IPv4 address. -/
def req (session index sub : Nat) (data : List Byte) : Req := { port := 0, mac := List.replicate 6 2, ip := [10, 0, 0, 1], udp := 5, session := session, seq := 9, index := index, sub := sub, data := data, dst := some [169, 254, 1, 1] }
/-- A device of which host port 0 is up with that address in use and that session is open, and nothing else stands. -/
def hostDev (z : Sels) : Dev :=
  { ports := { hosts := [{ enable := true, link := 1, use4 := true, ipv4 := [169, 254, 1, 1] }, {}] }, power := { boot := .ready, domains := allOn }, beluf := { sessions := [sess z] }, sec := { identity := some 0 } }
/-- A machine of that device in state `st` at beat 5, as `f` changes it. -/
def hostMach (st : DevSt) (f : Dev → Dev) : State := { dev := f { hostDev {} with ctl := { state := st }, beat := { count := 5 } } }
/-- The clause is loaded. -/
def loads (d : Dev) : Dev := { d with plan := { clauses := [cl7] } }

/-- The values of R431 and R436 that READ and WRITE meet; a session unknown, of another source, repeated; a request that waits its
turn, one that waits for it, a queue without a place, an address that is not in use. -/
theorem witness_RequestsAreServedOnce :
    (∀ p ∈ [(0x7000, 0), (0x7000, 1), (0x7001, 0), (0x1111, 0), (0x4003, 0), (0x5000, 0), (0x8001, 0)], Admitted (hostMach .inert id) (req 1 p.1 p.2 []) p.1 (sess {})) ∧
    (objHanded 0x7000 = false ∧ objRow 0x7000 1 = none ∧ (objRow 0x7000 0).isSome = true ∧ (objRow 0x1111 0).map (fun r => r.acc) = some .cmd ∧
      (objRow 0x7001 0).map (fun r => r.acc) = some .ro ∧ (objRow 0x7000 0).map (fun r => r.acc) = some .rw ∧ objSelector 0x7000 = false ∧
      objShut (hostMach .inert id).dev 0x7000 = false ∧ objShut (hostMach .inert id).dev 0x4003 = true ∧ objHanded 0x8001 = true ∧
      Admitted (hostMach .faulted id) (req 1 0x7000 0 []) 0x7000 (sess {})) ∧
    hostHears {} (hostMach .inert id).dev 0 none true = true ∧ queueRoom 8 (req 0 0 0 []) (hostMach .inert id).dev = true ∧ (hostMach .inert id).dev.beluf.zero = [] ∧
    (hostHears {} (hostMach .inert id).dev 0 (some [169, 254, 1, 1]) false = true ∧ hostHears {} (hostMach .inert id).dev 0 (some [169, 254, 1, 2]) false = false ∧
      queueRoom 1 (req 1 0 0 []) (hostMach .inert fun d => { d with beluf := { d.beluf with busy := 2000 } }).dev = false) := by
  unfold Admitted; decide +kernel

theorem witness_RequestsAreServedOnce_others :
    (let w : Handed := { op := 1, req := req 1 0x8001 0 [], sels := {} }
     ∀ q ∈ [sess {}, { sess {} with lastSeq := some 9, reply := [1] }],
       let s := hostMach .held fun d => { loads d with beluf := { d.beluf with deferred := [w], sessions := [q] } }
       s.dev.beluf.deferred[0]? = some w ∧ s.dev.sig.sent = [] ∧ sessionOf s.dev 1 = some q ∧
         (objRead s.otp { s.dev with beluf := { s.dev.beluf with deferred := [] } } {} 0x8001 0).isRight = true) ∧
    sessionOf (hostMach .inert id).dev 2 = none ∧
    (sessionOf (hostMach .inert fun d => { d with beluf := { sessions := [{ sess {} with lastSeq := some 9, reply := [1] }] } }).dev 1).isSome = true ∧
    (AdmittedZero (hostMach .inert id) (req 0 0x7000 0 []) 0x7000 ∧ zeroMay 1 0x7000 0 = false) ∧
    (let raw (op n : Nat) : List Byte := [1, BitVec.ofNat 8 op, 0, 9, 0, 1, 0x70, 0, 0, 0, 0, BitVec.ofNat 8 n, 1, 0, 0, 0]
     ∀ op ∈ [1, 2], fldBE (raw op 0) 0 1 = 1 ∧ fldBE (raw op 0) 1 1 = op ∧ fldBE (raw op 0) 0x0A 2 = (raw op 0).length - 16 ∧ (raw op 0).length ≤ 8208 ∧
       fldBE (raw op 1) 0x0A 2 ≠ (raw op 1).length - 16 ∧ foreign (req 1 0x7000 0 []) (hostMach .inert id).dev = false ∧
       queueRoom op (req 1 0x7000 0 []) (hostMach .inert id).dev = true ∧ repeated op (req 1 0x7000 0 []) (hostMach .inert id).dev = none) := by
  unfold AdmittedZero; decide +kernel

/-- A request for a memory stream of kind `k` over `n` bytes from 4096 on. -/
def bulkReq (k n : Nat) : List Byte := beBytes 1 k ++ [0, 0, 0] ++ beBytes 2 7 ++ [0, 0] ++ beBytes 8 4096 ++ beBytes 8 n ++ beBytes 4 1000 ++ [0, 0, 0, 0]
/-- A stream of that kind, of 64 bytes. -/
def stream (k next : Nat) (got : NMap (Option Byte)) : Stream :=
  { id := 1, session := 1, op := 0, kind := k, mcast := false, clause := 7, addr := 4096, len := 64, rate := 1000, got := got, next := next }
/-- A machine with that stream and its operation. -/
def bulkMach (x : Stream) (len : Nat) : State := hostMach .running fun d =>
  { loads d with beluf := { d.beluf with streams := [{ x with len := len }], ops := [(0, { used := true, state := 1, started := true })] } }

theorem witness_BulkStreamsMoveData_opens :
    Admitted (hostMach .running loads) (req 1 0 0 (bulkReq 2 64)) 0 (sess {}) ∧
    ((bulkReq 2 64).length = 32 ∧ fldBE (bulkReq 2 64) 0 1 = 2 ∧ fldBE (bulkReq 2 64) 0x10 8 = 64 ∧ bit (fldBE (bulkReq 2 64) 1 1) 0 = false ∧
      streamOf (hostMach .running loads).dev (freeStream (hostMach .running loads).dev) = none ∧
      memStreamErr 2 7 4096 64 1000 (hostMach .running loads).dev = none ∧ memStreamErr 2 8 4096 64 1000 (hostMach .running loads).dev = some 4 ∧
      opSlot (hostMach .running loads).dev = some 0) ∧
    opSlot (hostMach .running fun d => { loads d with beluf := { d.beluf with ops := (List.range 64).map fun k => (k, { used := true }) } }).dev = none := by
  unfold Admitted; decide +kernel

/-- A memory write stream that runs, has not started, and whose close waits; a read stream with its lines, at its last frame and
before, with none and with one refused. -/
theorem witness_BulkStreamsMoveData :
    (let s := bulkMach (stream 2 0 []) 64
     let data : List Byte := List.replicate 72 0
     let job : Deliv := hostDeliv 0 0 (.hostWrite 0 [(4096, data.drop 8, BitVec.allOnes 64)])
     hostLive s.dev 0 = true ∧ streamOf s.dev 1 = some (stream 2 0 []) ∧ streamOf s.dev 2 = none ∧ sessionOf s.dev 1 = some (sess {}) ∧ (opOf s.dev 0).state = 1 ∧
       data.length = 72 ∧ fldBE data 0 8 % 2 ^ 40 + 64 ≤ 64 ∧ (4096 + fldBE data 0 8 % 2 ^ 40) % 64 = 0 ∧ moverIdle s.dev (.io 0 0) = true ∧ liveDelivs s.dev = [] ∧
       moverFree { s.dev with ports := { s.dev.ports with deliv := (List.range 8).map fun i => { job with mover := some i } } } (.io 0 7) = false ∧
       Admitted s (req 1 0 0 (beBytes 2 1)) 0 (sess {}) ∧ hostBusy s.dev (opHandle s.dev 0) = false ∧ firstMissing (stream 2 0 []).got 0 64 = some 0 ∧
       firstMissing (putBytes [] 0 (List.replicate 64 0)) 0 64 = none ∧
       hostBusy { s.dev with ports := { s.dev.ports with deliv := [job] } } (opHandle s.dev 0) = true) ∧
    (∀ p ∈ [64, 16384], ∀ k ∈ [3, 4],
      let x : Stream := { stream k 0 [] with len := p, lines := (List.range 128).map fun i => (64 + i, some (List.replicate 64 0)) }
      let s := bulkMach x p
      streamOf s.dev 1 = some x ∧ (opOf s.dev 0).state = 1 ∧ hostBusy s.dev (opHandle s.dev 0) = false ∧ liveDelivs s.dev = [] ∧
        (spanOfLines 4096 (min (if k = 4 then 8176 else 8184) p)).all (fun l => decide (NMap.get none x.lines (l / 64) ≠ none)) = true) ∧
    streamOf (bulkMach { stream 3 0 [] with lost := true } 64).dev 1 = some { stream 3 0 [] with lost := true } := by
  unfold Admitted; decide +kernel

/-- A mover's delivery for a stream, with its one answer on the mover's wires. -/
def carryMach (k : Nat) (j : Job) (b : Body) : State :=
  let s := bulkMach (stream k 0 []) 64
  { s with dev := { s.dev with
      ports := { s.dev.ports with deliv := [{ hostDeliv 0 0 j with mover := some 2, out := [(128, 4096)] }] }
      movers := { wires := [(.io 0 2, [b])] } } }

theorem witness_BulkStreamsMoveData_answers :
    let v : MoverId := .io 0 2
    let to_ (f : Flit) : Bool := decide (f.dst = moverSrc v)
    let line : List Byte := List.replicate 64 3
    let w : Job := .hostWrite 0 [(4096, line, BitVec.allOnes 64)]
    (∀ p ∈ [(2, w, Body.memAck 128), (2, w, .memRefused 128), (3, .hostRead 0 false [4096], .memData 128 line), (4, .hostRead 0 true [4096], .memRefused 128)],
      let s := carryMach p.1 p.2.1 p.2.2
      moverRun s.dev (moverKey v) = none ∧ delivOn s.dev v = s.dev.ports.deliv.head? ∧ streamBy s.dev (opHandle s.dev 0) = some (stream p.1 0 []) ∧
        (∀ z ∈ liveDelivs s.dev, ¬(z.die = 0 ∧ z.mover = none)) ∧ heard s.dev v to_ (fun c => decide (c = p.2.2)) = some ([p.2.2], moverSrc v) ∧
        NMap.wf (none : Option (List Byte)) [] = true) ∧
    (carryMach 4 (.hostRead 0 true [4096]) (.memAck 0)).dev.ports.deliv.any (fun x => match x.job with
      | .hostRead _ c _ => c
      | _ => false) = true ∧
    segmentRead (carryMach 4 (.hostRead 0 true [4096]) (.memAck 0)).dev = true := by
  decide +kernel

/-- BULK_DATA sends its line by mover 0 of its port's die; the acknowledgement marks its 64 bytes as held. -/
theorem test_bulk_line_is_written_and_held :
    (match exec (.bulkData 0 [10, 0, 0, 1] 5 1 0 (List.replicate 8 0 ++ List.replicate 64 3)) (bulkMach (stream 2 0 []) 64) with
     | .next t => decide (t.dev.ports.deliv.map (fun x => (x.die, x.mover, x.out)) = [(0, some 0, [(128, 4096)])])
     | _ => false) = true ∧
    (match exec (.moverWriteAck (.io 0 2) 128) (carryMach 2 (.hostWrite 0 [(4096, List.replicate 64 3, BitVec.allOnes 64)]) (.memAck 128)) with
     | .next t => t.dev.ports.deliv.isEmpty && decide ((streamOf t.dev 1).map (fun x => firstMissing x.got 0 64) = some none)
     | _ => false) = true := by decide +kernel

/-- A machine under LOAD with these images on their way, and these streams. -/
def imageMach (c : Config) (xs : List Stream) : State :=
  hostMach .loading fun d => { d with config := c, beluf := { d.beluf with streams := xs, ops := [(0, { used := true, state := 1, started := true })] } }
/-- An image that has just begun to come in an image stream. -/
def begun : Loading := { source := 2, op := 0 }
/-- A reload that waits for its partial image. -/
def partialReload : Reload := { op := some 0, clause := 7, mode := 1, rect := (0, 0, 1, 1), at_ := 5 }

/-- Image streams and reload streams to open, and ones that may not be. -/
theorem witness_BulkStreamsMoveData_imageOpens :
    (∀ c ∈ [({} : Config), { loading := some begun }, { reloads := [partialReload] }], ∀ xs ∈ [[], [stream 0 0 []]],
      let s := imageMach c xs
      (∀ k ∈ [0, 1, 5], Admitted s (req 1 0 0 (bulkReq k 64)) 0 (sess {})) ∧ streamOf s.dev (freeStream s.dev) = none) ∧
    (∀ k ∈ [0, 1], (bulkReq k 64).length = 32 ∧ fldBE (bulkReq k 64) 0 1 = k ∧ fldBE (bulkReq k 64) 0x10 8 = 64 ∧ bit (fldBE (bulkReq k 64) 1 1) 0 = false) ∧
    loadingNow (imageMach {} []).dev = none ∧ loadingNow (imageMach { loading := some begun } []).dev = some begun ∧ (opOf (imageMach {} []).dev 0).state = 1 := by
  unfold Admitted; decide +kernel

/-- The first bytes of an image and of a partial image, and an image stream that is whole. -/
theorem witness_BulkStreamsMoveData_images :
    (let data : List Byte := List.replicate 9 0
     let l := begun
     let s := imageMach { loading := some l, reloads := [{ partialReload with img := some l }] } [stream 0 0 [], { stream 1 0 [] with id := 2 }]
     hostLive s.dev 0 = true ∧ streamOf s.dev 1 = some (stream 0 0 []) ∧ streamOf s.dev 2 = some { stream 1 0 [] with id := 2 } ∧
       sessionOf s.dev 1 = some (sess {}) ∧ loadingNow s.dev = some l ∧ l.fail = none ∧ l.hdr = false ∧ l.kept = none ∧
       (data.drop 8).take (64 - fldBE data 0 8 % 2 ^ 40) ≠ [] ∧ (firstGap (putBytes l.bytes 0 [0]) 0 0x100).isSome = true) ∧
    (let y : Stream := stream 0 0 (putBytes [] 0 (List.replicate 64 0))
     let s := imageMach { loading := some begun } [y]
     Admitted s (req 1 0 0 (beBytes 2 1)) 0 (sess {}) ∧ streamOf s.dev 1 = some y ∧ firstMissing y.got 0 64 = none ∧ hostBusy s.dev (opHandle s.dev 0) = false) := by
  unfold Admitted; decide +kernel

/-- An image with one empty segment for every device of the model, all of it arrived. -/
def image : Loading :=
  let h := rec_ 0x100 [(0, 4, 0x4C525645), (4, 2, 2), (6, 1, 1), (8, 2, 0x4896), (0xA, 1, 1), (0xB, 1, 1), (0x20, 8, 0x180), (0x28, 2, 1)]
  let t := rec_ 64 [(0, 8, 0x140), (8, 8, 64)]
  let seg := rec_ 64 [(8, 8, 64), (0x10, 8, 64), (0x18, 8, 64)]
  { source := 0, op := 0, bytes := putBytes [] 0 (h ++ t ++ seg), hdr := true, tab := true, seg := true, kept := some 0, ended := some none }
/-- A machine under LOAD with this image. -/
def loadMach (l : Loading) : State := hostMach .loading fun d => { d with config := { loading := some l }, beluf := { d.beluf with ops := [(0, { used := true, state := 1 })] } }

/-- LOAD with a good identity and a bad one; a first frame of a member and an end frame; an image cut short, a whole one and one that is
idle; a device under self-test, LOADED, ARMED and about to start. -/
theorem witness_ImagesLoadAndStart :
    (Admitted (hostMach .inert id) (req 1 0x1110 0 [0]) 0x1110 (sess {}) ∧ (hostMach .inert id).dev.power.fatalInert = false ∧
      (hostMach .inert id).dev.config.loading = none ∧ opSlot (hostMach .inert id).dev = some 0 ∧ (hostMach .inert id).dev.sec.identity = some 0 ∧
      NMap.wf (List.replicate 32 0) (hostMach .inert id).dev.sec.measure = true ∧
      (hostMach .inert fun d => { d with sec := { identity := some 2 } }).dev.sec.identity = some (1 + 1)) ∧
    (let l : Loading := { source := 1, op := 0, chain := some 2 }
     let d := { (loadMach l).dev with power := { boot := .ready, straps := { master := false, hostport := false, id := 1 } }, ports := { fab := fabs } }
     loadingNow d = some l ∧ fabUp d 3 = true ∧ d.power.straps.master = false ∧ (firstGap (putBytes [] 0 [1]) 0 0x100).isSome = true ∧
       loadingNow { d with config := { loading := some { l with chain := none } } } = some { l with chain := none }) ∧
    loadingNow (hostMach .loaded id).dev = none ∧
    (let l : Loading := { source := 0, op := 0, ended := some (some 5) }
     loadingNow (loadMach l).dev = some l ∧ (imageErr {} false (loadMach l).dev l).isSome = true ∧ (loadMach l).dev.config.undo = [] ∧
       ((loadMach l).dev.ports.fab.all fun x => x.replay.isEmpty && x.waiting.isEmpty) = true ∧ (opOf (loadMach l).dev 0).state < 3) := by
  unfold Admitted; decide +kernel

theorem witness_ImagesLoadAndStart_image :
    (loadingNow (loadMach image).dev = some image ∧ imageErr {} false (loadMach image).dev image = none ∧ (buildLoad image {} (loadMach image).dev).1 = none ∧
      shimsMayCome {} (loadMach image).dev = true) ∧
    (let bad : Loading := { image with bytes := putBytes image.bytes 0x140 [1] }
     loadingNow (loadMach bad).dev = some bad ∧ imageErr {} false (loadMach bad).dev bad = none ∧ (buildLoad bad {} (loadMach bad).dev).1.isSome = true) ∧
    shimsMayCome { retired := [2 ^ 60 + 2 ^ 48] } (atBeat 5 (loadMach image)).dev = true ∧
    shimsMayCome { retired := [2 ^ 60 + 2 ^ 48] } { (loadMach image).dev with beat := { cyc := 1 } } = false ∧
    (let s := atBeat (2 ^ 20) (loadMach { source := 0, op := 0 })
     (loadingNow s.dev).isSome = true ∧ 2 ^ 20 ≤ s.dev.beat.count) ∧
    (let d := { (loadMach image).dev with config := { (loadMach image).dev.config with selftest := true } }
     (let tested := bringShims {} { d with cells := NMap.mapVals {} (fun _ x => zeroCell x) d.cells }
      checkLoaded 0 (restamp tested).plan.clauses (restamp tested)).isRight = true) ∧
    Admitted (hostMach .loaded id) (req 1 0x1111 0 (beBytes 8 6)) 0x1111 (sess {}) ∧ Admitted (hostMach .armed id) (req 1 0x1104 0 []) 0x1104 (sess {}) ∧
    (let d := (hostMach .armed fun d => { d with config := { armBeat := 5, level := true, sampleBeat := 4 } }).dev
     booted d = true ∧ d.config.armBeat ≤ d.beat.count ∧ d.config.sampleBeat + 1 = d.beat.count ∧ d.plan.startPresets = []) := by
  unfold Admitted; decide +kernel

/-- A reload of the first bench of clause 7. -/
def reload_ (st : RlStage) (op : Option Nat) : Reload := { op := op, clause := 7, mode := 0, rect := (0, 0, 1, 1), at_ := 5, stage := st, live := st != .queued, p := 5, e := 5 }
/-- A contract of one bench and no signals that the reset device meets anywhere. -/
def contract1 (n : Nat) : List Byte :=
  rec_ 64 [(0, 2, 7), (2, 1, 1), (4, 1, 1), (5, 1, 1), (6, 2, 0xFFFF), (0x28, 4, 500), (0x2C, 4, 8000), (0x30, 4, n)]
/-- The first words of the cell records of that bench, by offset. -/
def cellHeads : Nat × List (Nat × Byte) :=
  (rectCells 0 0 1 1).foldl (fun r c =>
    let sec := if kindAt c.row c.col = .noun then 16 else 0
    let n := 64 + 4 * sec + 832
    (r.1 + n, r.2 ++ (rec_ 16 [(0, 1, (kindAt c.row c.col).code), (4, 4, n), (8, 4, sec)]).zipIdx.map fun b => (64 + r.1 + b.2, b.1))) (0, [])
/-- The image copy with that configuration alone. -/
def copy1 : NMap (Option Byte) :=
  (((contract1 cellHeads.1).zipIdx.map fun b => (b.2, b.1)) ++ cellHeads.2).filterMap fun p => if p.2 = 0 then none else some (p.1, some p.2)
/-- A machine with that reload at beat `b`. -/
def rlMach (x : Reload) (b : Nat) (cs : List (LCell × Cell)) : State :=
  atBeat b { mach cs with dev := { dev cs with config := { reloads := [x] }, beluf := { ops := [(0, { used := true, state := 1 })] } } }

/-- RELOAD as it is refused and as it is taken; one that begins; its slots written where they are and at a new place. -/
theorem witness_ReloadsRewriteTheirCells :
    (∀ st ∈ [DevSt.running, .held, .loaded], Admitted (hostMach st loads) (req 1 0x1112 0 (beBytes 2 7 ++ [0, 0, 0, 0, 1, 1] ++ beBytes 8 0)) 0x1112 (sess {})) ∧
    (let b : List Byte := beBytes 2 7 ++ [0, 0, 0, 0, 1, 1] ++ beBytes 8 0
     b.length = 16 ∧ clauseOf (hostMach .running loads).dev (fldBE b 0 2) = some cl7 ∧ fldBE b 2 1 = 0 ∧ 1 ≤ fldBE b 6 1 ∧ 1 ≤ fldBE b 7 1 ∧
       fldBE b 4 1 + fldBE b 6 1 ≤ cl7.benchRows ∧ fldBE b 5 1 + fldBE b 7 1 ≤ cl7.benchCols ∧ fldBE b 8 8 = 0 ∧ opSlot (hostMach .running loads).dev = some 0) := by
  unfold Admitted; decide +kernel

theorem witness_ReloadsRewriteTheirCells_begins :
    (let s := rlMach (reload_ .queued none) 5 [(cj, active {})]
     reloadMay s.dev (reload_ .queued none) = true ∧ clauseOf s.dev 7 = some cl7 ∧ midSwitch s.dev 7 = false ∧ clauseActive s.dev cl7 = true ∧
       NMap.wf [] s.dev.movers.queue = true ∧ (s.dev.cells.all fun y => y.2.conj.mreqs.isEmpty) = true) ∧
    (let s := rlMach (reload_ .queued none) 5 []
     reloadMay s.dev (reload_ .queued none) = true ∧ clauseOf s.dev 7 = some cl7 ∧ midSwitch s.dev 7 = false ∧ clauseActive s.dev cl7 = false ∧
       tablesReady (retireMap s.otp s.dev) [] s.dev = true) := by decide +kernel

theorem witness_ReloadsRewriteTheirCells_writes :
    let x : Reload := reload_ .clamped none
    let s := rlMach x 5 [(cj, { active {} with stopped := true })]
    let m : Reload := { x with mode := 2 }
    let v := rlMach m 5 [(cj, { active {} with stopped := true })]
    let fit : Clause := { cl7 with contract := contract1 cellHeads.1, runs := [], cfg := (0, 64 + cellHeads.1) }
    let y : State := { v with dev := { v.dev with plan := { clauses := [fit] }, config := { v.dev.config with copy := copy1 } } }
    (reloadMay s.dev x = true ∧ heldStopped s.dev (heldSet s.dev x) = true ∧ (heldSet s.dev x).all (fun c => !underTest s.dev (phys s.dev c)) = true ∧
      tablesReady (retireMap s.otp s.dev) (heldSet s.dev x) s.dev = true ∧ s.cellsApart (heldSet s.dev x) ∧ s.cellsApart cl7.cells) ∧
    (reloadMay y.dev m = true ∧ heldStopped y.dev (heldSet y.dev m) = true ∧ tablesReady (retireMap y.otp y.dev) (heldSet y.dev m) y.dev = true ∧
      (rePlace y.otp.ordering fit (spareWords y.dev)).isRight = true) ∧
    (rePlace v.otp.ordering cl7 (spareWords v.dev)).isRight = false ∧ reloadMay v.dev m = true := by
  unfold State.cellsApart; decide +kernel

/-- A bench of another region is retired, and the tables do not yet have it. -/
theorem witness_ReloadsRewriteTheirCells_tables :
    let x : Reload := reload_ .clamped none
    let v := rlMach x 5 [(cj, { active {} with stopped := true })]
    let s : State := { v with dev := { v.dev with health := { extra := [2 ^ 60 + 2 ^ 48 + 3 * 2 ^ 40 + 3 * 2 ^ 32] } } }
    reloadMay s.dev x = true ∧ heldStopped s.dev (heldSet s.dev x) = true ∧ s.dev.mesh.next = none ∧
      tablesReady (retireMap s.otp s.dev) (heldSet s.dev x) s.dev = false := by decide +kernel

/-- A reload that reopens, at its place and at a new one, restarts and waits too long; readback of a slot and of a table. -/
theorem witness_ReloadsRewriteTheirCells_ends :
    (let s := rlMach (reload_ .written none) 5 [(cj, active {})]
     inRun s.dev = true ∧ (heldSet s.dev (reload_ .written none)).all (fun c => (cellAt s.dev c).waiters.isEmpty && (cellAt s.dev c).noun.reqs.isEmpty) = true ∧
       s.cellsApart (heldSet s.dev (reload_ .written none))) ∧
    (let x : Reload := { reload_ .written none with mode := 2, old := some (0, 0, 0) }
     let s := rlMach x 5 [(cj, active {})]
     let hs := heldSet s.dev x
     inRun s.dev = true ∧ busyCell (hs.foldl (fun d c => closeCell { cl7 with orow := 0, ocol := 0, slot := 0 } c (resumeAll c d)) s.dev) cl7 = none ∧
       hs.length = cl7.cells.length) ∧
    (let s := rlMach (reload_ .reopened (some 0)) 6 []
     booted s.dev = true ∧ s.dev.ctl.state = .running ∧ (opOf s.dev 0).state < 3 ∧ (reload_ .reopened (some 0)).e + 1 ≤ s.dev.beat.count) ∧
    (let s := rlMach (reload_ .clamped none) 69 []
     (reload_ .clamped none).p + s.dev.config.clampTimeout ≤ s.dev.beat.count) ∧
    (let s : State := mach [(cj, active {})]
     let two : List ConfLoc := [.slot 0 0, .table 0]
     s.dev.ctl.state ≠ .inert ∧ locIn 0 (.table 0) = true ∧ slotClauses s.dev 0 0 = [7] ∧ copyReadable s.dev = true ∧ clauseOf s.dev 7 = some cl7 ∧
       s.dev.config.rewrite = [] ∧ s.dev.mesh.next = none ∧ two = .slot 0 0 :: [.table 0]) := by
  unfold State.cellsApart; decide +kernel

/-- A slot that a reload is about to write, and one whose CRC is no longer that of its fill. -/
theorem witness_ReloadsRewriteTheirCells_readback :
    (let x : Reload := { reload_ .clamped none with mode := 2 }
     let d := (rlMach x 5 [(cj, { active {} with stopped := true })]).dev
     aboutToWrite (.slot 0 0) d = true ∧ slotClauses d 0 0 = [7] ∧ x.presets = []) ∧
    (let d := (mach [(cj, active {})]).dev
     let k := sealOf d 0 0
     let b : Dev := { d with config := { seals := [(0, some (k.1, k.2 + 1))] } }
     sealBroken d 0 0 = false ∧ sealBroken b 0 0 = true ∧ aboutToWrite (.slot 0 0) b = false ∧ ∀ m < 4, m ≠ 0 → sealBroken b 0 m = false) := by
  decide +kernel

/-- HOLD and RELEASE in each state and of each name; a cell about to stop, a core that waits at SYNC; holds of the device and of the clause
that have come to rest; a NaN watch; releases whose beat has come; UNLOAD. -/
theorem witness_HoldsStopAndReleasesResume :
    (∀ p ∈ [(DevSt.running, 0x1101, beBytes 2 0xFFFF), (.running, 0x1101, beBytes 2 8), (.held, 0x1101, beBytes 2 7), (.loaded, 0x1101, beBytes 2 7),
        (.held, 0x1102, beBytes 2 0xFFFF ++ beBytes 8 6), (.held, 0x1102, beBytes 2 0xFFFF ++ beBytes 8 5), (.running, 0x1102, beBytes 2 0xFFFF ++ beBytes 8 6),
        (.loaded, 0x1103, []), (.running, 0x1103, [])], Admitted (hostMach p.1 loads) (req 1 p.2.1 0 p.2.2) p.2.1 (sess {})) ∧
    (clauseOf (mach [(cj, active {})]).dev 7 = some cl7 ∧ clauseActive (mach [(cj, active {})]).dev cl7 = true ∧ clauseOf (hostMach .running loads).dev 8 = none ∧
      opSlot (hostMach .running loads).dev = some 0 ∧ (hostMach .held loads).dev.ctl.holds = [] ∧ (hostMach .held loads).dev.cells = [] ∧
      (hostMach .loaded loads).dev.ports.fab.all (fun x => x.replay.isEmpty && x.waiting.isEmpty) = true ∧ (hostMach .loaded loads).dev.ports.deliv = []) ∧
    (let d := { dev [(cj, { active {} with conj := { st := .waiting .sync 0 0, launch := some (ad, launch 0 .vec) } })] with ctl := { state := .held } }
     booted d = true ∧ cellOk cj = true ∧ holdsAt (cellAt d cj) (phys d cj) = true ∧ (cellAt d cj).stopped = false ∧ holdDue d (phys d cj) = true ∧
       kindAt cj.row cj.col = .conj ∧ waitHolds d cj .sync = false ∧ waitHolds d cj (.signal 0 35 1 .ge false false false) = false) ∧
    (let m : MatRun := { matRun with latch := none, blocks := [blk1], acc := [0], fresh := false }
     ∀ p ∈ [([m], false), ([], true)],
       let d := { dev [(vb, { active {} with mats := p.1 })] with ctl := { state := .held } }
       holdsAt (cellAt d vb) (phys d vb) = true ∧ holdDue d (phys d vb) = true ∧ atBoundary vb d = p.2 ∧ kindAt vb.row vb.col = .verb) ∧
    (∀ c ∈ [0xFFFF, 7],
      let d := { dev [(cj, { active {} with stopped := true })] with ctl := { state := .running, holds := [{ clause := c, op := some 0, cause := 1 }] } }
      inRun d = true ∧ holdReached d c = true ∧ (opOf d 0).state < 3 ∧ clauseOf d 7 = some cl7) ∧
    (let d := { dev [(cj, active {})] with ctl := { state := .running, holds := [{ clause := 7, op := some 0, cause := 1 }] } }
     inRun d = true ∧ holdReached d 7 = false) ∧
    (let d := { dev [] with ctl := { state := .running, nanHold := [(7, 0)] }, beat := { count := 1 } }
     (d.ctl.nanHold.any fun n => decide (n.2 + 1 ≤ d.beat.count)) = true ∧ scheduleRun d = true) ∧
    (∀ p ∈ [(0xFFFF, DevSt.held), (7, .running)],
      let d := { dev [(cj, { active {} with stopped := true })] with ctl := { state := p.2, releases := [(p.1, 5)] }, beat := { count := 5 } }
      d.ctl.releases.find? (fun e => decide (e.2 ≤ d.beat.count)) = some (p.1, 5) ∧ (d.cells.all fun x => x.2.mats.isEmpty && x.2.vecs.isEmpty && x.2.stage.isNone && x.2.smm.isNone) = true ∧
        d.epoch.state ≠ 3 ∧ d.movers.run = [] ∧ d.config.reloads = [] ∧ clauseOf d 7 = some cl7) := by
  unfold Admitted; decide +kernel

/-- The key of the owner, and another. -/
def key1 : List Byte := beBytes 64 447580221196787496845656341914402282286372308503797298097168821991251302613224900086810967436017081030352049837928021851311089766833530234137421777971270
/-- Another key. -/
def key2 : List Byte := beBytes 64 871655586173451385834986969319736500300717553296728148060675997219575343691019354570326109168557438959475408957848410342516612419282675161264106136642431
/-- A nonce. -/
def nonce1 : List Byte := List.replicate 32 1
/-- A host machine with that nonce issued and this one-time memory. -/
def keyMach (st : DevSt) (o : Otp) : State := { hostMach st fun d => { d with beluf := { d.beluf with nonces := [(nonce1, 5)] } } with otp := o }
/-- SESSION_OPEN under the owner's signature. -/
def openData : List Byte := nonce1 ++ beBytes 64 4615826006471030907727001259181800741282564568669290003298213672968025526272604327886029210044909819620564371348228864655067373999602117133797103626569121

/-- A SESSION_OPEN that is signed, one for a nonce that was not issued, one with eight sessions open; operations in each state. -/
theorem witness_SessionsAndOperations :
    (AdmittedZero (keyMach .inert { ownerKey := key1 }) (req 0 0x1211 0 openData) 0x1211 ∧ AdmittedZero (hostMach .inert id) (req 0 0x1210 0 []) 0x1210 ∧
      (keyMach .inert {}).dev.beluf.deferred = []) ∧
    (openData.length = 96 ∧ openData.take 32 = nonce1 ∧ (keyMach .inert { ownerKey := key1 }).dev.beluf.sessions.length < 8 ∧ (5 : Nat) ≤ 5 + 2 ^ 20 ∧
      (key1.any fun b => b != 0) = true ∧
      ecdsaVerify key1 (nonce1 ++ padTo 16 ({} : Otp).uniqueId ++ ip16 [10, 0, 0, 1] ++ beBytes 2 5) (openData.drop 32) = true) ∧
    (keyMach .inert {}).dev.beluf.nonces[0]? = some (nonce1, 5) := by
  unfold AdmittedZero; decide +kernel

theorem witness_SessionsAndOperations_sessions :
    (∀ i ∈ [0x1210, 0x1212], Admitted (hostMach .inert id) (req 1 i 0 []) i (sess {})) ∧ (hostMach .inert id).dev.beluf.nonces = [] ∧
    (let s : State := atBeat 0x04000000 (hostMach .inert id)
     sessionOf s.dev 1 = some (sess {}) ∧ (sess {}).beat + s.dev.beluf.idle ≤ s.dev.beat.count) := by
  unfold Admitted; decide +kernel

theorem witness_SessionsAndOperations_operations :
    (∀ o ∈ ([{ used := true, state := 3, index := 0x1110 }, { used := true, state := 1, started := true }, { used := true, state := 2, started := true }] : List Op),
      let s := hostMach .running fun d => { d with beluf := { d.beluf with ops := [(3, o)], streams := [{ stream 3 0 [] with op := 3 }] } }
      let word : Nat := (o.serial % 1024 * 64 + 3) * 2 ^ 16
      Admitted s (req 1 0x1121 0 (beBytes 4 word)) 0x1121 (sess {}) ∧ beNat (beBytes 4 word) = word ∧ opOf s.dev (word / 2 ^ 16 % 2 ^ 16 % 64) = o ∧
        (∀ y ∈ s.dev.beluf.streams, 3 ≤ y.kind → (opOf s.dev y.op).state ≠ 0) ∧
        streamOfOp s.dev 3 = some { stream 3 0 [] with op := 3 } ∧ streamOf s.dev 1 = some { stream 3 0 [] with op := 3 }) := by
  unfold Admitted; decide +kernel

/-- Each command in a state that takes it and in one that does not, with its selection; a slice that ends well, badly and too late. -/
theorem witness_SmallCommandsAndSelfTest :
    (∀ p ∈ [(DevSt.running, 0x4005, beBytes 2 2 ++ beBytes 8 6), (.running, 0x4202, beBytes 8 4), (.running, 0x4201, beBytes 8 10), (.running, 0x5002, []), (.held, 0x5004, []),
        (.held, 0x8003, [1]), (.running, 0x8003, [0]), (.running, 0x3108, []), (.held, 0x3108, []), (.held, 0x3109, []), (.running, 0x6100, [0, 0, 0, 3]),
        (.running, 0x6100, [2, 0, 0, 0]), (.inert, 0x6204, beBytes 8 (8 * 2 ^ 60 + 2 ^ 48 + 3)), (.inert, 0x6204, beBytes 8 0)],
      Admitted (hostMach p.1 loads) (req 1 p.2.1 0 p.2.2) p.2.1 (sess {})) ∧
    (let d := (hostMach .running fun d => { d with plan := { clauses := [{ cl7 with id := 0 }], sentences := [sent 0 7] } }).dev
     let dead : NMap DetEntry := [attachPlace 0 false, attachPlace 0 true].foldl (fun t p =>
       NMap.set {} t ((((meshPos p).1 - 1) * 72 + (meshPos p).2) * 4 + 1) { blocked := true }) []
     sentenceOf d 2 = some (sent 0 7) ∧ storeReachable d 0 = true ∧ storeReachable { d with mesh := { detour := dead } } 0 = false ∧
       clauseOf d (sess {}).sels.clause = some { cl7 with id := 0 } ∧ selCell d {} = some 0) ∧
    (∀ why ∈ ([.host 3 (req 1 0x4202 0 []), .host 2 (req 1 0x4201 1 [])] : List SigFor),
      let x : SigSent := { src := .ioDie 0, f := 0, why := why }
      let s := hostMach .running fun d => { d with sig := { sent := [x] } }
      sessionOf s.dev 1 = some (sess {}) ∧ s.dev.sig.sent.find? (fun y => decide (y.src = .ioDie 0) && y.f == 0) = some x ∧
        ∀ r ∈ [SigRes.done, .refused, .absent], (come (.store 0) (.ioDie 0) [.sigReply 0 r 0] s).arrives (.store 0) (.ioDie 0) [.sigReply 0 r 0]) ∧
    (let x : Cell := { active {} with fence := .byCommand }
     let d := { dev [] with cells := [(0, x)] }
     (cellP d 0).fence = .byCommand ∧ (cellP d 0).slots ≠ [] ∧ underTest d 0 = false ∧ (cellP d 0).noun.reqs = []) ∧
    (opSlot (hostMach .held loads).dev = some 0 ∧ durableRuns (hostMach .held loads).dev = [] ∧ (hostMach .held loads).dev.epoch.commitNow = none ∧
      (hostMach .held fun d => { d with epoch := { state := 2 } }).dev.epoch.abandoning = false ∧ epochRuns (hostMach .held loads).dev = [] ∧ (hostMach .held loads).dev.health.jigs[0]? = some ({} : Jig)) ∧
    (let x : Slice := { kind := 0, unit_ := 3, beat := 1, r := 4, op := none }
     let d := { dev [] with beat := { count := 5 }, cells := [(3, { active {} with fence := .byJig })], health := { jigs := [{ running := some x }] } }
     booted d = true ∧ d.health.jigs[0]? = some { running := some x } ∧ (cellP d 3).slots ≠ [] ∧ x.overrun = false ∧ x.beat + x.r ≤ d.beat.count ∧
       inSlice 0 3 { part := 1, cell := 3, bank := 0, entries := [] } = true) ∧
    (retireOk 0 (8 * 2 ^ 60 + 2 ^ 48 + 3) = true ∧ retireOk 0 0 = false ∧ retiredAlready [] (8 * 2 ^ 60 + 2 ^ 48 + 3) = false ∧
      retireMap { retired := [8 * 2 ^ 60 + 2 ^ 48 + 3] } (hostMach .inert id).dev = [8 * 2 ^ 60 + 2 ^ 48 + 3] ∧ opSlot (hostMach .inert id).dev = some 0) := by
  unfold Admitted State.arrives; decide +kernel

/-- OWNER_INSTALL signed with the key that it installs. -/
def ownData : List Byte := nonce1 ++ key1 ++ beBytes 64 1744828445965088499491545389095671874954799296233257882788937768780594446701653937152202037899436957351306515492674020286069873521183439972378919400584860
/-- OWNER_REPLACE signed with both keys. -/
def replaceData : List Byte := nonce1 ++ key2 ++ beBytes 64 1744828445965088499491545389095671874954799296233257882788937768780594446701610694409187090623188757408963491176969492857113901782702332458150430541263429 ++
  beBytes 64 1744828445965088499491545389095671874954799296233257882788937768780594446701572580353680063265887996059959037041049369190307699733891400283448066429893465
/-- SIGN_KEY_INSTALL of slot 0, signed by the owner. -/
def installData : List Byte := nonce1 ++ [0] ++ key2 ++ beBytes 64 1744828445965088499491545389095671874954799296233257882788937768780594446701554353275265402469880834067978751456244402340786512723906272301279314471563407
/-- SIGN_KEY_REVOKE of slot 0, signed by the owner. -/
def revokeData : List Byte := nonce1 ++ [0] ++ beBytes 64 1744828445965088499491545389095671874954799296233257882788937768780594446701600852197438091714961835020894431728095126283742269161812032939241183860283949
/-- DEBUG_UNLOCK of slot `n`, signed by the owner. -/
def debugData (n : Byte) : List Byte := nonce1 ++ [n] ++ (if n = 1 then beBytes 64 1744828445965088499491545389095671874954799296233257882788937768780594446701593168972664707575188619557367968889482778362015915753615014961106935110166753
  else beBytes 64 1744828445965088499491545389095671874954799296233257882788937768780594446701557897860188208744385935559629249157240494377591875299696444956098414306222803)

/-- Each signed command with a good signature, in the state that takes it and in one that does not, and with no nonce issued. -/
theorem witness_SignedCommandsAndDebugAccess :
    (∀ o ∈ [({} : Otp), { ownerKey := key1 }, { ownerKey := key1, ownerSlots := 0 }, { ownerKey := key1, slots := { st := .valid, key := key2 } :: List.replicate 7 {} }],
      ∀ st ∈ [DevSt.inert, .running],
      ∀ p ∈ [(0x1208, ownData), (0x1209, replaceData), (0x1204, installData), (0x1205, revokeData), (0x120D, debugData 1), (0x120D, debugData 2), (0x120C, []), (0x120B, nonce1)],
        Admitted (keyMach st o) (req 1 p.1 0 p.2) p.1 (sess {})) ∧
    (ownData.length = 160 ∧ replaceData.length = 224 ∧ installData.length = 161 ∧ revokeData.length = 97 ∧ (debugData 1).length = 97 ∧
      (∀ d ∈ [ownData, replaceData, installData, revokeData, debugData 1, debugData 2], d.take 32 = nonce1) ∧ (keyMach .inert {}).dev.beluf.nonces = [(nonce1, 5)] ∧
      (hostMach .inert id).dev.beluf.nonces = []) ∧
    (({} : Otp).ownerKey = [] ∧ (keyMach .inert {}).dev.sec.identity = some 0 ∧ (keyMach .inert {}).dev.sec.debug = false ∧ (keyMach .inert {}).dev.power.boot ≠ .down) := by
  unfold Admitted; decide +kernel

theorem witness_SignedCommandsAndDebugAccess_zero :
    (∀ i ∈ [0x1208, 0x1204, 0x1205, 0x1209, 0x120D], AdmittedZero (keyMach .inert {}) (req 0 i 0 ownData) i) ∧ (keyMach .inert {}).dev.beluf.deferred = [] := by
  unfold AdmittedZero; decide +kernel

/-- The text that a command with tag `tag` and `n` bytes of arguments signs. -/
def signedText (tag : List Byte) (n : Nat) (b : List Byte) : List Byte := tag ++ nonce1 ++ padTo 16 ({} : Otp).uniqueId ++ slice b 32 n

theorem witness_SignedCommandsAndDebugAccess_owner :
    ecdsaVerify key1 (signedText [0x4F, 0x57, 0x4E, 0x49] 64 ownData) (slice ownData 96 64) = true ∧ slice ownData 32 64 = key1 ∧
    ecdsaVerify key1 (signedText [0x4F, 0x57, 0x4E, 0x52] 64 replaceData) (slice replaceData 96 64) = true ∧
    ecdsaVerify key2 (signedText [0x4F, 0x57, 0x4E, 0x52] 64 replaceData) (slice replaceData 160 64) = true ∧ slice replaceData 32 64 = key2 := by decide +kernel

theorem witness_SignedCommandsAndDebugAccess_slots :
    ecdsaVerify key1 (signedText [0x53, 0x4B, 0x49, 0x4E] 65 installData) (slice installData 97 64) = true ∧ fldBE installData 32 1 = 0 ∧
    ecdsaVerify key1 (signedText [0x53, 0x4B, 0x52, 0x56] 1 revokeData) (slice revokeData 33 64) = true ∧ fldBE revokeData 32 1 = 0 ∧
    (∀ n ∈ ([1, 2] : List Byte), ecdsaVerify key1 (signedText [0x44, 0x42, 0x47, 0x55] 1 (debugData n)) (slice (debugData n) 33 64) = true ∧ fldBE (debugData n) 32 1 = n.toNat) := by
  decide +kernel

/-- Each object in a state that takes it, with values that it admits and one that it does not. -/
theorem witness_ObjectWritesTakeEffect :
    (∀ st ∈ [DevSt.held, .inert, .running, .faulted], ∀ p ∈ [(0x2202, 0), (0x4010, 1), (0x4010, 0), (0x4020, 0), (0x3001, 0), (0x5000, 0), (0x2100, 5), (0x2109, 23), (0x2000, 1)],
      Admitted (hostMach st id) (req 1 p.1 p.2 []) p.1 (sess {})) ∧
    (beNat (beBytes 4 1000) = 1000 ∧ (hostMach .held id).dev.plan.clauses = [] ∧ schedArgsOk (schedOf (rec_ 32 [])) = true ∧
      (schedOf (rec_ 32 [])).valid = false ∧ clauseOf (hostMach .held fun d => { d with plan := { clauses := [{ cl7 with id := 0 }] } }).dev 0 = some { cl7 with id := 0 } ∧
      (hostMach .held id).dev.ports.fab.length = 6 ∧ (fabPort (hostMach .held id).dev 5).st = .down ∧ (fabPort (hostMach .held id).dev 5).replay = [] ∧
      (∀ l ∈ routeLegs 0xE0E0E0E0, l.1 ≤ 5 ∧ l.2 ≠ 0) ∧ routeTotal 0xE0E0E0E0 ≤ 124 ∧ ¬(∀ l ∈ routeLegs 0xC1, l.1 ≤ 5 ∧ l.2 ≠ 0) ∧ (hostMach .held id).dev.ports.hosts.length = 2) := by
  unfold Admitted; decide +kernel

/-- A device released and not judged, judged with every clock locked, and one that runs. -/
theorem witness_ResetAndPowerSequence :
    (let d := State.reset.dev
     d.power.boot = .released ∧ d.power.boot ≠ .down ∧ d.sec.identity = none ∧ retireMap State.reset.otp d = [] ∧ NMap.wf (List.replicate 32 0) d.sec.measure = true ∧
       NMap.wf DomSt.off d.power.domains = true ∧ NMap.wf false d.power.pll = true) ∧
    (let d := { State.reset.dev with sec := { identity := some 0 }, power := { State.reset.dev.power with pll := (List.range 6).map fun k => (k, true), domains := [(0, .switchingOn), (1, .switchingOff)] } }
     d.power.boot = .released ∧ d.sec.identity.isSome = true ∧ (∀ k < 6, NMap.get false d.power.pll k = true) ∧ NMap.get DomSt.off d.power.domains 0 = .switchingOn ∧
       NMap.get DomSt.off d.power.domains 1 = .switchingOff ∧ NMap.wf DomSt.off d.power.domains = true) ∧
    (let x : HostPort := { enable := true, link := 1, ipv4 := [169, 254, 1, 1] }
     let d := { State.reset.dev with sec := { identity := some 0 }, ports := { hosts := [x, {}] } }
     hostPowered d 0 = true ∧ (hostPort d 0).link ≠ 0 ∧ (hostPort d 0).use4 = false ∧ (hostPort d 0).ipv4 = [169, 254, 1, 1]) ∧
    (∀ st ∈ [DevSt.loading, .inert, .faulted],
      let d := { State.reset.dev with ctl := { state := st }, power := { State.reset.dev.power with domains := [(0, .switchingOn), (1, .on), (94, .on), (95, .switchingOn)] } }
      domainOf d 0 = .switchingOn ∧ domainOf d 1 = .on ∧ domainOf d 2 = .off ∧ domainOf d 95 = .switchingOn ∧ NMap.wf DomSt.off d.power.domains = true ∧
        (st = .loading → domainWanted 0 d 88 = true ∧ mayBegin 0 (setDomain 95 .on d) 88 = true ∧ mayBegin 0 d 88 = false) ∧
        (st = .inert → domainWanted 0 d 1 = false)) ∧
    100 * 678 < 700 * (100 - 3) ∧ 1200 * (100 + 3) < 100 * 1237 ∧ 10800 < 10801 := by decide +kernel

theorem witness_OneTimeMemoryOnlyGains : OtpShape State.reset.otp ∧ ∃ t, step State.reset = .next t := ⟨by unfold OtpShape; decide, _, rfl⟩

/-! ### Well-formed commands -/

/-- For each check an ill-formed command, which it refuses. -/
theorem test_ill_formed_commands_are_refused :
    (let r (f w c : Nat) : SigReq := { src := .cell cj, frame := f, word := w, v := 0, clause := c, off := 0 }
     ∀ i ∈ ([.add { row := 64, col := 0 } 0 0 0, .bankGrant { row := 0, col := 64 } 0 .good, .bankGrant nn 16 .good,
      .signalRead (r 4 0 0) .good, .signalSet (r 0 4096 0) .good, .signalCancel (r 0 0 65536),
      .nounReadRequest nn .n 4194304 (.cell vb) 0 0, .nounReadRequest nn .n 0 (.store 4) 0 0, .nounReadRequest nn .n 0 (.ioDie 2) 0 0,
      .nounReadRequest nn .n 0 (.frameMover 0 16) 0 0, .nounReadRequest nn .n 0 (.ioMover 0 8) 0 0,
      .nounWrite nn .n 0 (.cell vb) 0 0 [0] 0, .queueMessage ad 64 0 false (.cell cj) (List.replicate 64 0),
      .queueMessage ad 0 256 false (.cell cj) (List.replicate 64 0), .qcompFull (.cell cj) ad 64 0, .queueEntryTaken ad 12 .good,
      .moverComplete (.frame 4 0), .moverComplete (.io 2 0), .moverRequestStart 4, .badFlit 0 0xC, .badFlit 0 0x10, .badFlit 4608 0xD, .schedHold 256,
      .helloSend 6, .hostLinkDown 2, .discover (req 65536 0 0 []), .discover (req 0 0 256 []), .discover (req 0 0 0 (List.replicate 8193 0)), .discover { req 0 0 0 [] with mac := [] },
      .hostPacketDiscarded 0 (.oversize 9216), .hostPacketDiscarded 0 (.vlan (some 4096)), .hostPacketDiscarded 0 (.etherType 65536),
      .hostPacketDiscarded 0 (.udpPort 65536), .hello 0 default [], .fabricFrameDiscarded 0 [], .moverReadData (.io 0 0) 256 [], .ptpSync 0 0 0 true 256, .ptpSync 65536 0 0 true 0,
      .beatFrame 0 0 0 0 0 65536, .combineSlotDeliver ad 0 (List.replicate 17 .good),
      .ownerInstall { req 1 0 0 [] with port := 2 } true, .pllLock 6, .identityCheck 4, .domainSwitchDone 96] : List Instr),
      i.wellFormed = false) ∧
    (∀ i ∈ ([.add cj 0 0 0, .bankGrant nn 15 .good, .schedHold 255, .helloSend 5, .pllLock 5, .inertReady] : List Instr), i.wellFormed = true) := by
  decide +kernel

/-! ### Single steps on worked values -/

/-- The core of a machine after a command. -/
def coreAfter (s : State) (i : Instr) : Option Conj :=
  match exec i s with
  | .next t => some (cellAt t.dev cj).conj
  | _ => none

/-- R221: -7 divided by 2 is -3 with remainder -1; a divisor of zero gives 0 and leaves the dividend. -/
theorem test_division_truncates :
    (let k : Conj := { regs := [(1, -7), (2, 2)] }
     ((coreAfter (core [wR 0 1 2 3 0 0x18, nopW] k) (.quos cj 1 2 3)).map fun x => (x.reg 3, x.pc)) = some (-3, 1) ∧
     ((coreAfter (core [wR 0 1 2 3 0 0x1A, nopW] k) (.rmds cj 1 2 3)).map fun x => x.reg 3) = some (-1)) ∧
    ((coreAfter (core [wR 0 1 2 3 0 0x19, nopW] { regs := [(1, 5)] }) (.quou cj 1 2 3)).map fun x => x.reg 3) = some 0 ∧
    ((coreAfter (core [wR 0 1 2 3 0 0x1B, nopW] { regs := [(1, 5)] }) (.rmdu cj 1 2 3)).map fun x => x.reg 3) = some 5 := by decide

/-- R168, R223: a store of a halfword puts its low byte first, and a signed load of the high byte extends its sign. -/
theorem test_bytes_are_little_endian :
    let k : Conj := { regs := [(1, 64), (3, 0x8012)] }
    ((coreAfter (core [wR 0x19 1 3 0 0 0, nopW] k) (.st16 cj 1 3 0)).map fun x => (x.dmem.rd 64, x.dmem.rd 65)) = some (0x12, 0x80) ∧
    ((coreAfter (core [wR 0x10 1 3 0 0 0 + 1, nopW] { k with dmem := [(64, 0x12), (65, 0x80)] }) (.ld8s cj 1 3 1)).map fun x => x.reg 3) =
      some (-0x80) := by decide

/-- R218: a result written to x0 is discarded. -/
theorem test_x0_reads_zero :
    ((coreAfter (core [wR 0x04 0 0 0 0 0 + 5, nopW] {}) (.addk cj 0 0 5)).map fun x => (x.reg 0, x.regs)) = some (0, []) := by decide

/-- R292, R298: an ADD that wraps. -/
theorem test_signal_add_wraps :
    (let r : SigReq := { src := .cell cj, frame := 0, word := 35, v := 2, clause := 7, off := 0 }
     match exec (.signalAdd r .good) (come (.cell cj) (.store 0) [.sigOp .add r]
        { mach [] with dev := { dev [] with sig := { words := [(35, ({ value := -1, alloc := true, owner := 7 } : SigWord))] } } }) with
     | .next t => some (sigWord t.dev 0 35).value
     | _ => none) = some 1 := by decide

end Sys2Proof.Tests
end

section
/-! PROOFS. What the activation of a clause leaves in the plan, and what it makes of the clause (R55, R169, R297). -/
namespace Sys2Proof.Machine

/-! ### Clauses -/

theorem find?_mapFirst {α : Type} {p : α → Bool} {f : α → α} {l : List α} {x : α}
    (h : l.find? p = some x) (hf : p (f x) = true) : (mapFirst p f l).find? p = some (f x) := by
  induction l with
  | nil => cases h
  | cons y l ih =>
    by_cases hy : p y = true
    · obtain rfl : y = x := by simpa [hy] using h
      simp [mapFirst, hy, hf]
    · simp only [mapFirst, hy, Bool.false_eq_true, if_false, List.find?_cons] at h ⊢
      exact ih h

theorem clause_id_of_clauseOf {d : Dev} {id : Nat} {cl : Clause} (h : clauseOf d id = some cl) : cl.id = id := by
  simpa using List.find?_some h

/-- An update that keeps the clause's ID leaves the updated clause to be found. -/
theorem clauseOf_updClause {d : Dev} {id : Nat} {cl : Clause} {f : Clause → Clause} (h : clauseOf d id = some cl)
    (hf : (f cl).id = cl.id) : clauseOf (updClause id f d) id = some (f cl) :=
  find?_mapFirst h (by simp [hf, clause_id_of_clauseOf h])

theorem clauseOf_congr {d e : Dev} (h : e.plan = d.plan) (id : Nat) : clauseOf e id = clauseOf d id := by
  simp [clauseOf, h]

/-! ### What keeps the plan -/

/-- What every step of a fold keeps, the fold keeps. -/
theorem foldl_keeps {σ α β : Type} (g : σ → β) {f : σ → α → σ} (h : ∀ x a, g (f x a) = g x) (l : List α) (x : σ) :
    g (l.foldl f x) = g x := by
  induction l generalizing x with
  | nil => rfl
  | cons a l ih => exact (ih _).trans (h x a)

/-- A notice holds no clause. -/
@[simp] theorem recPlain_notice_plan (code id d0 d1 : Nat) (d : Dev) : (recPlain code 0 id d0 d1 d).plan = d.plan := rfl

@[simp] theorem loadImage_plan (p : Nat) (im : List DetEntry) (d : Dev) : (loadImage p im d).plan = d.plan := rfl

@[simp] theorem resetWords_plan (cl : Clause) (d : Dev) : (resetWords cl d).plan = d.plan := by
  unfold resetWords
  exact foldl_keeps Dev.plan (fun _ _ => updSig_plan ..) _ _

/-- A BEAT relocation that overflows is a notice (R411), so the data preset leaves the plan as it is. -/
@[simp] theorem dataPreset_plan (cl : Clause) (i : Nat) (d : Dev) : (dataPreset cl i d).2.plan = d.plan := by
  unfold dataPreset
  refine foldl_keeps (fun p : List Byte × Dev => p.2.plan) (fun p r => ?_) _ _
  split
  · rfl
  · exact recPlain_notice_plan ..

/-- A cell's activation changes the cell, its router's tables and the log, and nothing of the plan. -/
@[simp] theorem activateCell_plan (cl : Clause) (gen : Nat) (first : Bool) (c : LCell) (i : Nat) (d : Dev) :
    (activateCell cl gen first c i d).plan = d.plan := by
  unfold activateCell
  simp only [loadImage_plan, updCell_plan]
  split
  · split
    · split
      · exact dataPreset_plan ..
      · rfl
    · exact dataPreset_plan ..
  · rfl

/-! ### Activation -/

/-- A clause as its slots become ACTIVE: no cell of it is any longer one that a retirement took out of ACTIVE. -/
def Clause.activating (cl : Clause) : Clause :=
  { cl with actGen := if cl.activated then (cl.actGen + 1) % 256 else 0, activated := true, ceilRec := false, gone := [] }

theorem clauseOf_activate {d : Dev} {cl : Clause} (h : clauseOf d cl.id = some cl) :
    clauseOf (activate cl d) cl.id = some cl.activating := by
  unfold activate
  rw [clauseOf_congr (foldl_keeps Dev.plan (fun _ _ => activateCell_plan ..) _ _), clauseOf_congr (resetWords_plan ..)]
  exact clauseOf_updClause h rfl

section
variable {k : Nat} {s : State} {w : Switch} {cl : Clause} (hr : inRun s.dev = true) (hw : switchAt s.dev k = some w)
  (hst : w.stage = .closed) (hb : w.beat < s.dev.beat.count) (hin : w.ins = [cl.id]) (hcl : clauseOf s.dev cl.id = some cl)
  (hfree : busyCell s.dev cl = none)
include hr hw hst hb hin hcl hfree

/-- SWITCH_ACTIVATE_IN of one incoming clause whose cells are free makes it ACTIVE. -/
theorem execSwitchActivateIn_free : execSwitchActivateIn k s =
    .next { s with dev := updSwitch k (fun w => { w with stage := .active, ins := [cl.id] }) (activate cl s.dev) } := by
  have hturn : (inRun s.dev && w.stage == .closed && decide (w.beat + 1 ≤ s.dev.beat.count)) = true := by
    rw [hr, hst, decide_eq_true (Nat.succ_le_of_lt hb)]; rfl
  simp only [execSwitchActivateIn, onDev_eq, hw, hturn, if_true, hin, List.foldl_cons, List.foldl_nil, hcl, hfree, List.nil_append]

/-- So the clause stands ACTIVE with none of its cells gone. -/
theorem clauseOf_switchActivateIn_free {t : State} (ht : execSwitchActivateIn k s = .next t) :
    clauseOf t.dev cl.id = some cl.activating := by
  rw [execSwitchActivateIn_free hr hw hst hb hin hcl hfree] at ht
  obtain rfl := Host.Outcome.next.inj ht
  exact clauseOf_activate hcl

end

/-! ### The refutation of O46 -/

/-- Clause 7, in slot 0 of bench 0.0 alone, held since the retirement of that bench, in whose cells it was ACTIVE. -/
def clauseOfRetiredBench : Clause :=
  let cl : Clause := { id := 7, contract := List.replicate 4 0 ++ [1, 1] ++ List.replicate 58 0, orow := 0, ocol := 0, slot := 0,
                       hbmBase := 0, lpBase := 0, held := true, activated := true }
  { cl with gone := cl.cells }
/-- A switch for beat 4 that brings clause 7 in, at this stage, made by this entry of the schedule. -/
def switchBringingIn (entry : Nat) (g : SwStage) : Switch :=
  { outs := [], ins := [7], src := .entry entry, beat := 4, first := 4, grace := 0, stage := g }
/-- A RUNNING device at beat 5. Two switches of beat 4 bring clause 7 in (its slots were RESIDENT, so that nothing held either
back); the first has made it ACTIVE and its bench has then been retired: the cells are fenced and their slots EMPTY, and the
clause keeps them as gone (R52, notes/assumptions/16). The second switch is yet to activate. -/
def retiredUnderSwitch : State :=
  { dev := { ctl := { state := .running }, beat := { count := 5 }, power := { boot := .ready }
             plan := { clauses := [clauseOfRetiredBench], switches := [switchBringingIn 1 .active, switchBringingIn 2 .closed] }
             cells := (unitCells 0 1 0).map fun p => (p, { fence := .retired }) } }

/-- Every cell of the clause is free there, so that the second switch activates it. -/
theorem retiredUnderSwitch_free : ∀ c ∈ clauseOfRetiredBench.cells, activeSlot (cellAt retiredUnderSwitch.dev c) = none := by
  decide +kernel

/-- Refutes O46: an activation empties the clause's list of cells in which it was ACTIVE until a retirement, where the
statement has it kept. The second switch of `retiredUnderSwitch` does so. -/
theorem not_sentencesAndSwitchesProceed : ¬ Obligations.SentencesAndSwitchesProceed := by
  unfold Obligations.SentencesAndSwitchesProceed
  intro h
  obtain ⟨-, -, -, -, hactivate, -⟩ := h 0 1 7 default default (switchBringingIn 2 .closed) clauseOfRetiredBench retiredUnderSwitch
  obtain ⟨t, ht, -, -, hkept⟩ := (hactivate rfl rfl rfl (by decide) rfl rfl).1 retiredUnderSwitch_free
  have hfree : busyCell retiredUnderSwitch.dev clauseOfRetiredBench = none := by
    simpa [busyCell] using retiredUnderSwitch_free
  have hemptied : clauseOf t.dev 7 = some clauseOfRetiredBench.activating :=
    clauseOf_switchActivateIn_free (w := switchBringingIn 2 .closed) rfl rfl rfl (by decide) rfl rfl hfree ht
  have hgone : [] = clauseOfRetiredBench.cells := congrArg Clause.gone (Option.some.inj (hemptied.symm.trans hkept))
  exact absurd hgone (by decide)

end Sys2Proof.Machine
end

section
/-! PROOFS. How a request of an open session is performed or handed off (R432, R433, R439), what a WRITE answers (R431, R435, R436),
and what the writes of objects with a row of their own leave. -/
namespace Sys2Proof.Machine

/-! ### A request of an open session is performed or handed off (R432, R433, R437, R439) -/

/-- An update that keeps the session's ID leaves the updated session to be found. -/
theorem sessionOf_updSession {d : Dev} {id : Nat} {q : Session} {f : Session → Session} (h : sessionOf d id = some q)
    (hf : (f q).id = q.id) : sessionOf (updSession id f d) id = some (f q) := by
  have hid : q.id = id := by simpa using List.find?_some h
  exact find?_mapFirst h (by simp [hf, hid])

section
variable {s : State} {r : Req} {idx : Nat} {q : Session} (h : Admitted s r idx q)
include h

theorem Admitted.session_ne (sub : Nat) : (onObject idx sub r).session ≠ 0 := by
  obtain ⟨-, -, hs, -⟩ := h
  exact hs

theorem Admitted.sessionOf_noted : sessionOf (s.noted r) r.session = some { q with beat := s.dev.beat.count } := by
  obtain ⟨-, -, -, hq, -⟩ := h
  exact sessionOf_updSession (d := { s.dev with beluf := { s.dev.beluf with busy := s.dev.beluf.busy + engineCycles } }) hq rfl

theorem Admitted.foreign_eq (sub : Nat) : foreign (onObject idx sub r) s.dev = false := by
  obtain ⟨-, -, hs, hq, hip, hudp, -⟩ := h
  simp [foreign, onObject, hs, hq, hip, hudp]

/-- In a device where its session has last answered another request, the request is no repetition (R432). -/
theorem Admitted.repeated_eq (op sub : Nat) (h8 : op ≠ 8) {d : Dev} {q' : Session} (hq' : sessionOf d r.session = some q')
    (hl : q'.lastSeq = q.lastSeq) : repeated op (onObject idx sub r) d = none := by
  obtain ⟨-, -, hs, -, -, -, hseq, -⟩ := h
  simp [repeated, onObject, hs, h8, hq', hl, hseq]

theorem Admitted.storeWaits_eq (sub : Nat) {d : Dev} (hd : d.sig = s.dev.sig) : storeWaits d (onObject idx sub r) = false := by
  obtain ⟨-, -, -, -, -, -, -, hsent, -⟩ := h
  simp only [storeWaits, hd, List.any_eq_false, onObject, Option.any_eq_true, Bool.and_eq_true, beq_iff_eq]
  rintro x hx ⟨w, hw, hws, hwi⟩
  exact hsent x hx w hw hws hwi

theorem Admitted.deferred_any (sub : Nat) : (s.dev.beluf.deferred.any fun w =>
    w.req.session == (onObject idx sub r).session && w.req.index == (onObject idx sub r).index) = false := by
  obtain ⟨-, -, -, -, -, -, -, -, hdef⟩ := h
  simp only [List.any_eq_false, onObject, Bool.and_eq_true, beq_iff_eq]
  rintro w hw ⟨hws, hwi⟩
  exact hdef w hw hws hwi

/-- Only the object decides whether an admitted WRITE is handed off: no other request stands in its way. -/
theorem Admitted.handsOff_eq (sub : Nat) : handsOff 2 (onObject idx sub r) (s.noted r) = handedOver 2 idx := by
  have hdef := h.deferred_any sub
  have hsig := h.storeWaits_eq sub (d := s.noted r) rfl
  simp only [handsOff, hsig, show (s.noted r).beluf.deferred = s.dev.beluf.deferred from rfl, hdef, streamWaits]
  simp [onObject]

/-- The engine hands an admitted WRITE off where its object is one of those, and else performs it at once. -/
theorem Admitted.serve_eq (sub : Nat) (f : Otp → Dev → Res) : serve 2 (onObject idx sub r) f s.otp s.dev =
    if handedOver 2 idx then (s.otp, handOff 2 (onObject idx sub r) true (s.noted r))
    else answer 2 (onObject idx sub r) f s.otp (s.noted r) := by
  have hoff := h.handsOff_eq sub
  have hrep := h.repeated_eq 2 sub (by decide) h.sessionOf_noted rfl
  have hfor := h.foreign_eq sub
  have hses := h.sessionOf_noted
  obtain ⟨hhears, hroom, hs, -⟩ := h
  have hroom' : queueRoom 2 (onObject idx sub r) s.dev = true := by simpa [queueRoom] using hroom
  have hnow : serveNow 2 (onObject idx sub r) f true s.otp (s.noted r) = if handedOver 2 idx then
      (s.otp, handOff 2 (onObject idx sub r) true (s.noted r)) else answer 2 (onObject idx sub r) f s.otp (s.noted r) := by
    simp only [serveNow, hrep, hoff]
    simp [onObject, hs, hses]
  have hserve : serve 2 (onObject idx sub r) f s.otp s.dev = serveNow 2 (onObject idx sub r) f true s.otp (s.noted r) := by
    simp only [serve, hfor, hroom']
    simp [onObject, hhears, State.noted, arrives]
  rw [hserve, hnow]

end

/-! ### The reply (R431, R432) -/

/-- A request of an open session that is performed is answered there, but where its reply is left to a store. -/
theorem answer_open {op : Nat} {r : Req} (f : Otp → Dev → Res) (o : Otp) (d : Dev) (hs : r.session ≠ 0) (h8 : op ≠ 8) :
    answer op r f o d = if (f o d).later then ((f o d).otp, (f o d).dev) else replyTo op r (f o d) := by
  simp [answer, hs, h8]

theorem replies_of_replyTo {t : State} {op idx sub : Nat} {r : Req} {x : Res} (ht : t.dev = (replyTo op (onObject idx sub r) x).2) :
    Replies t r op idx sub x.st x.data := by
  unfold Replies
  rw [ht]
  rfl

/-- A reply changes Beluf's records and what is sent, and nothing else. -/
theorem replyTo_dev (op : Nat) (r : Req) (x : Res) :
    (replyTo op r x).2 = { x.dev with beluf := (replyTo op r x).2.beluf, tx := (replyTo op r x).2.tx } := rfl

/-- The device of `t` is `d` but for Beluf's own records and what has been sent. -/
def State.answered (t : State) (d : Dev) : Prop := t.dev = { d with beluf := t.dev.beluf, tx := t.dev.tx }

/-! ### What a WRITE answers (R431, R434-R436) -/

/-- The access right and the type of an object. -/
def objRights (idx sub : Nat) : Option (Acc × Ty) := (objRow idx sub).map fun x => (x.acc, x.ty)

/-- Command `i` of request `r` writes object `idx`:`sub`, which has these rights and this type; the object is no selector and no
signal, and the engine performs the write itself (R433, R435, R460, R471). -/
structure Writes (i : Instr) (r : Req) (idx sub : Nat) (acc : Acc) (ty : Ty) : Prop where
  exec_eq : ∀ s, exec i s = serveWrite idx sub r s
  rights : objRights idx sub = some (acc, ty)
  atOnce : handedOver 2 idx = false
  noSelector : objSelector idx = false
  noSignal : idx ≠ 0x4201

/-- The STATUS that comes before the value of a host's write is looked at, by the row of the object. -/
theorem objWriteCheck_of_rights {idx sub : Nat} {acc : Acc} {ty : Ty} (h : objRights idx sub = some (acc, ty))
    (hsel : objSelector idx = false) (b : List Byte) (d : Dev) : objWriteCheck false idx sub b d =
    if acc = .ro ∨ acc = .cmd then some 2
    else if d.ctl.state = .faulted ∨ (acc = .rwh ∧ ¬(d.ctl.state = .inert ∨ d.ctl.state = .held)) ∨ objShut d idx = true then some 3
    else tyCheck ty b := by
  obtain ⟨row, hrow, hat⟩ := Option.map_eq_some_iff.mp h
  obtain ⟨rfl, rfl⟩ := Prod.mk.inj hat
  simp [objWriteCheck, hrow, hsel, or_assoc, and_assoc]

/-- What reaches the value of an object that may be written in the device state at hand. -/
theorem objWriteCheck_none {idx sub : Nat} {acc : Acc} {ty : Ty} (h : objRights idx sub = some (acc, ty))
    (hsel : objSelector idx = false) {b : List Byte} {d : Dev} (hacc : acc = .rw ∨ acc = .rwh ∧ (d.ctl.state = .inert ∨ d.ctl.state = .held))
    (hf : d.ctl.state ≠ .faulted) (hs : objShut d idx = false) (hty : tyCheck ty b = none) : objWriteCheck false idx sub b d = none := by
  rw [objWriteCheck_of_rights h hsel, if_neg, if_neg, hty]
  · rintro (hd | ⟨hrwh, hq'⟩ | hshut)
    · exact hf hd
    · rcases hacc with hrw | ⟨-, hq⟩
      · simp [hrw] at hrwh
      · exact hq' hq
    · simp [hs] at hshut
  · rcases hacc with rfl | ⟨rfl, -⟩ <;> decide

section
variable {i : Instr} {s : State} {r : Req} {idx sub : Nat} {q : Session} {acc : Acc} {ty : Ty}

theorem Writes.check_none (w : Writes i r idx sub acc ty) (hacc : acc = .rw ∨ acc = .rwh ∧ (s.dev.ctl.state = .inert ∨ s.dev.ctl.state = .held))
    (hf : s.dev.ctl.state ≠ .faulted) (hs : objShut s.dev idx = false) (hty : tyCheck ty r.data = none) :
    objWriteCheck false idx sub r.data s.dev = none :=
  objWriteCheck_none w.rights w.noSelector hacc hf hs hty

/-- The STATUS of an admitted write, and the device but for Beluf's records and what is sent, are those that the object's own
write gives. -/
theorem Writes.served (w : Writes i r idx sub acc ty) (h : Admitted s r idx q) {st : Nat} {d' : Dev} {sel : Sels}
    (hw : objWrite (selsOf (s.noted r) r.session) false idx sub r.data (s.noted r) = (st, d', sel)) {P : State → Prop}
    (hP : ∀ t, t.pending = s.pending → t.otp = s.otp → t.answered d' → P t) :
    Served i s r 2 idx sub st [] P := by
  have hres : writeObject (onObject idx sub r) (selsOf (s.noted r) (onObject idx sub r).session) s.otp (s.noted r) =
      { st := st, otp := s.otp, dev := updSession r.session (fun x => { x with sels := sel }) d' } := by
    simp only [writeObject, onObject, w.noSignal, false_and, if_false, hw]
  have hserve := h.serve_eq sub fun o d => writeObject (onObject idx sub r) (selsOf d (onObject idx sub r).session) o d
  simp only [w.atOnce, Bool.false_eq_true, if_false, answer_open _ _ _ (h.session_ne _) (show 2 ≠ 8 by decide), hres] at hserve
  have hexec := w.exec_eq s
  rw [serveWrite, onBoth_eq, hserve] at hexec
  exact ⟨_, hexec, replies_of_replyTo (x := { st := st, otp := s.otp, dev := updSession r.session (fun x => { x with sels := sel }) d' }) rfl,
    hP _ rfl rfl (replyTo_dev ..)⟩

/-- A write that is refused before its value is looked at. -/
theorem Writes.refused (w : Writes i r idx sub acc ty) (h : Admitted s r idx q) {e : Nat}
    (hc : objWriteCheck false idx sub r.data s.dev = some e) : Served i s r 2 idx sub e [] (OnlyAnswers s) := by
  have hc' : objWriteCheck false idx sub r.data (s.noted r) = some e := hc
  exact w.served h (d' := s.noted r) (by simp only [objWrite, hc']; rfl) fun _ hp ho hd => ⟨hp, ho, hd⟩

section
variable (hc : objWriteCheck false idx sub r.data s.dev = none)
include hc

/-- A write whose value the object takes. -/
theorem Writes.taken (w : Writes i r idx sub acc ty) (h : Admitted s r idx q) {d' : Dev}
    (hput : ∀ sel, objPut sel idx sub r.data (s.noted r) = .inr (d', sel)) {P : State → Prop}
    (hP : ∀ t, t.otp = s.otp → t.answered d' → P t) : Served i s r 2 idx sub 0 [] P := by
  have hc' : objWriteCheck false idx sub r.data (s.noted r) = none := hc
  exact w.served h (by simp only [objWrite, hc', w.noSignal, if_false, hput]; rfl) fun t _ => hP t

/-- A write of a value that the object takes under a condition, and that is RANGE otherwise. -/
theorem Writes.takenIf (w : Writes i r idx sub acc ty) (h : Admitted s r idx q) {d' : Dev} {b : Bool}
    (hput : ∀ sel, objPut sel idx sub r.data (s.noted r) = putIf b sel { d' with beluf := (s.noted r).beluf }) {p : Prop} (hb : b = true ↔ p) :
    (p → Served i s r 2 idx sub 0 [] fun t => t.otp = s.otp ∧ t.answered d') ∧
    (¬p → Served i s r 2 idx sub 4 [] (OnlyAnswers s)) := by
  constructor
  · intro hp
    exact w.taken hc h (d' := { d' with beluf := (s.noted r).beluf }) (fun sel => by rw [hput, hb.mpr hp, putIf, if_pos rfl]) fun _ ho hd => ⟨ho, hd⟩
  · intro hp
    have hc' : objWriteCheck false idx sub r.data (s.noted r) = none := hc
    have hb' : b = false := by simpa [hp] using hb
    exact w.served h (d' := s.noted r) (by simp only [objWrite, hc', w.noSignal, if_false, hput, putIf, hb']; rfl) fun _ hpe ho hd => ⟨hpe, ho, hd⟩
end

/-! ### What comes before the value -/

/-- In HELD an argument of another length is TYPE, and in FAULTED every write is STATE. -/
theorem Writes.object (w : Writes i r idx sub acc ty) (hacc : acc = .rw ∨ acc = .rwh) {n : Nat}
    (hty : r.data.length ≠ n → tyCheck ty r.data = some 5) {rest : Prop}
    (hrest : Admitted s r idx q → s.dev.ctl.state ≠ .faulted → r.data.length = n → rest) : Admitted s r idx q →
    (s.dev.ctl.state ≠ .faulted → r.data.length ≠ n → s.dev.ctl.state = .held → Served i s r 2 idx sub 5 [] (OnlyAnswers s)) ∧
    (s.dev.ctl.state = .faulted → Served i s r 2 idx sub 3 [] (OnlyAnswers s)) ∧
    (s.dev.ctl.state ≠ .faulted → r.data.length = n → rest) := by
  intro h
  have hna : ¬(acc = .ro ∨ acc = .cmd) := by rcases hacc with rfl | rfl <;> decide
  refine ⟨fun _ hn hh => w.refused h ?_, fun hf => w.refused h ?_, hrest h⟩
  · rw [objWriteCheck_of_rights w.rights w.noSelector, if_neg hna, if_neg (by simp [hh, objShut]), hty hn]
  · rw [objWriteCheck_of_rights w.rights w.noSelector, if_neg hna, if_pos (.inl hf)]

/-- An object that is written in INERT and HELD alone answers STATE elsewhere. -/
theorem Writes.shut (w : Writes i r idx sub .rwh ty) (h : Admitted s r idx q)
    (hq : ¬(s.dev.ctl.state = .inert ∨ s.dev.ctl.state = .held)) : Served i s r 2 idx sub 3 [] (OnlyAnswers s) := by
  refine w.refused h ?_
  rw [objWriteCheck_of_rights w.rights w.noSelector, if_neg (by decide), if_pos (.inr (.inl ⟨rfl, hq⟩))]

end

/-! ### Ports after an update (R375, R376) -/

theorem mapAt_eq_modify {α : Type} (f : α → α) (n : Nat) (l : List α) : mapAt n f l = l.modify n f := by
  induction l generalizing n with
  | nil => cases n <;> rfl
  | cons x l ih => cases n with
    | zero => rfl
    | succ n => exact congrArg (x :: ·) (ih n)

theorem fabPort_congr {d e : Dev} (h : e.ports = d.ports) (p : Nat) : fabPort e p = fabPort d p := by simp [fabPort, h]
theorem hostPort_congr {d e : Dev} (h : e.ports = d.ports) (p : Nat) : hostPort e p = hostPort d p := by simp [hostPort, h]

theorem fabPort_updFab_self {d : Dev} {p : Nat} (f : FabPort → FabPort) (h : p < d.ports.fab.length) :
    fabPort (updFab p f d) p = f (fabPort d p) := by
  simp [fabPort, updFab, mapAt_eq_modify, h]

theorem hostPort_updHost_self {d : Dev} {p : Nat} (f : HostPort → HostPort) (h : p < d.ports.hosts.length) :
    hostPort (updHost p f d) p = f (hostPort d p) := by
  simp [hostPort, updHost, mapAt_eq_modify, h]

theorem hostPort_updHost_ne {p k : Nat} (f : HostPort → HostPort) (d : Dev) (h : k ≠ p) : hostPort (updHost p f d) k = hostPort d k := by
  simp [hostPort, updHost, mapAt_eq_modify, Ne.symm h]

@[simp] theorem hosts_length_updHost (p : Nat) (f : HostPort → HostPort) (d : Dev) :
    (updHost p f d).ports.hosts.length = d.ports.hosts.length := by
  simp [updHost, mapAt_eq_modify]

/-- A domain set on its way changes power alone. -/
theorem switchDomain_dev (on : Bool) (n : Nat) (d : Dev) : switchDomain on n d = { d with power := (switchDomain on n d).power } := by
  unfold switchDomain
  split <;> rfl

@[simp] theorem switchDomain_ports (on : Bool) (n : Nat) (d : Dev) : (switchDomain on n d).ports = d.ports := by rw [switchDomain_dev]
@[simp] theorem switchDomain_health (on : Bool) (n : Nat) (d : Dev) : (switchDomain on n d).health = d.health := by rw [switchDomain_dev]
@[simp] theorem switchDomain_ctl (on : Bool) (n : Nat) (d : Dev) : (switchDomain on n d).ctl = d.ctl := by rw [switchDomain_dev]
@[simp] theorem switchDomain_straps (on : Bool) (n : Nat) (d : Dev) : (switchDomain on n d).power.straps = d.power.straps := by
  unfold switchDomain
  split <;> rfl
@[simp] theorem hostPort_switchDomain (on : Bool) (n : Nat) (d : Dev) (p : Nat) : hostPort (switchDomain on n d) p = hostPort d p :=
  hostPort_congr (by simp) p
@[simp] theorem fabPort_switchDomain (on : Bool) (n : Nat) (d : Dev) (p : Nat) : fabPort (switchDomain on n d) p = fabPort d p :=
  fabPort_congr (by simp) p

theorem hostPort_updHost_enable {f : HostPort → HostPort} (hf : ∀ x, (f x).enable = x.enable) (p k : Nat) (d : Dev) :
    (hostPort (updHost p f d) k).enable = (hostPort d k).enable := by
  simp only [hostPort, updHost, mapAt_eq_modify, List.getD_eq_getElem?_getD, List.getElem?_modify]
  cases d.ports.hosts[k]? with
  | none => rfl
  | some x => by_cases h : p = k <;> simp [h, hf]

/-- Which ports have power hangs on the device state, the straps and HOST_ENABLE (R375). -/
theorem hostPowered_congr {d e : Dev} (hc : e.ctl = d.ctl) (hs : e.power.straps = d.power.straps)
    (he : ∀ k, (hostPort e k).enable = (hostPort d k).enable) (k : Nat) : hostPowered e k = hostPowered d k := by
  simp [hostPowered, selectedPort, hc, hs, he]

/-- A host port's domain sets out for what the port's power asks, and a port without power loses its link: what HOST_ENABLE does for
each port once it is written. -/
def settleHost (d : Dev) (p : Nat) : Dev :=
  let e := switchDomain (hostPowered d p) (86 + p) d
  if hostPowered e p then e else updHost p (fun h => { h with link := 0 }) e

theorem putHostEnable_eq (p : Nat) (on : Bool) (d : Dev) :
    putHostEnable p on d = settleHost (settleHost (updHost p (fun h => { h with enable := on }) d) 0) 1 := rfl

section
variable (d : Dev) (p k : Nat)

@[simp] theorem hostPowered_switchDomain (on : Bool) (n : Nat) : hostPowered (switchDomain on n d) k = hostPowered d k :=
  hostPowered_congr (by simp) (by simp) (fun _ => by simp) k

theorem settleHost_of_powered {d : Dev} {p : Nat} (h : hostPowered d p = true) : settleHost d p = switchDomain true (86 + p) d := by
  simp [settleHost, h]
theorem settleHost_of_unpowered {d : Dev} {p : Nat} (h : hostPowered d p = false) :
    settleHost d p = updHost p (fun x => { x with link := 0 }) (switchDomain false (86 + p) d) := by
  simp [settleHost, h]

/-- What the domain's switching and the loss of the link both keep is kept. -/
theorem settleHost_keeps {β : Type} (g : Dev → β) (hs : ∀ on n e, g (switchDomain on n e) = g e)
    (hu : ∀ e, g (updHost p (fun x => { x with link := 0 }) e) = g e) : g (settleHost d p) = g d := by
  cases h : hostPowered d p with
  | true => rw [settleHost_of_powered h, hs]
  | false => rw [settleHost_of_unpowered h, hu, hs]

@[simp] theorem settleHost_enable : (hostPort (settleHost d p) k).enable = (hostPort d k).enable :=
  settleHost_keeps d p (fun e => (hostPort e k).enable) (by simp) fun e => hostPort_updHost_enable (by simp) p k e
@[simp] theorem settleHost_ctl : (settleHost d p).ctl = d.ctl := settleHost_keeps d p Dev.ctl (by simp) (by simp)
@[simp] theorem settleHost_straps : (settleHost d p).power.straps = d.power.straps :=
  settleHost_keeps d p (fun e => e.power.straps) (by simp) (by simp)
@[simp] theorem settleHost_health : (settleHost d p).health = d.health := settleHost_keeps d p Dev.health (by simp) (by simp)
@[simp] theorem settleHost_hosts_length : (settleHost d p).ports.hosts.length = d.ports.hosts.length :=
  settleHost_keeps d p (fun e => e.ports.hosts.length) (by simp) (by simp)
@[simp] theorem settleHost_powered : hostPowered (settleHost d p) k = hostPowered d k :=
  hostPowered_congr (by simp) (by simp) (by simp) k

end

theorem settleHost_link {d : Dev} {p : Nat} (hp : p < d.ports.hosts.length) (h : hostPowered d p = false) :
    (hostPort (settleHost d p) p).link = 0 := by
  rw [settleHost_of_unpowered h, hostPort_updHost_self _ (by simpa using hp)]

theorem hostPort_settleHost_ne {d : Dev} {p k : Nat} (h : k ≠ p) : hostPort (settleHost d p) k = hostPort d k :=
  settleHost_keeps d p (fun e => hostPort e k) (by simp) fun e => hostPort_updHost_ne _ e h

section
variable {d : Dev} {p : Nat} {on : Bool}

@[simp] theorem putHostEnable_health : (putHostEnable p on d).health = d.health := by
  simp [putHostEnable_eq]

theorem hostPort_putHostEnable_enable (hp : p < d.ports.hosts.length) : (hostPort (putHostEnable p on d) p).enable = on := by
  simp [putHostEnable_eq, hostPort_updHost_self _ hp]

/-- Once HOST_ENABLE is written, no port without power has a link. -/
theorem hostPort_putHostEnable_link (hl : d.ports.hosts.length = 2) (k : Nat) (hk : hostPowered (putHostEnable p on d) k = false) :
    (hostPort (putHostEnable p on d) k).link = 0 := by
  simp only [putHostEnable_eq, settleHost_powered] at hk ⊢
  match k with
  | 0 => rw [hostPort_settleHost_ne (by decide)]; exact settleHost_link (by simp [hl]) hk
  | 1 => exact settleHost_link (by simp [hl]) (by simpa using hk)
  | k + 2 => simp [hostPort, hl]

end

/-! ### FAB_ENABLE (R376, R398) -/

section
variable {d : Dev} {p : Nat} (hp : p < d.ports.fab.length)
include hp

/-- A port that holds no frame goes DOWN. -/
theorem putFabEnable_off (hr : (fabPort d p).replay = []) (hw : (fabPort d p).waiting = []) :
    fabPort (putFabEnable p false d) p = { fabPort d p with enable := false, st := .down, waiting := [], replay := [], resent := [] } ∧
    (putFabEnable p false d).health = d.health := by
  have hput : putFabEnable p false d = switchDomain false (80 + p)
      (updFab p (fun x => { x with enable := false, st := .down, waiting := [], replay := [], resent := [] }) d) := by
    simp [putFabEnable, hr, hw]
  rw [hput]
  exact ⟨(fabPort_switchDomain ..).trans (fabPort_updFab_self _ hp), by simp⟩

/-- A port that is DOWN goes into training. -/
theorem putFabEnable_on (hst : (fabPort d p).st = .down) :
    fabPort (putFabEnable p true d) p = { fabPort d p with enable := true, st := .training } ∧ (putFabEnable p true d).health = d.health := by
  have hput : putFabEnable p true d = switchDomain (d.ctl.state != .inert) (80 + p)
      (updFab p (fun x => { x with enable := true, st := .training }) d) := by
    simp [putFabEnable, hst]
  rw [hput]
  exact ⟨(fabPort_switchDomain ..).trans (fabPort_updFab_self _ hp), by simp⟩

end

/-! ### The ports once a request is answered -/

section
variable {t : State} {d : Dev} (h : t.answered d)
include h

theorem State.answered.ctl : t.dev.ctl = d.ctl := by unfold State.answered at h; rw [h]
theorem State.answered.ports : t.dev.ports = d.ports := by unfold State.answered at h; rw [h]
theorem State.answered.health : t.dev.health = d.health := by unfold State.answered at h; rw [h]
theorem State.answered.power : t.dev.power = d.power := by unfold State.answered at h; rw [h]
theorem State.answered.fabPort (p : Nat) : fabPort t.dev p = Machine.fabPort d p := fabPort_congr h.ports p
theorem State.answered.hostPort (p : Nat) : hostPort t.dev p = Machine.hostPort d p := hostPort_congr h.ports p
theorem State.answered.hostPowered (p : Nat) : hostPowered t.dev p = Machine.hostPowered d p :=
  hostPowered_congr h.ctl (by rw [h.power]) (fun k => by rw [h.hostPort]) p

end

/-! ### The objects' rows (R315, R366, R399, R467, R472) -/

theorem objRights_schedEntry : ∀ sub < 256, 1 ≤ sub → objRights 0x4010 sub = some (.rw, .octets 32) := by
  decide +kernel
theorem objRights_fabEnable : ∀ sub < 6, objRights 0x2100 sub = some (.rwh, .bool) := by decide
theorem objRights_routeTable : ∀ sub < 24, objRights 0x2109 sub = some (.rw, .num 4) := by decide +kernel
theorem objRights_hostEnable : ∀ sub < 2, objRights 0x2000 sub = some (.rwh, .bool) := by decide

section
variable (r : Req)

theorem beatPeriodNsWrite_writes : Writes (.beatPeriodNsWrite r) r 0x2202 0 .rw (.num 4) :=
  ⟨fun _ => rfl, by decide, by decide, by decide, by decide⟩
theorem schedEntryWrite_writes (h1 : 1 ≤ r.sub) (h : r.sub ≤ 0xFF) : Writes (.schedEntryWrite r) r 0x4010 r.sub .rw (.octets 32) :=
  ⟨fun _ => rfl, objRights_schedEntry _ (by omega) h1, by decide, by decide, by decide⟩
theorem schedEntryWrite_writes_zero (h : r.sub = 0) : Writes (.schedEntryWrite r) r 0x4010 0 .ro (.octets 32) :=
  ⟨fun _ => by rw [← h]; rfl, by decide, by decide, by decide, by decide⟩
theorem scientificEnableWrite_writes : Writes (.scientificEnableWrite r) r 0x4020 0 .rwh .bool :=
  ⟨fun _ => rfl, by decide, by decide, by decide, by decide⟩
theorem hbmInterleaveWrite_writes : Writes (.hbmInterleaveWrite r) r 0x3001 0 .rwh (.num 1) :=
  ⟨fun _ => rfl, by decide, by decide, by decide, by decide⟩
theorem fabEnableWrite_writes (h : r.sub < 6) : Writes (.fabEnableWrite r) r 0x2100 r.sub .rwh .bool :=
  ⟨fun _ => rfl, objRights_fabEnable _ h, by decide, by decide, by decide⟩
theorem routeTableWrite_writes (h : r.sub < 24) : Writes (.routeTableWrite r) r 0x2109 r.sub .rw (.num 4) :=
  ⟨fun _ => rfl, objRights_routeTable _ h, by decide, by decide, by decide⟩
theorem hostEnableWrite_writes (h : r.sub < 2) : Writes (.hostEnableWrite r) r 0x2000 r.sub .rwh .bool :=
  ⟨fun _ => rfl, objRights_hostEnable _ h, by decide, by decide, by decide⟩

end

/-! ### The values that fit -/

theorem objShut_of_not_gated {idx : Nat} (h : objGated idx = false) (d : Dev) : objShut d idx = false := by simp [objShut, h]
theorem objShut_of_state {d : Dev} (hi : d.ctl.state ≠ .inert) (hl : d.ctl.state ≠ .loading) (idx : Nat) : objShut d idx = false := by
  simp [objShut, hi, hl]
theorem tyCheck_bool {b : List Byte} (hn : b.length = 1) (hv : beNat b ≤ 1) : tyCheck .bool b = none := by
  simp [tyCheck, hn, hv]
theorem tyCheck_num {b : List Byte} {n : Nat} (hn : b.length = n) : tyCheck (.num n) b = none := by simp [tyCheck, hn]
theorem tyCheck_octets {b : List Byte} {n : Nat} (hn : b.length = n) : tyCheck (.octets n) b = none := by simp [tyCheck, hn]

theorem periodOk_iff (d : Dev) (v : Nat) : periodOk d v = true ↔
    500 ≤ v ∧ v ≤ 8000 ∧ v % 20 = 0 ∧ ∀ c ∈ d.plan.clauses, ctBeatMin c.contract ≤ v ∧ v ≤ ctBeatMax c.contract := by
  simp [periodOk, and_assoc]

theorem schedOk_iff (d : Dev) (e : SchedEntry) : schedOk d e = true ↔ (e.valid = true →
    d.beat.count < e.beat ∧ e.phase < beatCycles d ∧ e.action ≤ 0xA ∧ e.action ≠ 8 ∧ schedArgsOk e = true) := by
  cases hv : e.valid <;> simp [schedOk, hv, and_assoc]

theorem routeEntryOk_iff (v : Nat) : routeEntryOk v = true ↔
    (∀ i < 4, v / 2 ^ (8 * i + 5) % 8 ≠ 6) ∧ (∀ l ∈ routeLegs v, l.2 ≠ 0) ∧ routeTotal v ≤ 124 := by
  have hleg (i : Nat) : bits v (8 * i + 7) (8 * i + 5) = v / 2 ^ (8 * i + 5) % 8 := by
    have hwidth : 8 * i + 7 + 1 - (8 * i + 5) = 3 := by omega
    exact congrArg (fun n => v / 2 ^ (8 * i + 5) % 2 ^ n) hwidth
  simp [routeEntryOk, hleg, and_assoc]

/-! ### A request that has been handed off is answered (R433) -/

@[simp] theorem noted_plan (s : State) (r : Req) : (s.noted r).plan = s.dev.plan := rfl
@[simp] theorem noted_deferred (s : State) (r : Req) : (s.noted r).beluf.deferred = s.dev.beluf.deferred := rfl
@[simp] theorem handOff_deferred (op : Nat) (r : Req) (ok : Bool) (d : Dev) : (handOff op r ok d).beluf.deferred =
    d.beluf.deferred ++ [{ op := op, req := r, sels := selsOf d r.session, otpOk := ok }] := rfl

/-- The last waiting request leaves the device as it was before it was handed off. -/
theorem updBeluf_eraseIdx_handOff (op : Nat) (r : Req) (ok : Bool) (d : Dev) :
    updBeluf (fun b => { b with deferred := b.deferred.eraseIdx d.beluf.deferred.length }) (handOff op r ok d) = d := by
  have hl : (handOff op r ok d).beluf.deferred.eraseIdx d.beluf.deferred.length = d.beluf.deferred := by
    rw [handOff_deferred, List.eraseIdx_append_of_length_le (Nat.le_refl _), Nat.sub_self]
    exact List.append_nil _
  dsimp only [updBeluf]
  rw [hl]
  rfl

/-- A request that its session alone makes on its index, and that the security engine does not serve, is performed on the device as it
was before it was handed off. -/
theorem Admitted.execBelufDeferredReply_eq {s : State} {r : Req} {idx : Nat} {q : Session} (h : Admitted s r idx q) {op sub : Nat}
    (h6 : op ≠ 6) (h8 : op ≠ 8) (hsig : signs op (onObject idx sub r) = false) :
    execBelufDeferredReply s.dev.beluf.deferred.length { s with dev := handOff op (onObject idx sub r) true (s.noted r) } =
    (let a := answer op (onObject idx sub r) (performOp op (selsOf (s.noted r) r.session) true (onObject idx sub r)) s.otp (s.noted r)
     .next { s with otp := a.1, dev := a.2 }) := by
  have hnth : (handOff op (onObject idx sub r) true (s.noted r)).beluf.deferred[s.dev.beluf.deferred.length]? =
      some { op := op, req := onObject idx sub r, sels := selsOf (s.noted r) r.session, otpOk := true } := by
    rw [handOff_deferred, noted_deferred, List.getElem?_concat_length]; rfl
  have hturn : deferredTurn (handOff op (onObject idx sub r) true (s.noted r)) s.dev.beluf.deferred.length op (onObject idx sub r) = true := by
    have hstore := h.storeWaits_eq sub (d := handOff op (onObject idx sub r) true (s.noted r)) rfl
    have hdef := h.deferred_any sub
    simp [deferredTurn, hstore, streamWaits, h6, hsig, hdef]
  have hback := updBeluf_eraseIdx_handOff op (onObject idx sub r) true (s.noted r)
  rw [noted_deferred] at hback
  have hrep := h.repeated_eq op sub h8 h.sessionOf_noted rfl
  have hopen : sessionOf (s.noted r) (onObject idx sub r).session = _ := h.sessionOf_noted
  simp only [execBelufDeferredReply, onBoth_eq, hnth, hturn, hback, hrep, hopen]
  simp

/-! ### The writes (O56) -/

section
variable {s : State} {r : Req} {q : Session}

/-- The clause that the session has selected goes over to the monitor at the next beat (R135). -/
theorem monSelectWrite_served {cl : Clause} (hl : s.dev.ctl.state ≠ .loading) (hi : s.dev.ctl.state ≠ .inert)
    (hcl : clauseOf s.dev q.sels.clause = some cl) (hn : r.data.length = 1) (hf : s.dev.ctl.state ≠ .faulted) (h : Admitted s r 0x5000 q) :
    ServedLater (.monSelectWrite r) s r 2 0x5000 0 0 [] fun t =>
      NoRecord s t ∧ clauseOf t.dev q.sels.clause = some { cl with monNext := some (beNat r.data % 8) } := by
  have hoff : exec (.monSelectWrite r) s = .next { s with dev := handOff 2 (onObject 0x5000 0 r) true (s.noted r) } := by
    have hserve := h.serve_eq 0 fun o d => writeObject (onObject 0x5000 0 r) (selsOf d (onObject 0x5000 0 r).session) o d
    rw [if_pos (by decide)] at hserve
    have hexec : exec (.monSelectWrite r) s = serveWrite 0x5000 0 r s := rfl
    rwa [serveWrite, onBoth_eq, hserve] at hexec
  have hcheck : objWriteCheck false 0x5000 0 r.data s.dev = none :=
    objWriteCheck_none (acc := .rw) (ty := .num 1) (by decide) (by decide) (.inl rfl) hf (objShut_of_state hi hl _) (tyCheck_num hn)
  have hcl' : clauseOf (s.noted r) q.sels.clause = some cl := hcl
  have hsel : selClause (s.noted r) (selsOf (s.noted r) r.session) = .inr cl := by
    have hsels : selsOf (s.noted r) r.session = q.sels := by rw [selsOf, h.sessionOf_noted]; rfl
    rw [selClause, hsels, hcl']
  have hres : performOp 2 (selsOf (s.noted r) r.session) true (onObject 0x5000 0 r) s.otp (s.noted r) =
      { st := 0, otp := s.otp, dev := updClause cl.id (putMon (beNat r.data % 8)) (s.noted r) } := by
    have hcheck' : objWriteCheck false 0x5000 0 r.data (s.noted r) = none := hcheck
    simp [performOp, writeVia, onObject, objWrite, hcheck', objPut, objSelector, hsel]
  have hreply := h.execBelufDeferredReply_eq (op := 2) (sub := 0) (by decide) (by decide) rfl
  simp only [answer_open _ _ _ (h.session_ne _) (show 2 ≠ 8 by decide), hres, Bool.false_eq_true, if_false] at hreply
  refine ⟨_, _, _, hoff, rfl, rfl, rfl, rfl, rfl, hreply, replies_of_replyTo (x := { st := 0, otp := s.otp, dev := _ }) rfl, rfl, rfl, ?_⟩
  rw [← clause_id_of_clauseOf hcl] at hcl' ⊢
  exact clauseOf_updClause hcl' rfl

/-- A port that holds no frame goes DOWN as FAB_ENABLE is cleared (R376). -/
theorem fabEnableWrite_off_served (hp : r.sub < 6) (h : Admitted s r 0x2100 q) (hc : objWriteCheck false 0x2100 r.sub r.data s.dev = none)
    (hlen : s.dev.ports.fab.length = 6) (hr : (fabPort s.dev r.sub).replay = []) (hw : (fabPort s.dev r.sub).waiting = [])
    (hv : beNat r.data = 0) : Served (.fabEnableWrite r) s r 2 0x2100 r.sub 0 [] fun t =>
      NoRecord s t ∧ (fabPort t.dev r.sub).enable = false ∧ (fabPort t.dev r.sub).st = .down := by
  obtain ⟨hport, hlog⟩ := putFabEnable_off (d := s.noted r) (p := r.sub) (hlen ▸ hp) hr hw
  refine (fabEnableWrite_writes r hp).taken hc h (d' := putFabEnable r.sub false (s.noted r)) (fun sel => ?_) fun t _ ht => ?_
  · show Sum.inr (putFabEnable r.sub (beNat r.data == 1) _, sel) = _
    rw [hv]; rfl
  · exact ⟨ht.health.trans hlog, by rw [ht.fabPort, hport], by rw [ht.fabPort, hport]⟩

/-- A port that is DOWN goes into training as FAB_ENABLE is set (R376). -/
theorem fabEnableWrite_on_served (hp : r.sub < 6) (h : Admitted s r 0x2100 q) (hc : objWriteCheck false 0x2100 r.sub r.data s.dev = none)
    (hlen : s.dev.ports.fab.length = 6) (hv : beNat r.data = 1) (hst : (fabPort s.dev r.sub).st = .down) :
    Served (.fabEnableWrite r) s r 2 0x2100 r.sub 0 [] fun t =>
      NoRecord s t ∧ (fabPort t.dev r.sub).enable = true ∧ (fabPort t.dev r.sub).st = .training := by
  obtain ⟨hport, hlog⟩ := putFabEnable_on (d := s.noted r) (p := r.sub) (hlen ▸ hp) hst
  refine (fabEnableWrite_writes r hp).taken hc h (d' := putFabEnable r.sub true (s.noted r)) (fun sel => ?_) fun t _ ht => ?_
  · show Sum.inr (putFabEnable r.sub (beNat r.data == 1) _, sel) = _
    rw [hv]; rfl
  · exact ⟨ht.health.trans hlog, by rw [ht.fabPort, hport], by rw [ht.fabPort, hport]⟩

/-- HOST_ENABLE takes its value, and no port without power has a link (R375). -/
theorem hostEnableWrite_served (hp : r.sub < 2) (h : Admitted s r 0x2000 q) (hc : objWriteCheck false 0x2000 r.sub r.data s.dev = none)
    (hlen : s.dev.ports.hosts.length = 2) : Served (.hostEnableWrite r) s r 2 0x2000 r.sub 0 [] fun t =>
      NoRecord s t ∧ (hostPort t.dev r.sub).enable = (beNat r.data == 1) ∧ ∀ p, hostPowered t.dev p = false → (hostPort t.dev p).link = 0 := by
  have hlen' : (s.noted r).ports.hosts.length = 2 := hlen
  refine (hostEnableWrite_writes r hp).taken hc h (d' := putHostEnable r.sub (beNat r.data == 1) (s.noted r)) (fun _ => rfl) fun t _ ht => ?_
  refine ⟨ht.health.trans putHostEnable_health, ?_, fun p hpow => ?_⟩
  · rw [ht.hostPort, hostPort_putHostEnable_enable (hlen'.symm ▸ hp)]
  · rw [ht.hostPort, hostPort_putHostEnable_link hlen' p (ht.hostPowered p ▸ hpow)]

end

/-- Settles O56: for each object the answers that come before its value are those of `Writes.object` and `Writes.shut`, and the value is
taken or RANGE as the check of its own says. -/
theorem objectWritesTakeEffect : Obligations.ObjectWritesTakeEffect := by
  unfold Obligations.ObjectWritesTakeEffect
  intro r q cl s
  refine ⟨?_, ?_, ?_, ?_, ?_, ?_, ?_, ?_, ?_⟩
  -- BEAT_PERIOD_NS (R337)
  · have w := beatPeriodNsWrite_writes r
    refine w.object (.inl rfl) (fun hn => if_pos hn) fun h hf hn => ?_
    exact w.takenIf (w.check_none (.inl rfl) hf (objShut_of_not_gated (by decide) _) (tyCheck_num hn)) h (fun _ => rfl) (periodOk_iff s.dev _)
  -- SCHED_ENTRY (R348, R350)
  · intro h1 h255
    have w := schedEntryWrite_writes r h1 h255
    refine w.object (.inl rfl) (fun hn => if_pos hn) fun h hf hn hi hl => ?_
    exact w.takenIf (w.check_none (.inl rfl) hf (objShut_of_state hi hl _) (tyCheck_octets hn)) h (fun _ => rfl) (schedOk_iff s.dev _)
  -- entry 0, which is read-only (R348)
  · intro h h0
    have w := schedEntryWrite_writes_zero r h0
    refine w.refused h ?_
    rw [objWriteCheck_of_rights w.rights w.noSelector, if_pos (.inl rfl)]
  -- SCIENTIFIC_ENABLE (R469)
  · have w := scientificEnableWrite_writes r
    refine w.object (.inr rfl) (fun hn => if_pos hn) fun h hf hn => ⟨w.shut h, fun hq hv => ?_⟩
    exact w.takenIf (w.check_none (.inr ⟨rfl, hq⟩) hf (objShut_of_not_gated (by decide) _) (tyCheck_bool hn hv)) h (fun _ => rfl) (by simp)
  -- HBM_INTERLEAVE (R315)
  · have w := hbmInterleaveWrite_writes r
    refine w.object (.inr rfl) (fun hn => if_pos hn) fun h hf hn => ⟨w.shut h, fun hq => ?_⟩
    exact w.takenIf (w.check_none (.inr ⟨rfl, hq⟩) hf (objShut_of_not_gated (by decide) _) (tyCheck_num hn)) h (fun _ => rfl) (by simp)
  -- MON_SELECT (R135)
  · exact monSelectWrite_served
  -- FAB_ENABLE (R376)
  · intro hp
    have w := fabEnableWrite_writes r hp
    refine w.object (.inr rfl) (fun hn => if_pos hn) fun h hf hn => ⟨w.shut h, fun hq hlen hr hw => ?_⟩
    have hc (hv : beNat r.data ≤ 1) := w.check_none (.inr ⟨rfl, hq⟩) hf (objShut_of_not_gated (by decide) _) (tyCheck_bool hn hv)
    exact ⟨fun hv => fabEnableWrite_off_served hp h (hc (by omega)) hlen hr hw hv,
      fun hv hst => fabEnableWrite_on_served hp h (hc (by omega)) hlen hv hst⟩
  -- ROUTE_TABLE (R391)
  · intro hp
    have w := routeTableWrite_writes r hp
    refine w.object (.inl rfl) (fun hn => if_pos hn) fun h hf hn => ?_
    exact w.takenIf (w.check_none (.inl rfl) hf (objShut_of_not_gated (by decide) _) (tyCheck_num hn)) h (fun _ => rfl) (routeEntryOk_iff _)
  -- HOST_ENABLE (R375)
  · intro hp
    have w := hostEnableWrite_writes r hp
    refine w.object (.inr rfl) (fun hn => if_pos hn) fun h hf hn => ⟨w.shut h, fun hq hv hlen => ?_⟩
    exact hostEnableWrite_served hp h (w.check_none (.inr ⟨rfl, hq⟩) hf (objShut_of_not_gated (by decide) _) (tyCheck_bool hn hv)) hlen

end Sys2Proof.Machine
end

section
/-! PROOFS. The lines, summaries and completion signals that leave an Adverb cell (R149, R163, R164, R167, R197, R206, R216). -/
namespace Sys2Proof.Machine

/-! ### The first element that a test picks -/

theorem eraseFirst_eq_eraseP {α : Type} (p : α → Bool) (l : List α) : eraseFirst p l = l.eraseP p := by
  induction l with
  | nil => rfl
  | cons x l ih => by_cases h : p x = true <;> simp [eraseFirst, h, ih]

theorem eraseFirst_append_cons {α : Type} {p : α → Bool} {pre l : List α} {x : α} (hpre : ∀ y ∈ pre, p y = false) (hx : p x = true) :
    eraseFirst p (pre ++ x :: l) = pre ++ l := by
  rw [eraseFirst_eq_eraseP, List.eraseP_append_right _ (by simpa using hpre), List.eraseP_cons_of_pos hx]

theorem find?_append_cons {α : Type} {p : α → Bool} {pre l : List α} {x : α} (hpre : ∀ y ∈ pre, p y = false) (hx : p x = true) :
    (pre ++ x :: l).find? p = some x := by
  rw [List.find?_append, List.find?_eq_none.mpr (by simpa using hpre), List.find?_cons_of_pos hx, Option.none_or]

theorem mapFirst_head {α : Type} [DecidableEq α] (x y : α) (l : List α) : mapFirst (fun r => decide (r = x)) (fun _ => y) (x :: l) = y :: l := by
  simp [mapFirst]

/-! ### A cell that holds a slot -/

theorem cell_ne_default_of_slots {x : Cell} (h : x.slots ≠ []) : x ≠ {} := by
  rintro rfl
  exact h rfl

/-- An update of a cell is what it makes of the cell as it stands. -/
theorem updCell_congr {c : LCell} {f g : Cell → Cell} {d : Dev} (h : f (cellAt d c) = g (cellAt d c)) : updCell c f d = updCell c g d := by
  have h' : f (cellP d (phys d c)) = g (cellP d (phys d c)) := h
  unfold cellP at h'
  simp only [updCell, updP, NMap.upd, h']

/-- An update of the first run that is `v` is one of the head, where `v` stands there. -/
theorem updCell_mapFirst_vecs {c : LCell} {v : VecRun} {vs : List VecRun} {d : Dev} (h : (cellAt d c).vecs = v :: vs) (w : VecRun) :
    updCell c (fun x => { x with vecs := mapFirst (fun r => decide (r = v)) (fun _ => w) x.vecs }) d =
      updCell c (fun x => { x with vecs := w :: vs }) d :=
  updCell_congr (by rw [h, mapFirst_head])

theorem cellAt_updCell_vecs {c : LCell} {d : Dev} (hslots : (cellAt d c).slots ≠ []) (vs : List VecRun) :
    cellAt (updCell c (fun x => { x with vecs := vs }) d) c = { cellAt d c with vecs := vs } :=
  cellAt_updCell_self (cell_ne_default_of_slots hslots)

/-- The clause of a cell hangs on its slots and the plan. -/
theorem activeClause_congr {d e : Dev} {c : LCell} {cl : Clause} (h : activeClause d c = some cl)
    (hslots : (cellAt e c).slots = (cellAt d c).slots) (hplan : e.plan = d.plan) : activeClause e c = some cl := by
  rw [← h]
  simp only [activeClause, activeId, activeSlot, slotOf, hslots, clauseOf_congr hplan]

/-! ### Completion signals (R197) -/

section
variable (c : LCell) (off sig : Nat) (d : Dev)

/-- What the sending of a flit keeps, a completion signal keeps. -/
theorem raiseSignal_keeps {β : Type} (g : Dev → β) (h : ∀ a b x, g (sendFlit a b x d) = g d) : g (raiseSignal c off sig d) = g d := by
  unfold raiseSignal
  split
  · rfl
  · split
    · rfl
    · exact h ..

@[simp] theorem raiseSignal_health : (raiseSignal c off sig d).health = d.health := raiseSignal_keeps c off sig d Dev.health fun _ _ _ => rfl
@[simp] theorem raiseSignal_cells : (raiseSignal c off sig d).cells = d.cells := raiseSignal_keeps c off sig d Dev.cells fun _ _ _ => rfl
@[simp] theorem cellAt_raiseSignal (x : LCell) : cellAt (raiseSignal c off sig d) x = cellAt d x :=
  raiseSignal_keeps c off sig d (cellAt · x) fun _ _ _ => rfl

end

section
variable {c : LCell} {cl : Clause} {s t : State} {d : Dev} {off sig : Nat}

theorem raises_of_raiseSignal (ht : t.dev = raiseSignal c off sig d) (hcl : activeClause d c = some cl)
    (hflits : d.mesh.flits = s.dev.mesh.flits) : Raises s t c cl off sig := by
  unfold Raises Injects
  rw [ht, ← hflits]
  constructor
  · intro f w hw
    simp only [raiseSignal, hcl, hw]
    exact sendFlit_flits ..
  · intro hw
    simp only [raiseSignal, hcl, hw]

/-- A descriptor that completes changes its cell, writes no record and raises its signal. -/
theorem completes_of_raiseSignal {f : Cell → Cell} {y : Cell} (ht : t.dev = raiseSignal c off sig (updCell c f s.dev))
    (hslots : (cellAt s.dev c).slots ≠ []) (hcl : activeClause s.dev c = some cl) (hf : f (cellAt s.dev c) = y)
    (hy : y.slots = (cellAt s.dev c).slots) : NoRecord s t ∧ Becomes s t c y ∧ Raises s t c cl off sig := by
  have hcell : cellAt (updCell c f s.dev) c = y := by
    rw [cellAt_updCell_self (hf ▸ cell_ne_default_of_slots (hy ▸ hslots)), hf]
  refine ⟨?_, ?_, raises_of_raiseSignal ht (activeClause_congr hcl (by rw [hcell, hy]) rfl) rfl⟩
  · rw [NoRecord, ht, raiseSignal_health, updCell_health]
  · rw [Becomes, ht, raiseSignal_cells]
    exact congrArg (NMap.set {} s.dev.cells (phys s.dev c)) hf

end

/-! ### NaN watch (R136, R137) -/

theorem watchNans_nil (c : LCell) (off : Nat) (d : Dev) : watchNans c off [] d = d := by
  unfold watchNans
  cases activeClause d c <;> rfl

/-- What NaN watch sees is recorded and latched, and changes nothing that the cells or the mesh hold. -/
theorem watchNans_reports (c : LCell) (off : Nat) (ns : List NanSeen) (d : Dev) : ReportsOnly d (watchNans c off ns d) := by
  unfold watchNans
  split
  · split
    · split
      · exact ((recCell_reports ..).trans (updClause_reports ..)).trans rfl
      · exact (recCell_reports ..).trans (updClause_reports ..)
    · split
      · exact updClause_reports ..
      · exact .refl d
  · exact .refl d

/-! ### Output lines (R149, R202, R272) -/

section
variable {c n : LCell} {d : Dev} (o : Dir) (off : Nat) (l : OutLine)

theorem sendLine_noun : sendLine c (n, 64) o off l d =
    sendTwo (.cell c) (.cell n) (.nounWrite (dirOpp o) l.addr (activeId (cellAt d c)) off l.line) (.nounEnables l.en) d := rfl

/-- A cell that has nothing else to send sends its message at once and keeps it until it is accepted. -/
theorem sendLine_msg {q : Nat} (hq : q ≠ 64) (hsends : (cellAt d c).sends = []) : ∃ m, sendLine c (n, q) o off l d =
    sendFlit (.cell c) (.cell n)
      (.qmsg q (stampGen (cellAt d c).gens (actGenOf d (activeId (cellAt d c))) n q) (strictOut (activeData (cellAt d c))) l.line)
      (updCell c (fun x => { x with sends := [m] }) d) := by
  simp only [sendLine, hq, if_false, sendMsg, senderOf, hsends, blockedQueue, List.any_nil, Bool.and_false, Bool.false_eq_true,
    setSender, sentFlit, List.nil_append]
  exact ⟨_, congrArg _ (updCell_congr rfl)⟩

end

/-- The view of output Y0 or Y1 (R209). -/
def outView (y : Nat) : Nat := if y = 0 then 4 else 5

/-- The run once line `l` of output `y`, whose further lines are `ls`, has left and awaits its acknowledgement. -/
def VecRun.lineLeft (v : VecRun) (y : Nat) (l : OutLine) (ls : List OutLine) : VecRun :=
  v.setOut y { v.out y with lines := ls, acks := (v.out y).acks ++ [l.addr] }

/-- ADVERB_OUTPUT_WRITE sends the flits `bs` to cell `n` and leaves the runs `vs` in cell `c`, with no record and the operand file as it
was. -/
def OutputSends (s : State) (c n : LCell) (y : Nat) (vs : List VecRun) (bs : List Body) : Prop :=
  ∃ t, exec (.adverbOutputWrite c y) s = .next t ∧ NoRecord s t ∧ InjectsAll s.dev.mesh.flits t (bs.map fun b => (.cell c, .cell n, b)) ∧
    (cellAt t.dev c).vecs = vs ∧ (cellAt t.dev c).opfile = (cellAt s.dev c).opfile

section
variable {c n : LCell} {y : Nat} {v : VecRun} {vs : List VecRun} {l : OutLine} {ls : List OutLine} {s : State}

section
variable (hvecs : (cellAt s.dev c).vecs = v :: vs) (hlines : (v.out y).lines = l :: ls) (hgoes : engineGoes s.dev c = true) (hnans : l.nans = [])
include hvecs hlines hgoes hnans

/-- ADVERB_OUTPUT_WRITE sends the first line of the oldest VECTOR that has one. -/
theorem execAdverbOutputWrite_head
    (hport : vLoc v.raw (outView y) ≠ 6 → usable s.dev c (dirOf (vLoc v.raw (outView y) - 2)) ≠ none) :
    execAdverbOutputWrite c y s = .next { s with
      dev := sendLine c (v.out y).dest (dirOf (vLoc v.raw (outView y) - 2)) v.off l
        (updCell c (fun x => { x with vecs := v.lineLeft y l ls :: vs }) s.dev) } := by
  have hfind : (v :: vs).find? (fun v => !(v.out y).lines.isEmpty) = some v := List.find?_cons_of_pos (by simp [hlines])
  have hport' : ¬(vLoc v.raw (outView y) ≠ 6 ∧ (usable s.dev c (dirOf (vLoc v.raw (outView y) - 2))).isNone = true) :=
    fun ⟨hloc, hnone⟩ => hport hloc (Option.isNone_iff_eq_none.mp hnone)
  simp only [outView] at hport' ⊢
  simp only [execAdverbOutputWrite, onDev_eq, hvecs, hfind, hlines, hgoes, Bool.not_true, Bool.false_eq_true, if_false, hport', hnans,
    List.map_nil, watchNans_nil, updCell_mapFirst_vecs hvecs, VecRun.lineLeft]

variable (hslots : (cellAt s.dev c).slots ≠ [])
include hslots

/-- The line goes to the output's Noun neighbour, its byte enables behind it. -/
theorem outputSends_noun (huse : usable s.dev c (dirOf (vLoc v.raw (outView y) - 2)) = some n) (hdest : (v.out y).dest = (n, 64)) :
    OutputSends s c n y (v.lineLeft y l ls :: vs)
      [.nounWrite (dirOpp (dirOf (vLoc v.raw (outView y) - 2))) l.addr (activeId (cellAt s.dev c)) v.off l.line, .nounEnables l.en] := by
  have hcell := cellAt_updCell_vecs hslots (v.lineLeft y l ls :: vs)
  refine ⟨_, execAdverbOutputWrite_head hvecs hlines hgoes hnans (fun _ => huse ▸ Option.some_ne_none n), ?_⟩
  rw [hdest, sendLine_noun, hcell]
  refine ⟨rfl, ⟨[_, _], List.append_assoc .., rfl⟩, ?_⟩
  simp only [sendTwo, cellAt_sendFlit, hcell, and_self]

/-- The line goes as a message to the output's queue. -/
theorem outputSends_msg {q : Nat} (hq : q ≠ 64) (hsends : (cellAt s.dev c).sends = []) (hloc : vLoc v.raw (outView y) = 6)
    (hdest : (v.out y).dest = (n, q)) : OutputSends s c n y (v.lineLeft y l ls :: vs)
      [.qmsg q (stampGen (cellAt s.dev c).gens (actGenOf s.dev (activeId (cellAt s.dev c))) n q) (strictOut (activeData (cellAt s.dev c))) l.line] := by
  have hcell := cellAt_updCell_vecs hslots (v.lineLeft y l ls :: vs)
  obtain ⟨m, hm⟩ := sendLine_msg (n := n) (dirOf (vLoc v.raw (outView y) - 2)) v.off l hq (congrArg Cell.sends hcell |>.trans hsends)
  rw [hcell] at hm
  have hcell' : cellAt (updCell c (fun x => { x with sends := [m] }) (updCell c (fun x => { x with vecs := v.lineLeft y l ls :: vs }) s.dev)) c =
      { cellAt s.dev c with vecs := v.lineLeft y l ls :: vs, sends := [m] } := by
    rw [cellAt_updCell_self (hcell ▸ cell_ne_default_of_slots hslots), hcell]
  refine ⟨_, execAdverbOutputWrite_head hvecs hlines hgoes hnans (absurd hloc), ?_⟩
  rw [hdest, hm]
  refine ⟨rfl, ⟨[_], rfl, rfl⟩, ?_⟩
  simp only [cellAt_sendFlit, hcell', and_self]

end

/-! ### Summaries (R163) -/

/-- The NaN words of a run's summary as NaN watch sees them (R137). -/
def VecRun.summarySeen (v : VecRun) : List NanSeen :=
  v.sumNans.map fun n => { coords := List.replicate 6 0, output := 3, stage := n.2.1, format := n.2.2, d0 := n.1, d1 := 0 }

/-- SUMMARY_SEND sends the summary of the oldest VECTOR with no line left to send; NaN watch then looks at its words. -/
theorem execSummarySend_head {t : LCell} {pay : List Byte} (hvecs : (cellAt s.dev c).vecs = v :: vs) (hsent : v.sent = true)
    (hsum : v.summary = some (t, pay)) (hgoes : engineGoes s.dev c = true) :
    execSummarySend c s = .next { s with
      dev := watchNans c v.off v.summarySeen (sendFlit (.cell c) (.cell t) (.summary pay)
        (updCell c (fun x => { x with vecs := { v with summary := none, sumWait := some t } :: vs }) s.dev)) } := by
  have hfind : (v :: vs).find? (fun v => v.sent && v.summary.isSome) = some v := List.find?_cons_of_pos (by simp [hsent, hsum])
  simp only [execSummarySend, onDev_eq, hvecs, hfind, hsum, hgoes, Bool.not_true, Bool.false_eq_true, if_false,
    updCell_mapFirst_vecs hvecs, VecRun.summarySeen]

theorem summarySend_sends {t : LCell} {pay : List Byte} (hslots : (cellAt s.dev c).slots ≠ []) (hvecs : (cellAt s.dev c).vecs = v :: vs)
    (hsent : v.sent = true) (hsum : v.summary = some (t, pay)) (hgoes : engineGoes s.dev c = true) :
    ∃ u, exec (.summarySend c) s = .next u ∧ Injects s.dev.mesh.flits u (.cell c) (.cell t) (.summary pay) ∧
      (cellAt u.dev c).vecs = { v with summary := none, sumWait := some t } :: vs ∧ (v.sumNans = [] → NoRecord s u) := by
  have hwatch (d : Dev) := watchNans_reports c v.off v.summarySeen d
  refine ⟨_, execSummarySend_head hvecs hsent hsum hgoes, ?_, ?_, fun hn => ?_⟩
  · obtain ⟨f, hf⟩ := sendFlit_flits (updCell c (fun x => { x with vecs := { v with summary := none, sumWait := some t } :: vs }) s.dev)
      (.cell c) (.cell t) (.summary pay)
    exact ⟨f, (congrArg Mesh.flits (hwatch _).mesh).trans hf.1, hf.2⟩
  · rw [(hwatch _).cellAt, cellAt_sendFlit, cellAt_updCell_vecs hslots]
  · rw [VecRun.summarySeen, hn, List.map_nil, watchNans_nil]
    rfl

/-! ### VECTOR and STAGE complete (R167, R206) -/

variable {cl : Clause} (hslots : (cellAt s.dev c).slots ≠ []) (hcl : activeClause s.dev c = some cl)
include hslots hcl

/-- VECTOR_COMPLETE takes the oldest VECTOR that meets the three conditions. -/
theorem vectorComplete_completes {pre : List VecRun} (hvecs : (cellAt s.dev c).vecs = pre ++ v :: vs) (hpre : ∀ w ∈ pre, w.complete = false)
    (hv : v.complete = true) : ∃ t, exec (.vectorComplete c) s = .next t ∧ NoRecord s t ∧
      Becomes s t c { cellAt s.dev c with vecs := pre ++ vs } ∧ Raises s t c cl v.off (fld v.raw 4 2) := by
  have hexec : execVectorComplete c s = .next { s with
      dev := raiseSignal c v.off (fld v.raw 4 2) (updCell c (fun x => { x with vecs := eraseFirst VecRun.complete x.vecs }) s.dev) } := by
    simp only [execVectorComplete, onDev_eq, hvecs, find?_append_cons hpre hv]
  exact ⟨_, hexec, completes_of_raiseSignal rfl hslots hcl (by rw [hvecs, eraseFirst_append_cons hpre hv]) rfl⟩

theorem stageComplete_completes {g : StageRun} (hstage : (cellAt s.dev c).stage = some g) (hneed : g.need = []) (hleft : g.left = []) :
    ∃ t, exec (.stageComplete c) s = .next t ∧ NoRecord s t ∧
      Becomes s t c { cellAt s.dev c with stage := none } ∧ Raises s t c cl g.off (fld g.raw 4 2) := by
  have hexec : execStageComplete c s = .next { s with
      dev := raiseSignal c g.off (fld g.raw 4 2) (updCell c (fun x => { x with stage := none }) s.dev) } := by
    simp [execStageComplete, hstage, hneed, hleft]
  exact ⟨_, hexec, completes_of_raiseSignal rfl hslots hcl rfl rfl⟩

end

/-! ### The small matrix unit (R164, R216) -/

/-- The operand file and the SMM after one more segment, where one is left. -/
def smmNext (p : Mem × SmmRun) : Mem × SmmRun :=
  if smmBlocks p.2.raw ≤ p.2.blk then p else ((smmSegment p.1 p.2).1, (smmSegment p.1 p.2).2.1)

theorem smmGo_succ (c : LCell) (n : Nat) (d : Dev) : smmGo c (n + 1) d = smmAdvance c (smmGo c n d) := by
  induction n generalizing d with
  | zero => rfl
  | succ n ih => exact ih (smmAdvance c d)

/-- Device `d` is `e` but for the SMM of cell `c`, its operand file and its counters, and stands at `p`. -/
structure SmmStands (c : LCell) (e : Dev) (p : Mem × SmmRun) (d : Dev) : Prop where
  cell : ∃ k, cellAt d c = { cellAt e c with opfile := p.1, smm := some p.2, ctr := k }
  plan : d.plan = e.plan
  health : d.health = e.health
  mesh : d.mesh = e.mesh

section
variable {c : LCell} {e d : Dev} {p : Mem × SmmRun} (hslots : (cellAt e c).slots ≠ [])
include hslots

theorem SmmStands.updCell (h : SmmStands c e p d) {f : Cell → Cell} {q : Mem × SmmRun}
    (hf : ∃ k, f (cellAt d c) = { cellAt e c with opfile := q.1, smm := some q.2, ctr := k }) : SmmStands c e q (updCell c f d) := by
  obtain ⟨k, hk⟩ := hf
  refine ⟨⟨k, ?_⟩, h.plan, h.health, h.mesh⟩
  rw [cellAt_updCell_self (hk ▸ cell_ne_default_of_slots hslots), hk]

theorem SmmStands.addCtr (h : SmmStands c e p d) (k : Ctr) : SmmStands c e p (addCtr c k d) := by
  obtain ⟨j, hj⟩ := h.cell
  unfold Machine.addCtr
  split
  · split
    · exact h.updCell hslots ⟨_, by rw [hj]⟩
    · exact h
  · exact h

theorem SmmStands.smmAdvance (h : SmmStands c e p d) : SmmStands c e (smmNext p) (smmAdvance c d) := by
  obtain ⟨k, hk⟩ := h.cell
  simp only [Machine.smmAdvance, hk, smmNext]
  split
  · exact h
  · exact (h.updCell hslots ⟨k, by rw [hk]⟩).addCtr hslots _

theorem SmmStands.smmGo (h : SmmStands c e p d) (n : Nat) : SmmStands c e (Nat.repeat smmNext n p) (smmGo c n d) := by
  induction n with
  | zero => exact h
  | succ n ih => rw [smmGo_succ]; exact ih.smmAdvance hslots

end

/-- SMM_COMPLETE runs every segment that is left (the model's choice, notes/assumptions/13) and raises the signal. -/
theorem smmComplete_completes {c : LCell} {cl : Clause} {m : SmmRun} {s : State} (hslots : (cellAt s.dev c).slots ≠ [])
    (hcl : activeClause s.dev c = some cl) (hsmm : (cellAt s.dev c).smm = some m) (hgoes : engineGoes s.dev c = true) :
    ∃ t, exec (.smmComplete c) s = .next t ∧ NoRecord s t ∧ (cellAt t.dev c).smm = none ∧
      (cellAt t.dev c).opfile = (Nat.repeat smmNext (smmLeft m) ((cellAt s.dev c).opfile, m)).1 ∧ Raises s t c cl m.off (fld m.raw 4 2) := by
  have hstart : SmmStands c s.dev ((cellAt s.dev c).opfile, m) s.dev := ⟨⟨(cellAt s.dev c).ctr, by rw [← hsmm]⟩, rfl, rfl, rfl⟩
  have hend := hstart.smmGo hslots (smmLeft m)
  obtain ⟨k, hk⟩ := hend.cell
  have hexec : execSmmComplete c s = .next { s with
      dev := raiseSignal c m.off (fld m.raw 4 2) (updCell c (fun x => { x with smm := none }) (smmGo c (smmLeft m) s.dev)) } := by
    simp [execSmmComplete, hsmm, hgoes]
  have hcell : cellAt (updCell c (fun x => { x with smm := none }) (smmGo c (smmLeft m) s.dev)) c =
      { cellAt s.dev c with opfile := (Nat.repeat smmNext (smmLeft m) ((cellAt s.dev c).opfile, m)).1, smm := none, ctr := k } := by
    rw [cellAt_updCell_self (hk ▸ cell_ne_default_of_slots hslots), hk]
  refine ⟨_, hexec, (raiseSignal_health ..).trans hend.health, ?_, ?_, raises_of_raiseSignal rfl
    (activeClause_congr hcl (by rw [hcell]) hend.plan) (by rw [updCell_mesh, hend.mesh])⟩
  · rw [cellAt_raiseSignal, hcell]
  · rw [cellAt_raiseSignal, hcell]

/-- Settles O34: each command acts on the first descriptor that its condition picks; the SMM's segments are carried along
`SmmStands`. -/
theorem adverbOutputsAndCompletions : Obligations.AdverbOutputsAndCompletions := by
  unfold Obligations.AdverbOutputsAndCompletions
  intro c v vs cl s x hslots hcl
  refine ⟨?_, ?_, ?_, ?_, ?_⟩
  -- ADVERB_OUTPUT_WRITE (R149, R202)
  · intro l ls n hvecs hgoes hnans
    exact ⟨fun hlines => ⟨fun _ huse hdest => outputSends_noun (y := 0) hvecs hlines hgoes hnans hslots huse hdest,
        fun _ hq hsends hloc hdest => outputSends_msg (y := 0) hvecs hlines hgoes hnans hslots hq hsends hloc hdest⟩,
      fun hlines => ⟨fun _ huse hdest => outputSends_noun (y := 1) hvecs hlines hgoes hnans hslots huse hdest,
        fun _ hq hsends hloc hdest => outputSends_msg (y := 1) hvecs hlines hgoes hnans hslots hq hsends hloc hdest⟩⟩
  -- SUMMARY_SEND (R163)
  · intro t pay hvecs hsum hpos h0 h1 hgoes
    exact summarySend_sends hslots hvecs (by simp [VecRun.sent, VecRun.evald, hpos, h0, h1]) hsum hgoes
  -- VECTOR_COMPLETE (R167)
  · intro pre hvecs hpre hsum hwait hpos h0 h1 ha0 ha1
    exact vectorComplete_completes hslots hcl hvecs hpre (by simp [VecRun.complete, VecRun.sent, VecRun.evald, hpos, h0, h1, ha0, ha1, hsum, hwait])
  -- SMM_COMPLETE (R164, R216)
  · intro m hsmm hgoes
    exact smmComplete_completes hslots hcl hsmm hgoes
  -- STAGE_COMPLETE (R206)
  · intro g hstage hneed hleft
    exact stageComplete_completes hslots hcl hstage hneed hleft

end Sys2Proof.Machine
end
